-- ==== Sys2Proof/Word.lean ====
section
/-! DEFINITION. Words and bytes: the widths the manual gives its fields, registers and tiles (R7, R9, R12). -/

namespace Sys2Proof

/-- One byte, as stored in memory or carried in a packet. -/
abbrev Byte := BitVec 8
/-- A string of bytes, the byte of lowest address first. -/
abbrev Bytes := List Byte
/-- A 32-bit register, or the pattern of an FP32 value. -/
abbrev W32 := BitVec 32
/-- A 64-bit register. -/
abbrev W64 := BitVec 64
/-- A 128-bit AES block. -/
abbrev W128 := BitVec 128
/-- A 64-byte descriptor, tile or journal entry; bit 0 is the least significant bit of byte 0 (R7). -/
abbrev W512 := BitVec 512

end Sys2Proof
end

