-- ==== Sys2Proof/Syntax.lean ====
section
/-! DEFINITION. The commands and events of the node: one constructor per row of spec/opcode_table.json, with what the
outside supplies as its operands. Rows that act on work the node already holds name the unit or the queue they act on;
rows that come from outside carry what arrives (a packet, a descriptor, a register value, a physical outcome). -/

namespace Sys2Proof

/-- What the read of a pool WRITE's lines from host memory gives (R315): the lines, or the cause of its bus error and the address. -/
inductive DptrRead where
  | lines (bs : Bytes)
  | failed (cause : Nat) (addr : W64)
  deriving DecidableEq, Repr

/-- A window: BAR0 of the PF, BAR2 of one function, or its BAR4, the apertures (Table 12.1). -/
inductive Window where
  | bar0
  | bar2 (fn : Nat) (tbit : Bool)
  | bar4 (fn : Nat) (tbit : Bool)
  deriving DecidableEq, Repr

/-- What a DRAM column read met (R98): an error the array's ECC corrected, one it could not, or stored bits that
differ from what was written without an ECC report. -/
inductive ColKind where
  | corrected
  | uncorrectable
  | flipped (mask : W512)
  deriving DecidableEq, Repr

/-- A column fault: the tile address (R334 tweak bits [32:0]) and what the read met there. -/
structure ColFault where
  tile : Nat
  kind : ColKind
  deriving DecidableEq, Repr

/-- The partner's identity received in IDENT, with what training found on the lanes (R255, Table 10.3, Table 10.15). -/
structure Ident where
  pkind    : Nat
  pend     : Nat
  plink    : Nat
  fabric   : Nat
  reversed : Bool
  inverted : Nat
  snr      : Nat
  deriving DecidableEq, Repr

/-- What the FEC decoder found in a flit (R253, R282): whether it is whole, and how many codewords were corrected and not. -/
structure FlitFec where
  ok          : Bool
  corrected   : Nat
  uncorrected : Nat
  deriving DecidableEq, Repr

/-- A doorbell write as it arrives: its value and the T bit of its TLP (R304). -/
structure RingWrite where
  value : W32
  tbit  : Bool
  deriving DecidableEq, Repr

/-- A write of a function's control register: the function, and the T bit of its TLP (R304). -/
structure FnWrite where
  fn   : Nat
  tbit : Bool
  deriving DecidableEq, Repr

/-- A control write of a channel: none for DMA_CH_CTL in BAR0, else the T bit of a write to the owner's channel page (R304, R305). -/
structure ChWrite where
  ch   : Nat
  page : Option Bool
  deriving DecidableEq, Repr

/-- Where an IDE check failed (R303): the channel whose read it ended, if any, and the address of the read. -/
structure IdeHit where
  ch   : Option Nat
  addr : W64
  deriving DecidableEq, Repr

/-- A merge that reads: the table entry, and the column faults that its pool units' reads meet (R19, R98). -/
structure MergeRead where
  tidx   : Nat
  faults : List ColFault
  deriving DecidableEq, Repr

/-- What a spill meets: column faults of its reads, and the cause of a bus error on its writes (R189). -/
structure SpillRun where
  faults : List ColFault
  bus    : Option Nat
  deriving DecidableEq, Repr

/-- The mirror that SET_MIRROR names, and the column faults that the first fill's reads meet (R199, R206). -/
structure MirrorTo where
  node   : Option Nat
  faults : List ColFault
  deriving DecidableEq, Repr

/-- A page-run's identity (R167). -/
structure RunId where
  ten   : Nat
  seq   : Nat
  layer : Nat
  hgrp  : Nat
  page  : Nat
  deriving DecidableEq, Repr, Inhabited

/-- What the journal device on CS1 is found to be at start-up (R388). -/
inductive JDev where
  | absent
  | badHeader
  | present (bytes : Nat)
  deriving DecidableEq, Repr

/-- The physical outcomes that start-up meets (Table 15.4, Table 15.5). -/
structure StartEnv where
  sramOk  : Bool
  jdev    : JDev
  norOk   : Bool
  hbmFail : Option Nat
  fwOk    : Bool
  deriving DecidableEq, Repr

/-- One ordinary claim of the memory controller on a bank (R89, R90): columns moved and direction. -/
structure Claim where
  cols  : Nat
  write : Bool
  deriving DecidableEq, Repr, Inhabited

/-- A register write: window, byte offset, access width in bits (32 or 64) and value. -/
structure RegAcc where
  win   : Window
  off   : Nat
  width : Nat
  val   : W64
  deriving DecidableEq, Repr

/-- QP_CREATE's fields of Table 10.7 not marked node (R265). -/
structure QpArgs where
  qpn : Nat
  type : Nat
  enc : Bool
  ten : Nat
  part : Nat
  remote : Nat
  rqpn : Nat
  txclass : Nat
  pmaxc : Nat
  paths : List Nat
  pmask : Nat
  cwin : Nat
  swin : Nat
  rbase : Nat
  rakidx : Nat
  raktag : Nat
  cq : Nat
  ckey : Nat
  salt : W32
  ridge : Nat
  deriving DecidableEq, Repr

/-- Region properties of CREATE_REGION (Table 8.1). -/
structure RegionProps where
  ten : Nat
  part : Nat
  efmt : Nat
  coding : Nat
  k : Nat
  n : Nat
  rowlen : Nat
  t0ok : Bool
  deriving DecidableEq, Repr, Inhabited

/-- The commands of the table, in its order. Log entry 37, DESIGN CHOICE. -/
inductive Instr where
  -- registers (R11, R12)
  | registerWrite (a : RegAcc)
  | w1cRegisterWrite (a : RegAcc) (hwSet : W64)
  | rcRegisterRead (win : Window) (off width : Nat)
  -- Ozsel links and transport
  | flitReceive (link : Nat) (flit : Bytes) (fec : FlitFec)
  | linkLoss (link : Nat)
  | linkTrainingComplete (link : Nat) (result : Option Ident)
  | retrain (link : Nat)
  | packetIngress (link : Nat) (hdr : W512) (payload : Bytes)
  | qpContextFetchDone (qpn : Nat) (image : Bytes)
  | qpContextEvict (qpn : Nat)
  | accessKeyFetchDone (idx : Nat)
  | submitHandOn (qpn : Nat)
  | write (qpn msn : Nat)
  | writeImm (qpn msn : Nat)
  | writeImmCompletion (cq : Nat)
  | read (qpn msn : Nat)
  | atomic (qpn msn : Nat)
  | credit (qpn : Nat)
  | resync (qpn : Nat)
  | partialMsg (qpn msn : Nat)
  -- attention
  | tenon
  | leafBlockReadDone (addr : Nat) (fault : Option ColKind)
  | clusterWorkOrder (faults : List ColFault)
  | frameOrder (stack : Nat) (faults : List ColFault)
  | slotBoundary (stack die group bank : Nat) (arrivals : List Claim) (faults : List ColFault)
  | refreshDue (stack die group bank : Nat)
  | activityWindow (stack : Nat)
  | regulatorLevelChange (stack die : Nat) (temp : Int)
  | clusterLevelChange (cluster : Nat) (temp : Int)
  | stackMerge (stack tidx : Nat)
  | faultReport
  | tenonMerge (read : MergeRead)
  -- egress
  | egressEnqueue (link : Nat)
  | schedulerPick (link : Nat)
  | policerRefill (link : Nat)
  -- ledger edits and sequence commands
  | append (slot : Nat) (faults : List ColFault)
  | trim (slot : Nat)
  | keep (slot : Nat) (faults : List ColFault)
  | fork (slot : Nat) (faults : List ColFault)
  | editPublish (slot : Nat)
  | openSeq
  | closeSeq (slot : Nat)
  -- placement messages
  | offer (faults : List ColFault)
  | accept
  | commit
  | claimed
  | claim
  | decline
  | release
  | mirrorEdit
  | mirrorAck
  | shadow
  -- pool requests
  | openVersion
  | closeVersion
  | openDraft
  | poolWrite (faults : List ColFault)
  | discard
  | publish (faults : List ColFault)
  | poolPublishSwap (draft : Nat)
  | gather (faults : List ColFault)
  | draftAbort
  -- tier manager
  | tnowAdvance
  | tnowRebase
  | pnowAdvance
  | promotion (id : RunId) (faults : List ColFault)
  | demotion (id : RunId) (faults : List ColFault)
  | lending (id : RunId) (faults : List ColFault)
  | spill (id : RunId) (run : SpillRun)
  | stageBack (id : RunId) (image : Bytes)
  | returnRun (id : RunId) (faults : List ColFault)
  | tileReread (id : RunId) (faults : List ColFault)
  -- host interface
  | sqEntry (fn sq : Nat) (entry : BitVec 2048) (lines : DptrRead)
  | sqTailDoorbell (fn sq : Nat) (v : RingWrite)
  | cqHeadDoorbell (fn cq : Nat) (v : RingWrite)
  | channelTailDoorbell (fn ch : Nat) (v : RingWrite)
  | channelDescriptor (ch : Nat) (desc : W512)
  | busError (ch cause : Nat) (addr : W64)
  | restart (w : ChWrite)
  | skip (w : ChWrite)
  | adminSqTailDoorbell (fn : Nat) (v : RingWrite)
  | adminCqHeadDoorbell (fn : Nat) (v : RingWrite)
  | eqHeadDoorbell (fn : Nat) (v : RingWrite)
  | createCq (fn : Nat) (entry : W512)
  | deleteCq (fn : Nat) (entry : W512)
  | createSq (fn : Nat) (entry : W512)
  | deleteSq (fn : Nat) (entry : W512)
  | setChannel (fn : Nat) (entry : W512)
  | setSpillArea (fn : Nat) (entry : W512)
  | setQpTable (fn : Nat) (entry : W512)
  | mgmt (fn : Nat) (entry : W512) (envelope : Bytes)
  | functionEnable (w : FnWrite)
  | functionRelease (w : FnWrite)
  | functionLevelReset (fn : Nat)
  | tdiError (fn : Nat)
  | stopInterface (fn : Nat)
  | pcieLinkLoss
  | ideCheckFailure (stream : Nat) (hit : IdeHit)
  | queryApertureWrite (fn addr : Nat) (data : Bytes) (tbit : Bool)
  | partialApertureWrite (fn addr : Nat) (data : Bytes) (tbit : Bool)
  | plcQcmdGo
  | shpQcmdGo
  | dirQcmdGo
  | jnlRdCmdGo
  | rcvRecRelease (idx : Nat)
  | wake
  -- resets and faults
  | contextReset (ckind target : Nat) (answers : Bool)
  | engineReset (engine : Nat) (answers : Bool)
  | partitionReset (part : Nat) (answers : Bool)
  | computeOnlyChipReset (answers digestOk : Bool)
  | fullChipReset (env : StartEnv)
  | powerCycle
  | reset (level ckind target : Nat) (answers digestOk : Bool) (env : StartEnv)
  | uncorrectableArrayError (engine array tidx : Nat)
  | handshakeProtocolError (engine stage : Nat)
  | managementCoreException (exc : Nat)
  | journalCommitDone (readBackOk : Bool)
  | norStatusPoll (done answers : Bool)
  -- start-up, power and pins
  | perstRelease (env : StartEnv)
  | nodeRstRelease (env : StartEnv)
  | powerLoss
  | dormant
  | linkPartnerLpiExit (link : Nat)
  | wakeHoldExpiry (linksUp : List Nat)
  | teardownResidueClear
  | zeroFill (kib : Nat)
  -- management commands
  | admitTenant (ten part g : Nat) (ct wtrk : Bytes)
  | removeTenant (ten : Nat)
  | setFabricKey (ct wfwk : Bytes)
  | setConnKey (slot ten : Nat) (fabric : Bool) (salt : W32) (wcs : Bytes)
  | getReport (nonce : Bytes) (ten : Nat) (nodewide : Bool)
  | getCert
  | setPlacement (ten quota tiers peers : Nat)
  | setMirror (ten : Nat) (mirror : MirrorTo)
  | reconcile (id : RunId) (count peer : Nat)
  | adoptHome (id : RunId) (e : Nat)
  | discardPending (id : RunId)
  | promote (ten failed : Nat)
  | fillSpare (ten mirror failed : Nat)
  | cancelFill (ten : Nat)
  | createRegion (idx : Nat) (p : RegionProps)
  | deleteRegion (idx : Nat)
  | closeReaders (idx : Nat)
  | abortOwner (node : Nat)
  | dirPut (image : W512)
  | dirRemove (idx : Nat)
  | dirFind (key : BitVec 112) (cursor : W32)
  | dirRead (idx : Nat)
  | qpCreate (a : QpArgs)
  | qpModify (qpn : Nat) (paths : List Nat) (pmask cwin swin txclass pmaxc : Nat)
  | qpDestroy (qpn : Nat)
  | qpClear (qpn : Nat)
  | keyCreate (idx : Nat) (entry : BitVec 256)
  | keyDestroy (idx : Nat)
  | setRidge (idx intake onward : Nat) (contributors : List Nat)
  | cancelRidge (idx : Nat) (tag : Option Nat)
  | setFence (e : Nat) (self : Bool) (map : List Nat)
  | unfence (e : Nat)
  | setPolicer (inst ten cls cinc pinc cbs pbs : Nat)
  | clearPolicer (inst : Nat)
  | setTenantQuantum (ten q : Nat)
  | loadProgram (image : Bytes)
  | unloadProgram (slot : Nat)
  | loadTable (image : Bytes)
  | unloadTable (slot : Nat)
  | setProjection (ten first nlm1 nq dcode lcode region : Nat)
  | clearProjection (ten first nlm1 : Nat)
  | imageWrite (off : Nat) (data : Bytes)
  | imageCommit
  -- sideband
  | i3cStatus
  | journalBounds
  | journalRead (jseq : Nat)
  | identity
  | i3cWake
  | chipReset (code : BitVec 16) (env : StartEnv)
  | extest
  | idcode
  | samplePreload (v : Nat)
  | clamp
  | highz
  | bypass (code : Byte)
  -- pins, PCIe and TDISP
  | pwrokRise (railsOk : Bool)
  | perstAssert
  | nodeRstAssert
  | pcieLinkUp (speed width : Nat)
  | lockInterface (fn : Nat)
  | startInterface (fn : Nat)
  | spdmRequest (req : Bytes)
  | ideKm (stream : Nat) (fn : Nat) (msgs : Bytes)
  | dynamicAddress (addr : Nat)
  | dmaReadCompletion (ch : Nat) (data : Bytes)
  deriving DecidableEq, Repr

end Sys2Proof
end

