-- ==== Sys2Proof/Decode.lean ====
section
/-! DEFINITION. The command that a word spells by the table's bits. The table gives bits to no row: the node takes commands
and events, not encoded words, so no word spells one. -/

namespace Sys2Proof

/-- The command of a table word: no row of the opcode table has bits. -/
def decodeTableWord (_nbits _w : Nat) : Option Instr := none

end Sys2Proof
end

