-- ==== Sys2Proof/Config.lean ====
section
/-! DEFINITION. What one die, its fuses and its boot ROM fix, the outside standards the manual cites without giving
their algorithms, and the free values the manual leaves open. None has a body that a proof can see: a claim about
them holds for every value. -/

namespace Sys2Proof

/-- A free value: what the manual leaves open or unspecified (log entry 3, DESIGN CHOICE). Applied to a counter in the state. -/
opaque Config.freeValue : Nat → W64
/-- Words from the node's random generator (R332, R333): NRK and BOOTID are drawn from it (log entry 3, DESIGN CHOICE). -/
opaque Config.random : Nat → Bytes

/-- TOP_ID.STEPPING, per die (Table 0.2). -/
opaque Config.stepping : BitVec 8
/-- UDS, fused at manufacture (R332). -/
opaque Config.uds : Bytes
/-- Digest of the boot ROM (Table 13.8). -/
opaque Config.romDigest : Bytes
/-- The SHAKE256 digest of Lormael's firmware key, held in the boot ROM (R384 check 3). -/
opaque Config.fwpkDigest : Bytes
/-- The fused operator-key digest; none when the fuse field is not programmed (R384 check 4, R386). -/
opaque Config.opkFuse : Option Bytes
/-- The fused VDD_CORE target in millivolts (R396). -/
opaque Config.targetMv : BitVec 10
/-- AVSBus readback of voltage and of current (Table 15.17, "measured"). -/
opaque Config.measMv : BitVec 10
opaque Config.measAmps : BitVec 16
/-- The I3C address strap I3C_SA (R403). -/
opaque Config.i3cStrap : BitVec 3

/-- Which node holds the region that an SQ entry's pool request names: no field of the entry gives it (R215, log entry 28, DESIGN CHOICE). -/
opaque Config.poolHolder : BitVec 2048 → Nat
/-- The bytes of a row of a region that another node holds, which an SQ entry's GATHER names: nothing at this node tells them (R314, log
entry 136, DEDUCED). -/
opaque Config.foreignRow : BitVec 2048 → Nat
/-- Which function of its node a forwarded pool request names as its owner: no field gives it (R215, log entry 28, DESIGN CHOICE). -/
opaque Config.forwardFn : W512 → Nat

/-- Whether a SHADOW, given its body, is the last that a mirror sends a spare: nothing in the message says it (R204, log entry 34, DESIGN CHOICE). -/
opaque Config.lastShadow : Nat → Bool

/-- The generation that the key-encryption key of SET_FABRIC_KEY is formed with: the command carries none (R345, log entry 40, DESIGN CHOICE). -/
opaque Config.fabricGen : Nat
/-- The T1 tiles in which the arbor of a slot, and two share-table entries, lie: R166 sets the tables aside and gives them no place (log entry 167, DESIGN
CHOICE). -/
opaque Config.arborTile : (slot : Nat) → Nat
opaque Config.shareTile : (pair : Nat) → Nat

/-- The log event of an admission or removal but for EVT: Table 13.10 gives such events no KIND and no DIGEST (log entry 41, DESIGN CHOICE). -/
opaque Config.tenantEvent : (ten part gen : Nat) → BitVec 640

/-- The SHA-384 digest of the boot ROM, whose bytes no file of the manual gives (R355, log entry 42, DESIGN CHOICE). -/
opaque Config.romSha : Bytes
/-- Falcon-1024 version 1.2 (R354; log entry 171, PRESUMED): verification of a padded signature under a public key. -/
opaque Config.falconVerify : (pk msg sig : Bytes) → Bool
/-- Falcon-1024 key generation from a seed: the public key. -/
opaque Config.falconPublic : (seed : Bytes) → Bytes
/-- Falcon-1024 signature with the key of a seed. -/
opaque Config.falconSign : (seed msg : Bytes) → Bytes
/-- ML-KEM-1024 (FIPS 203): the encapsulation key of a seed. -/
opaque Config.kemPublic : (seed : Bytes) → Bytes
/-- ML-KEM-1024 decapsulation with the key of a seed: the 32-byte shared secret. -/
opaque Config.kemDecaps : (seed ct : Bytes) → Bytes
/-- ECDSA P-384 public key of a seed, x then y (R355). -/
opaque Config.spdmPublic : (seed : Bytes) → Bytes
/-- The SPDM responder's answer (DMTF DSP0274) to the n-th request, given the SPDM key's seed, the digests of what it measures, and the
request: sessions and nonces are the standard's (log entry 42, DESIGN CHOICE). -/
opaque Config.spdmRespond : (n : Nat) → (seed rom fw img req : Bytes) → Bytes
/-- Flits that a link's receive buffer holds (R371): the spec gives no number (log entry 172, DESIGN CHOICE). -/
opaque Config.rxFlits : Nat
/-- The level-0 hand-over of IDE_KM (R303): whether the messages of a key exchange complete it. -/
opaque Config.ideKmCompletes : (msgs : Bytes) → Bool

end Sys2Proof
end

