-- ==== Sys2Proof/Machine/State.lean ====
section
/-! DEFINITION. The node's state, block by block (Table 1.1), as plain data; the two ways a step can stop; and the state
at power-on, every field at the value the manual gives for reset (log entries 4 to 9 name the values it does not give). -/

namespace Sys2Proof.Machine

/-- A sparse map by number: keys strictly rising. -/
abbrev NMap (α : Type) := List (Nat × α)
/-- Byte memory: address and byte, addresses strictly rising, no entry equal to the unlisted value. -/
abbrev Memory := List Host.Cell

/-- Status codes (Table 0.13). -/
inductive St where
  | ok | notHome | orphaned | tierError | integrity | keyRevoked | refusedCapacity | fenced | programFault | quota
  | shape | mirrorLost
  deriving DecidableEq, Repr, Inhabited

/-- Home states (Table 7.6). -/
inductive HState where
  | home | offered | pending | relinquished | orphaned | shadow
  deriving DecidableEq, Repr, Inhabited

/-- Where a frame, image or page-run lies (Table 5.5 LOC, Table 7.1). -/
inductive Loc where
  | t0 (frame : Nat)
  | t1 (stack die foff : Nat)
  | away (hint : Nat)
  | t3 (unit : Nat)
  | share (idx : Nat)
  deriving DecidableEq, Repr, Inhabited

/-- Who asked for a piece of work and where its answer goes (R48, R315): a QP, an SQ entry, or the node itself. Above bit
31, `ctag` holds the SQ head after the entry, which its CQ entry names (Table 12.3). -/
inductive Src where
  | qp (qpn : Nat)
  | host (fn sq ctag : Nat) (hostret : Bool)
  | node
  deriving DecidableEq, Repr, Inhabited

/-! ### Memories -/

/-- A 64-byte tile as its writer stored it (R117, R118): data, the 32-bit check, and the key generation and version it
was written under (R334). Log entry 39, DEDUCED. -/
structure Tile where
  data : W512
  chk  : W32
  ten  : Nat
  gen  : Nat
  ver  : Nat
  deriving DecidableEq, Repr, Inhabited

/-- The query buffer of T0 (R36) and its granule tags (R38): granule number to tenant and key generation. -/
structure QBuf where
  mem  : Memory
  tags : NMap (Nat × Nat)
  deriving DecidableEq, Repr, Inhabited

/-- The journal MRAM on CS1 (R376): device found, its slots and entries by slot number. -/
structure Mram where
  /-- Bytes 0 to 15 of the device's header (R388). -/
  header  : BitVec 128
  nslot   : Nat
  entries : NMap W512
  deriving DecidableEq, Repr, Inhabited

/-! ### Physical side: pins, sideband, boundary scan, temperatures -/

/-- One core die's sensor and regulator level (R105, Table 4.13). -/
structure DieTherm where
  temp  : Int
  level : Nat
  /-- None: no measurement since the last read cleared it. -/
  peak  : Option Int
  deriving DecidableEq, Repr, Inhabited

/-- One cluster's sensor and level (R395, Table 15.9). -/
structure ClTherm where
  temp  : Int
  level : Nat
  deriving DecidableEq, Repr, Inhabited

/-- What the boundary-scan port selects (R404). -/
inductive JMode where
  | bypass | idcode | sample | extest | clamp | highz
  deriving DecidableEq, Repr, Inhabited

structure Phys where
  /-- Table 15.14 tray signals: PWROK, PERST# and NODE_RST# (true: asserted, driven low), PWRCYC_REQ#. -/
  pwrok   : Bool
  perst   : Bool
  nodeRst : Bool
  pwrcyc  : Bool
  /-- I3C dynamic address, when assigned (R403). -/
  i3cDyn  : Option Nat
  /-- Boundary scan: instruction register, selected mode, boundary register (R404). -/
  ir      : Byte
  jmode   : JMode
  bsr     : Nat
  /-- Core dies 0 to 127 (16n + d) and clusters 0 to 23; an unlisted one is at level 0 and not yet measured. -/
  dies    : NMap DieTherm
  cls     : NMap ClTherm
  /-- Hottest main-die sensor and its peak (PWR_DIETEMP). -/
  mainT   : Int
  mainPk  : Option Int
  deriving DecidableEq, Repr, Inhabited

/-! ### Transport -/

/-- An outgoing packet's tie to the work it belongs to: what its departure or discard releases (R32, R315). -/
inductive PktTag where
  | none
  | record (tidx : Nat) (last : Bool)
  | host (fn sq ctag kind st info : Nat)
  deriving DecidableEq, Repr, Inhabited

/-- A packet the node produced (R258): before it enters an egress store its path, encryption and CRCs are not yet set
(R271). `keep` marks a teardown's status-only answer, which departs whatever state its QP later takes (Table 13.5). -/
structure OutPkt where
  hdr     : W512
  payload : Bytes
  tag     : PktTag
  keep    : Bool
  deriving DecidableEq, Repr, Inhabited

/-- A packet that passed its checks or waits for them, with the link it arrived on. -/
structure InPkt where
  link    : Nat
  hdr     : W512
  payload : Bytes
  deriving DecidableEq, Repr, Inhabited

/-- A receive message being assembled (R259, R272): accepted packets not yet placed hold their ingress slots. -/
structure Msg where
  msn    : Nat
  hdr    : W512
  pkts   : List InPkt
  ranges : List (Nat × Nat)
  data   : List (Nat × Bytes)
  done   : Bool
  /-- A tenon's query granules were overwritten after it arrived (R40). -/
  spoilt : Bool
  deriving DecidableEq, Repr, Inhabited

/-- QP context (Table 10.7) with what the transport keeps for it. -/
structure Qp where
  state : Nat
  type : Nat
  enc : Bool
  errc : Nat
  ten : Nat
  part : Nat
  remote : Nat
  rqpn : Nat
  txclass : Nat
  pmaxc : Nat
  paths : List Nat
  pmask : Nat
  cwin : Nat
  swin : Nat
  rbase : Nat
  rakidx : Nat
  raktag : Nat
  cq : Nat
  exp : Nat
  txmsn : Nat
  rxcl : Nat
  rxret : Nat
  txcl : Nat
  txused : Nat
  rxsl : Nat
  rxsret : Nat
  txsl : Nat
  txsused : Nat
  ckey : Nat
  salt : W32
  txseq : Nat
  rxseq : Nat
  rxwin : Nat
  ridge : Nat
  /-- Held on the die (R266); a context not cached lies in the host QP table with counter ECNT (R341). -/
  cached : Bool
  fetching : Bool
  ecnt : Nat
  /-- Parking entries reserved at eviction (R268), and the moment of last use. -/
  reserved : Nat
  used : Nat
  /-- Submit credits taken by messages and not returned (R277); packets taken at check 5 whose credit is not returned. -/
  subTaken : Nat
  pktTaken : Nat
  /-- Next path in turn (R271). -/
  turn : Nat
  destroying : Bool
  /-- The remote's EXP as its last CREDIT stated it (R272, R276). -/
  rexp : Nat
  /-- When the oldest return not yet answered by a grant was made; 0: none (R277). -/
  retAt : Nat
  /-- Open and complete receive messages, in MSN order; READ and ATOMIC and SUBMIT wait here for their turn (R272). -/
  msgs : List Msg
  /-- CREDIT and CONTROL packets that passed their checks and await their effect. -/
  ctl : List InPkt
  /-- Bytes of each message in sending that were handed to the link layer, by MSN (R283). -/
  txPart : NMap Nat
  /-- A command changed the context while it was evicted: the change is applied when it is next cached (log entry 114,
  DESIGN CHOICE). -/
  changed : Bool
  deriving DecidableEq, Repr, Inhabited

/-- Access-key entry (Table 10.8). -/
structure AKey where
  kind : Nat
  rights : Nat
  tag : Nat
  ten : Nat
  part : Nat
  qpb : Bool
  qpn : Nat
  base : Nat
  limit : Nat
  cached : Bool
  deriving DecidableEq, Repr, Inhabited

/-- Ridge-table entry (R279). -/
structure Ridge where
  intake : Nat
  onward : Nat
  contrib : List Nat
  deriving DecidableEq, Repr, Inhabited

/-- A waiting ridge merge entry (R60, R279): its intake QP and tag, which are its key, its ridge-table entry and offset, the QP whose
PARTIAL opened it, and the records each contributor delivered. -/
structure Merge where
  intake : Nat
  ridge : Nat
  tag : Nat
  addr : Nat
  opener : Option Nat
  got : List (Nat × Bytes)
  deriving DecidableEq, Repr, Inhabited

/-- A waiting WRITE_IMM completion (R310). -/
structure ImmWait where
  cq : Nat
  qpn : Nat
  imm : Nat
  mlen : Nat
  src : Nat
  deriving DecidableEq, Repr, Inhabited

/-- A complete message handed to its block (R272, R275). -/
structure Work where
  /-- 0 tenon, 1 dowel descriptor, 2 sequence command, 3 pool request, 4 placement message, 5 node command (Table 10.5). -/
  kind : Nat
  src : Src
  part : Nat
  keygen : Nat
  desc : W512
  extra : Bytes
  deriving DecidableEq, Repr, Inhabited

/-! ### Links and egress -/

/-- A class's or tenant's place in a deficit round robin (R290). -/
structure SubQ where
  cls : Nat
  ten : Nat
  pkts : List OutPkt
  deficit : Nat
  /-- Its head packet was examined, found red and counted (R295). -/
  red : Bool
  /-- The colour that its head packet had when a policer was last bound or cleared: it lasts until the link's next refill event
  (R297; log entry 113, DEDUCED). -/
  kept : Option Nat
  deriving DecidableEq, Repr, Inhabited

structure Link where
  state : Nat
  /-- Link-map entry: partner kind, endpoint and link (Table 15.2 section 3). -/
  mkind : Nat
  mend : Nat
  mlink : Nat
  /-- OZL_STATUS: partner as IDENT gave it, lanes locked; lane registers (Table 10.15). -/
  pkind : Nat
  pend : Nat
  plink : Nat
  lanes : Nat
  snr : Nat
  reversed : Bool
  inverted : Nat
  /-- The automatic retry of a training has been used (R256). -/
  retried : Bool
  /-- Flit layer (R253, R254): next FSEQ to send; last FSEQ taken in order and whether any was; flits not acknowledged, each
  with how often it was replayed (R256); a NAK is out. -/
  txseq : Nat
  rxlast : Nat
  rxany : Bool
  /-- The newest ACKSEQ to send, and whether there is one: a chip reset keeps it back while the receive buffer is full (R371). -/
  rxack : Nat
  rxacked : Bool
  replay : List (Nat × Bytes × Nat)
  nak : Bool
  /-- Received bytes of the packet that is being assembled from flits; the place of packets in the stream is lost until the next
  PSTART; packets assembled, in arrival order, which stand before the checks at ingress (R253, R261). -/
  rxbuf : Bytes
  rxlost : Bool
  rxpkts : List (W512 × Bytes)
  /-- Packet bytes handed to the link layer and not yet framed, with the offsets at which packets start. -/
  txbuf : Bytes
  starts : List Nat
  /-- Packets with flits that may not be acknowledged: QP, FSEQ of the last flit, and tenant (R274, R351). -/
  sent : List (Nat × Nat × Nat)
  /-- Egress store (R285). -/
  subqs : List SubQ
  /-- Weighted classes: deficits, active list, whether its head is being visited, next of quantum 0 (R290). -/
  clsDef : NMap Nat
  clsList : List Nat
  clsOn : Bool
  zeroTurn : Nat
  /-- Active lists of members with a green and with a yellow head packet, by class and tenant. -/
  green : List (Nat × Nat)
  yellow : List (Nat × Nat)
  /-- Members whose visit at the head of their list is under way. -/
  tenOn : List (Nat × Nat)
  /-- Policer buckets by instance: TC and TP in 1/64 byte (R293). -/
  buckets : NMap (Nat × Nat)
  deriving DecidableEq, Repr, Inhabited

/-- Policer instance (R292). -/
structure Policer where
  ten : Nat
  cls : Nat
  cinc : Nat
  pinc : Nat
  cbs : Nat
  pbs : Nat
  deriving DecidableEq, Repr, Inhabited

/-! ### Directory -/

/-- Directory CAM entry (R234). A removed one keeps its fields, with VALID 0 (R240). -/
structure DirEnt where
  valid : Bool
  key : BitVec 112
  mask : BitVec 112
  prio : Nat
  result : BitVec 96
  runtime : Bool
  deriving DecidableEq, Repr, Inhabited

/-! ### Ledgers -/

/-- Sequence geometry fixed at OPEN (Table 7.5). -/
structure Geom where
  shape : Nat
  kvfmt : Nat
  hpm1 : Nat
  nhgm1 : Nat
  nlm1 : Nat
  fcls : Nat
  deriving DecidableEq, Repr, Inhabited

/-- Page entry (Table 5.5), with the scales of its scale entry. -/
structure PageEnt where
  loc : Loc
  first : Nat
  failed : Bool
  fcause : Nat
  ver : Nat
  sblk : Nat
  kscale : W32
  vscale : W32
  deriving DecidableEq, Repr, Inhabited

/-- Lane slot (Table 5.4): the page tree as the entries by page index, and the addresses of its blocks by
(level, index); the root is the block of the highest level. -/
structure LSlot where
  sver : Nat
  endp : Nat
  valid : Bool
  pages : NMap PageEnt
  blocks : List ((Nat × Nat) × Nat)
  deriving DecidableEq, Repr, Inhabited

/-- Lane entry (R122). -/
structure Lane where
  a : LSlot
  b : LSlot
  wend : Nat
  deriving DecidableEq, Repr, Inhabited

/-- An image of a page-run in T3: its first unit, its bytes, and the table slot of its CODED blocks (R144, R187). -/
structure Img where
  id : RunId
  unit : Nat
  bytes : Nat
  tslot : Option Nat
  deriving DecidableEq, Repr, Inhabited

/-- Storage a version no longer names, to be freed once no pin below VER remains (R132). -/
structure Retired where
  ver : Nat
  frames : List Loc
  blocks : List Nat
  shares : List Nat
  runs : List RunId
  /-- Granules to retire with the frames (R207, R180). -/
  granules : List Nat
  /-- Images of T3 that a stage-back or a new record left behind (R175). -/
  images : List Img
  deriving DecidableEq, Repr, Inhabited

/-- Moves of Table 7.4. -/
inductive Move where
  | promote | demote | lend | spill | stageBack | ret | mark
  deriving DecidableEq, Repr, Inhabited

/-- A lane as an edit will publish it: END, page entries and block addresses (R123, R128), and the written end of a new last frame (R122). -/
structure NewLane where
  endp : Nat
  pages : NMap PageEnt
  blocks : List ((Nat × Nat) × Nat)
  wend : Option Nat
  deriving DecidableEq, Repr, Inhabited

/-- Share-table entry (R140). -/
structure Share where
  ent : PageEnt
  refs : Nat
  ten : Nat
  part : Nat
  holds : Nat
  deriving DecidableEq, Repr, Inhabited

/-- What an edit changes at its publish (R128), prepared by its earlier steps: lanes as published; the storage that the new
version no longer names; new frames and blocks and reservation pages, given back if the edit ends; page-runs whose records
begin, and those touched; references on shares; for a FORK its source's new lanes; RELEASE messages (R186, R197); page-runs
whose node-written directory entry goes (R245); and what a move does besides. -/
structure Prep where
  lanes : NMap NewLane
  closing : Bool
  retire : Retired
  made : List Loc
  blocks : List Nat
  drawn : Nat
  begun : List RunId
  touched : List RunId
  ups : List Nat
  shares : NMap Share
  src : Option Nat
  srcLanes : NMap NewLane
  srcRetire : Retired
  release : List (RunId × Nat)
  gone : List RunId
  moved : List (RunId × Nat)
  deriving DecidableEq, Repr, Inhabited

/-- Where an edit stands that has not ended (R136): waiting for its append orders (R100), for its mirror's acknowledgement, for lane slots, for a stage-back, for
an arbor or a pin, or, a home transfer, for the destination's answer to its OFFER. -/
inductive EPhase where
  | data | mirror | slot | stage (page : RunId) | arbor | offer
  deriving DecidableEq, Repr, Inhabited

/-- A ledger edit under way (R136): its request, or the node's own move with its page-run and destination. -/
structure Edit where
  work : Work
  op : Nat
  move : Option (Move × RunId × Nat)
  phase : EPhase
  pin : Option Nat
  prep : Option Prep
  endp : Nat
  /-- The version of a FORK's source that it has pinned (R130). -/
  spin : Option Nat
  /-- The shares that its walk holds until its pins end (R142). -/
  holds : List Nat
  deriving DecidableEq, Repr, Inhabited

/-- What preparing an edit comes to: it ends with a status; it waits for space that its reservation is owed (R184); stored data failed (status, cause, tile, page-run); it needs a
page-run staged back; or it is ready, with the END it will report. -/
inductive EditRes where
  | ends (st : St) (info : Nat)
  | wait
  | failed (st : St) (cause tile : Nat) (id : RunId)
  | stage (id : RunId)
  | ready (p : Prep) (endp : Nat)
  deriving DecidableEq, Repr, Inhabited

/-- A local sequence slot that is not free: arbor (Table 5.3), lanes, pins, edits and reservation. -/
structure Seq where
  ten : Nat
  part : Nat
  sgen : Nat
  closing : Bool
  lver : Nat
  geo : Geom
  origin : Nat
  ldroot : List Nat
  lanes : NMap Lane
  pins : NMap Nat
  retired : List Retired
  edits : List Edit
  resv : Nat
  cached : Bool
  used : Nat
  /-- Its arbor-cache entry is one of the 64 kept for moves (R131). -/
  kept : Bool
  deriving DecidableEq, Repr, Inhabited

/-! ### Placement -/

/-- A frame in use (R113, R180): its class, write version, tenant, and its seal words by (line, head) (R119). -/
structure Frame where
  loc : Loc
  fcls : Nat
  ver : Nat
  ten : Nat
  sblk : Nat
  seals : List ((Nat × Nat) × W64)
  deriving DecidableEq, Repr, Inhabited

/-- A copy that no published ledger of the node names: PENDING copies and shadows (R192, R200), with the geometry it came with and
one past its last held position in the page. -/
structure Copy where
  geo : Geom
  ent : PageEnt
  held : Nat
  deriving DecidableEq, Repr, Inhabited

/-- Run record (Table 7.3) but for TIER, FAILED, FCAUSE and SHARED, which the page entry or the copy gives; with the place and size of its
T3 image and the decoding-table slot that the image holds (R154). -/
structure Run where
  id : RunId
  hstate : HState
  peer : Nat
  epoch : Nat
  count : Nat
  stamp : Nat
  copy : Option Copy
  t3unit : Nat
  t3bytes : Nat
  tslot : Option Nat
  /-- Its last touch left the effective count at PROMOTE or above, and the move that this asks for is not decided (R175). -/
  due : Bool
  /-- EPOCH and PEER of the RELINQUISHED record that an OFFER's PENDING record stands for (R171, R193). -/
  was : Option (Nat × Nat)
  deriving DecidableEq, Repr, Inhabited

/-- A CLAIM sent: the epoch it stated, the node it went to, and whether the answer is applied here (R193, R196). -/
structure Claiming where
  id : RunId
  epoch : Nat
  peer : Nat
  apply : Bool
  deriving DecidableEq, Repr, Inhabited

/-- A spare fill in progress: its tenant, mirror M and failed home F (R204). -/
structure Fill where
  ten : Nat
  mirror : Nat
  failed : Nat
  deriving DecidableEq, Repr, Inhabited

/-! ### Attention -/

/-- A flash-decoding partial for one row (R54). -/
structure Partial where
  m : W32
  l : W32
  o : List W32
  keys : Nat
  deriving DecidableEq, Repr, Inhabited

/-- The fields of a tenon (Table 2.1). -/
structure Tn where
  ten : Nat
  part : Nat
  seq : Nat
  layer : Nat
  hgrp : Nat
  kvf : Nat
  kvn : Nat
  gm1 : Nat
  qtm1 : Nat
  shape : Nat
  kvfmt : Nat
  qfmt : Nat
  sprog : Nat
  ofmt : Nat
  qinl : Bool
  qpos : Nat
  mkind : Nat
  marg : Nat
  pfirst : Nat
  pcnt : Nat
  qoff : Nat
  qlen : Nat
  rqp : Nat
  roff : Nat
  tag : Nat
  sscale : W32
  deriving DecidableEq, Repr, Inhabited

/-- A fault on its way to the dispatcher (R26, R77): the tenon, the status and INFO it ends with, the unit in the order of
R56 (engines 0 to 4095, 4096 + n base die n, 8192 + n clusters, 16384 the merge unit), the cause, for a program fault
the instruction, the tile of failing data, whether its read moved data elsewhere (R98), and the page-run. -/
structure Report where
  tidx : Nat
  st : St
  info : Nat
  unit : Nat
  cause : Nat
  insn : Nat
  tile : Nat
  moves : Bool
  run : RunId
  deriving DecidableEq, Repr, Inhabited

/-- Where a tenon in the table stands. -/
inductive TPhase where
  | arborWait | pinWait | leafWait (blocks : List Nat) | stageWait (pages : List RunId) | working | ended | departing
  deriving DecidableEq, Repr, Inhabited

/-- One worked page of a tenon with the page entry its pinned version gives (R45, R94). -/
structure WPage where
  page : Nat
  ent : PageEnt
  share : Option Nat
  lo : Nat
  hi : Nat
  deriving DecidableEq, Repr, Inhabited

/-- Tenon-table entry (R32). -/
structure Tenon where
  src : Src
  tn : Tn
  keygen : Nat
  trailer : Bytes
  phase : TPhase
  slot : Nat
  pin : Option Nat
  query : Bytes
  mask : Bytes
  pages : List WPage
  /-- Orders still to be worked: stack orders by stack, cluster orders. -/
  left : NMap Nat
  clLeft : Nat
  /-- Partials by unit (0 to 4095 engines, 8192 + n clusters) and row. -/
  parts : List ((Nat × Nat) × Partial)
  stackDone : List (Nat × Nat × Partial)
  result : Option (St × Nat)
  sent : Nat
  touched : List RunId
  unspecified : Bool
  /-- Admitted, so that it holds a reference on its program slot (R80). -/
  admitted : Bool
  proj : Option Nat
  deriving DecidableEq, Repr, Inhabited

/-- A frame order at a stack (Table 4.4): OPC 0 of a tenon, OPC 1 of the edit of a sequence slot. -/
structure FOrder where
  opc : Nat
  tidx : Nat
  slot : Nat
  die : Nat
  fcls : Nat
  foff : Nat
  pidx : Nat
  lo : Nat
  hi : Nat
  dlast : Bool
  slast : Bool
  kscale : W32
  vscale : W32
  ver : Nat
  /-- Bits [47:46], [77:74] and [255:176], reserved. -/
  rsvd : Nat
  deriving DecidableEq, Repr, Inhabited

/-- A stroke waiting at or holding a bank (R87): its order, the frame, whether it appends (R100), whether it has waited behind an
ordinary slot (Table 4.11), and whether the activity cap has held it (R106). -/
structure Stroke where
  ord : Nat
  loc : Loc
  app : Bool
  waited : Bool
  capped : Bool
  deriving DecidableEq, Repr, Inhabited

/-- An ordinary claim queued on a bank (R90): whether it has waited behind a stroke (Table 4.11), and the tenon whose page it stages
into a cluster's scratch, if it does (R421). -/
structure OrdClaim where
  claim : Claim
  waited : Bool
  stage : Option Nat
  deriving DecidableEq, Repr, Inhabited

/-- What holds a bank (R89). -/
inductive Slot where
  | stroke (s : Stroke)
  | ordinary (c : OrdClaim)
  | refresh
  deriving DecidableEq, Repr, Inhabited

/-- An order delivered whose strokes have not all ended: its tenon, or the slot of the sequence that it appends to; the tenant and key
generation of its context; its die; whether its results are discarded, since its tenon has ended (R25, R102); and whether its stack
stopped it at a fault (R77). -/
structure OpenOrd where
  ord : Nat
  app : Bool
  tidx : Nat
  ten : Nat
  gen : Nat
  die : Nat
  dead : Bool
  stopped : Bool
  deriving DecidableEq, Repr, Inhabited

/-- A tenon context's copy in a die's query store, with its bytes (R96). -/
structure CtxCopy where
  die : Nat
  tidx : Nat
  bytes : Nat
  deriving DecidableEq, Repr, Inhabited

/-- A bank and its arbiter (R89 to R91). -/
structure Bank where
  held : Option Slot
  turn : Bool
  due : Nat
  since : Nat
  acts : Nat
  strokes : List Stroke
  ords : List OrdClaim
  deriving DecidableEq, Repr, Inhabited

/-- A stack (R86): its resident contexts; contexts that the base die holds, oldest first (R96); orders not delivered; key cache. -/
structure Stack where
  trained : Bool
  ctxs : List Nat
  ctxq : List Nat
  orders : List FOrder
  keys : List (Nat × Nat)
  /-- Strokes of each die in the present activity window (R106). -/
  win : NMap Nat
  opens : List OpenOrd
  copies : List CtxCopy
  deriving DecidableEq, Repr, Inhabited

/-- A tenon's query in a cluster's scratch (R424). -/
structure Scr where
  cl : Nat
  tidx : Nat
  query : Bytes
  deriving DecidableEq, Repr, Inhabited

/-- Cluster work order (R424). -/
structure ClOrder where
  tidx : Nat
  page : Nat
  deriving DecidableEq, Repr, Inhabited

/-- Score-program slot (Table 3.8): 1 loaded, 2 draining; the image it was loaded from. -/
structure Prog where
  state : Nat
  image : Bytes
  digest : Bytes
  deriving DecidableEq, Repr, Inhabited

/-! ### Codec -/

/-- Decoding-table slot (R153); stored references of R154. -/
structure Tbl where
  state : Nat
  image : Bytes
  digest : Bytes
  refs : Nat
  deriving DecidableEq, Repr, Inhabited

/-! ### Pool -/

/-- A pool unit (R211, R231): its lines, its location, the seal that its version's unit map keeps (R336), its tally. -/
structure PUnit where
  loc : Loc
  ver : Nat
  region : Nat
  off : Nat
  lines : NMap W512
  mac : W64
  count : Nat
  stamp : Nat
  failed : Bool
  deriving DecidableEq, Repr, Inhabited

/-- A live version (R213): its unit map (unlisted: ZERO), the bytes of its storage space, the table slot of each run that
has CODED blocks (R154), its run digests (unlisted: of zero elements) and its digest (R348). -/
structure Version where
  num : Nat
  units : NMap Nat
  size : Nat
  runSlot : NMap Nat
  runDig : NMap Bytes
  digest : Bytes
  deriving DecidableEq, Repr, Inhabited

structure Region where
  deleting : Bool
  p : RegionProps
  current : Nat
  versions : List Version
  deriving DecidableEq, Repr, Inhabited

/-- Reader handle (R218) with its owner function. -/
structure Reader where
  gen : Nat
  region : Nat
  ver : Nat
  node : Nat
  fn : Nat
  deriving DecidableEq, Repr, Inhabited

/-- Draft (R219): its units, which hold raw content by raw 4 KiB index, and the publish accepted but not swapped: its
request, the version prepared and the units it prepared. -/
structure Draft where
  gen : Nat
  region : Nat
  base : Nat
  node : Nat
  fn : Nat
  units : List Nat
  pub : Option (Work × Version × List Nat)
  deriving DecidableEq, Repr, Inhabited

/-- A pool request that this node forwarded to its holder, from the entry to its completion record (R215, R423). -/
structure Fwd where
  qpn : Nat
  src : Src
  desc : W512
  deriving DecidableEq, Repr, Inhabited

/-- Projection binding (R346). -/
structure Proj where
  ten : Nat
  first : Nat
  nlm1 : Nat
  nq : Nat
  dcode : Nat
  lcode : Nat
  region : Nat
  reader : Nat
  live : Bool
  deriving DecidableEq, Repr, Inhabited

/-! ### Host interface -/

structure Sq where
  base : Nat
  log2 : Nat
  cq : Nat
  head : Nat
  tail : Nat
  err : Bool
  deleting : Option Nat
  outst : Nat
  deriving DecidableEq, Repr, Inhabited

/-- A completion queue (R309 to R311); `head` and `tail` count entries consumed and written, modulo the ring. -/
structure Cq where
  base : Nat
  log2 : Nat
  vec : Nat
  cnt : Nat
  head : Nat
  tail : Nat
  phase : Bool
  resv : Nat
  armed : Bool
  since : Nat
  deriving DecidableEq, Repr, Inhabited

/-- The descriptor a channel works: its ring index, the bytes placed, and the CRC as carried over them (R322 to R325). -/
structure ChJob where
  desc : W512
  idx : Nat
  got : Nat
  crc : Nat
  /-- Bytes in the holding register, short of a destination unit (R323). -/
  held : Bytes
  deriving DecidableEq, Repr, Inhabited

/-- A DMA channel (R321): 0 unbound, 1 idle, 2 running, 3 halted. -/
structure Chan where
  state : Nat
  base : Nat
  log2 : Nat
  cq : Nat
  head : Nat
  tail : Nat
  job : Option ChJob
  crcKind : Nat
  crcRun : Nat
  errAddr : W64
  err : W64
  /-- Reads abandoned by a reset or a teardown, whose completions are discarded when they arrive: their tenants (R350, R365). -/
  abandoned : List Nat
  deriving DecidableEq, Repr, Inhabited

/-- A read that a node channel carries (Table 16.2): of a QP context, or of a page-run's image for a stage-back. -/
inductive XWhat where
  | ctx (qpn : Nat)
  | stage (id : RunId)
  deriving DecidableEq, Repr, Inhabited

/-- A node transfer (R413 to R415): the channel that carries it, once one does, whether its read was issued, and the staging units that it
holds: a stage-back's read is issued only once units for every byte are reserved. -/
structure Xfer where
  what : XWhat
  chan : Option Nat
  issued : Bool
  units : Nat
  deriving DecidableEq, Repr, Inhabited

/-- One PCIe function: function page (Table 12.12), rings, TDISP state, MSI-X masks and pending bits by vector (R311). -/
structure Fn where
  enable : Bool
  /-- A function event runs (R329); it is a function-level reset; the admin SQ is in error (Table 12.8). -/
  resetting : Bool
  flr : Bool
  asqErr : Bool
  tdi : Nat
  asqLog : Nat
  asqBase : Nat
  acqLog : Nat
  acqBase : Nat
  eqLog : Nat
  eqBase : Nat
  vecAcq : Nat
  vecEq : Nat
  qapTen : Nat
  qapValid : Bool
  eqOvf : Bool
  asqHead : Nat
  asqTail : Nat
  acq : Cq
  eq : Cq
  sqs : NMap Sq
  cqs : NMap Cq
  spill : Option (Nat × Nat)
  qpt : Option Nat
  running : Nat
  vmask : List Nat
  vpend : List Nat
  deriving DecidableEq, Repr, Inhabited

/-- A selective IDE stream (R303). -/
structure Ide where
  fn : Nat
  secure : Bool
  deriving DecidableEq, Repr, Inhabited

/-! ### Security -/

/-- Tenant slot (Table 13.4): 0 EMPTY, 1 ACTIVE, 2 REMOVING, 3 RETIRED; its root key, placement record (Table 7.2),
mirror (R199) and quantum (R291). -/
structure Tenant where
  state : Nat
  part : Nat
  gen : Nat
  trk : Bytes
  quota : Nat
  tiers : Nat
  peers : Nat
  mirror : Option Nat
  mirstate : Nat
  quantum : Nat
  deriving DecidableEq, Repr, Inhabited

/-- Connection key slot (R345). -/
structure CKey where
  ten : Option Nat
  salt : W32
  klo : Bytes
  khi : Bytes
  qpn : Option Nat
  deriving DecidableEq, Repr, Inhabited

/-- A teardown in progress (Table 13.5). -/
structure Teardown where
  ten : Nat
  step : Nat
  gen : Nat
  deriving DecidableEq, Repr, Inhabited

/-! ### Faults and the journal -/

/-- A frozen record (R361). -/
structure Rec where
  valid : Bool
  data : W512
  level : Nat
  deriving DecidableEq, Repr, Inhabited

/-- The fields of a fault entry (Table 14.3) that the event gives. -/
structure JInfo where
  type   : Nat := 0
  code   : Nat := 0
  sub    : Nat := 0
  level  : Nat := 0
  part   : Nat := 0
  tenant : Nat := 0
  engine : Nat := 0
  tag    : Nat := 0
  peer   : Nat := 0
  seq    : Nat := 0
  page   : Nat := 0
  epoch  : Nat := 0
  arg    : Nat := 0
  ctxid  : Nat := 0
  ckind  : Nat := 0
  layer  : Nat := 0
  hgrp   : Nat := 0
  deriving DecidableEq, Repr, Inhabited

/-- What the node sends on a QP: one message (R271). -/
structure SendReq where
  op : Nat
  subk : Nat
  cls : Nat
  ten : Nat
  gen : Nat
  addr : Nat
  imm : Nat
  payload : Bytes
  tag : PktTag
  deriving DecidableEq, Repr, Inhabited

/-- An acknowledgement held until its journal entry commits (R378): a frozen record's VALID bit, an event, a message that
carries a status, a host answer, a register field, the end of a teardown, a management command's completion, the end of a tenon, a CQ entry. -/
inductive Held where
  | record (slot : Nat)
  | event (fn type arg data : Nat)
  | send (qpn : Nat) (r : SendReq)
  | hostAnswer (fn sq ctag kind st info : Nat) (writes : List (Nat × Bytes))
  | field (key val : Nat)
  | teardownDone (ten : Nat)
  | mgmt (opc st : Nat) (data : Bytes)
  | tenon (tidx : Nat) (st : St) (info : Nat)
  | cq (fn cq entry : Nat)
  deriving DecidableEq, Repr, Inhabited

/-- An entry in the journal queue, without its JSEQ and CRC (R377). -/
structure JEnt where
  data : W512
  held : List Held
  deriving DecidableEq, Repr, Inhabited

/-- A reset that has begun and not completed (R364). -/
structure ResetRun where
  level : Nat
  ckind : Nat
  target : Nat
  source : Nat
  deriving DecidableEq, Repr, Inhabited

/-! ### Management core -/

/-- An accepted envelope whose command has not completed (R392, R394). -/
structure MCmd where
  opc : Nat
  issuer : Nat
  cseq : Nat
  ctag : Nat
  rspAddr : Nat
  rspMax : Nat
  /-- The admin SQ's head after the entry (Table 12.3). -/
  head : Nat
  /-- Whether its CQ entry is still wanted: a function event of the PF discards it (Table 12.9). -/
  live : Bool
  /-- The argument bytes (R393). -/
  args : Bytes
  deriving DecidableEq, Repr, Inhabited

/-- A management command that waits for something (R394). -/
inductive MWait where
  | unloadProgram (slot : Nat)
  | unloadTable (slot : Nat)
  | qpDestroy (qpn : Nat)
  | removeTenant (ten : Nat)
  | setMirror (ten : Nat)
  | reconcile (peer : Nat) (left : List RunId)
  | adoptHome (id : RunId) (e : Nat)
  | discard (id : RunId)
  | fillSpare (f : Fill)
  deriving DecidableEq, Repr, Inhabited

/-- One step of a NOR erase or program sequence (R387, R408). -/
inductive NorStep where
  | erase (addr : Nat)
  | program (addr : Nat) (data : Bytes)
  deriving DecidableEq, Repr, Inhabited

/-- Power and start-up states (PWR_STATE.STATE). -/
inductive PState where
  | starting | ready | entering | dormant | waking | failed
  deriving DecidableEq, Repr, Inhabited

/-- What the node sends to the outside that no other field of the state holds. Log entry 38, DESIGN CHOICE. Log entry 71, DESIGN CHOICE. -/
inductive Output where
  | packet (link : Nat) (hdr : W512) (payload : Bytes)
  | flit (link : Nat) (flit : Bytes)
  | hostWrite (fn addr : Nat) (data : Bytes) (tbit : Bool)
  | hostRead (fn addr len : Nat) (tbit : Bool)
  | msix (fn vec : Nat)
  | regValue (v : W64)
  | i3c (data : Bytes)
  | doe (data : Bytes)
  | tdo (v : Nat)
  | mgmtResp (opc st : Nat) (data : Bytes)
  | frs (fn : Nat)
  deriving DecidableEq, Repr, Inhabited

/-! ### Blocks -/

/-- Transport (TRN). -/
structure Trn where
  qps : NMap Qp
  keys : NMap AKey
  ridges : NMap Ridge
  merges : List Merge
  parked : List (Nat × InPkt)
  /-- Packets held at check 6 for an access-key entry: index, whether the packet opened its message, the packet. -/
  keyWait : List (Nat × Bool × InPkt)
  /-- Packets that would open a message while all 32,768 are open (R272), and whether each took its message's submit credit. -/
  openWait : List (Bool × InPkt)
  /-- Messages to be sent on QPs whose contexts are being fetched, in the order in which they were raised (R266), and whether each is a
  teardown's status-only answer, which departs whatever state its QP has by then (Table 13.5). -/
  sendWait : List (Nat × SendReq × Bool)
  immWait : List ImmWait
  epoch : Nat
  fenced : Bool
  map : List Nat
  clock : Nat
  deriving DecidableEq, Repr, Inhabited

/-- Attention dispatcher (ATN). -/
structure Atn where
  queue : List Work
  table : NMap Tenon
  reports : List Report
  clQ : List ClOrder
  lastCl : Nat
  scratch : List Scr
  progs : NMap Prog
  /-- Tenons of the queue whose query or mask granules were overwritten since (R40). -/
  spoilt : List Work
  deriving DecidableEq, Repr, Inhabited

/-- Memory controller and stacks (BNK). -/
structure Bnk where
  stks : NMap Stack
  banks : NMap Bank
  t1 : NMap Tile
  t0 : NMap Tile
  /-- Orders delivered so far. -/
  nextOrd : Nat
  deriving DecidableEq, Repr, Inhabited

/-- Ledger manager (PGM). -/
structure Pgm where
  /-- Dowel descriptors and sequence commands handed on, in acceptance order (R136, R275). -/
  queue : List Work
  seqs : NMap Seq
  sgens : NMap Nat
  shares : NMap Share
  /-- Ledger-leaf cache, most recently used first (R20). -/
  leafc : List Nat
  blkFree : List Nat
  blkNext : Nat
  /-- Leaf blocks in T0: those freed, and how many were ever given out (R125). -/
  t0Free : List Nat
  t0Next : Nat
  arborWaits : List Nat
  clock : Nat
  deriving DecidableEq, Repr, Inhabited

/-- Tier manager (PLC). -/
structure Plc where
  queue : List Work
  runs : List Run
  frames : List Frame
  vermap : NMap Nat
  retGran : List Nat
  retSlots : List Nat
  /-- Page-runs whose data failed and whose re-read is to come, with the FCAUSE it would give (R206); and, with 16 added, those that
  become FAILED with a FCAUSE once their sequence's ledger can be written. -/
  suspects : List (RunId × Nat)
  /-- COMMITs sent whose CLAIMED has not come: epoch and destination (R192). -/
  commits : List (RunId × Nat × Nat)
  /-- CLAIMs sent whose answer has not come (R196). -/
  claims : List Claiming
  /-- SHADOWs sent and not acknowledged: page-run and mirror; at a transfer's destination, before its ACCEPT (R192, R199). -/
  owed : List (RunId × Nat × Bool)
  /-- Moves that wait, and are counted in PGM_PINWAIT: for a lane slot, or for an arbor-cache or a pin-table entry (R129, R131). -/
  moveWaits : List (RunId × Bool)
  /-- A mirror's fill (R199): sequences whose version is not pinned yet, by slot, and page-runs whose SHADOW is still to be sent. -/
  fillSeqs : List Nat
  fillRuns : List RunId
  /-- Shards of which a complete shadow is held, by tenant and home (R203). -/
  full : List (Nat × Nat)
  /-- Tray positions that declined a page-run under the present pressure (R178); whether T0 and T1 pressure last (R177, R178). -/
  declined : List (RunId × Nat)
  t0press : Bool
  t1press : Bool
  tnow : Nat
  touches : Nat
  lastPeer : Nat
  lastVer : Nat
  deriving DecidableEq, Repr, Inhabited

/-- Pool controller (SHP). -/
structure Shp where
  queue : List Work
  regions : NMap Region
  units : NMap PUnit
  nextUnit : Nat
  readers : NMap Reader
  drafts : NMap Draft
  readerGen : NMap Nat
  draftGen : NMap Nat
  pnow : Nat
  touches : Nat
  projs : List Proj
  /-- Requests forwarded and not complete; holders at which a function of this node opened a draft or a reader (R226). -/
  fwds : List Fwd
  abroad : List (Nat × Nat)
  /-- Gathers worked whose rows may all wait to be sent: the request and its number of rows (R227). -/
  gathers : List (W512 × Nat)
  deriving DecidableEq, Repr, Inhabited

/-- Host interface (DMA). -/
structure Dma where
  fns : NMap Fn
  chans : NMap Chan
  /-- Node transfers, oldest first (R415). -/
  xfers : List Xfer
  /-- CQ and event writes, with their vectors, that wait while every node channel is halted (R415). -/
  heldOut : List Output
  /-- The SQ whose turn it is, by function and number, and the entries taken in this turn (R313). -/
  sqTurn : Nat × Nat × Nat
  ides : NMap Ide
  linkup : Bool
  speed : Nat
  width : Nat
  parea : NMap Memory
  /-- Posted BAR2 and BAR4 writes held until a wake ends (R398). -/
  heldWrites : List Instr
  deriving DecidableEq, Repr, Inhabited

/-- A piece of T1 storage that waits for the background fill (R352): the KiB left to zero; the frame with its class, which it gives back with the KiB of
frame space that it holds; the ledger or seal block; the granule that is retired with it (R180). -/
structure Zero where
  kib : Nat
  space : Nat
  frame : Option (Loc × Nat)
  blk : Option Nat
  gran : Option Nat
  deriving DecidableEq, Repr, Inhabited

/-- Security (SEC). -/
structure Sec where
  tenants : NMap Tenant
  nrk : Bytes
  bootid : Nat
  fwk : Option Bytes
  ckeys : NMap CKey
  identity : Bool
  fwDigest : Bytes
  imgDigest : Bytes
  /-- The SHA-384 digests of firmware and image, which the SPDM responder's measurement blocks carry (R355). -/
  fwSha : Bytes
  imgSha : Bytes
  cdi1 : Bytes
  /-- SHAKE256 of the DeviceID public key (Table 13.9). -/
  devDigest : Bytes
  aliasSig : Bytes
  cert : Bytes
  logd : Bytes
  logn : Nat
  td : Option Teardown
  tdWait : List Nat
  transit : Nat
  spillno : Nat
  /-- Storage of removed tenants that the background fill has not reached, oldest first (R352), and that of the teardown that runs. -/
  zero : List Zero
  zeroHold : List Zero
  draws : Nat
  deriving DecidableEq, Repr, Inhabited

/-- Reset control, frozen records and the journal's on-die side (RCV, JNL). -/
structure Rcv where
  recs : NMap Rec
  stopped : List (Nat × Nat)
  run : Option ResetRun
  jq : List JEnt
  jfails : Nat
  jstate : Nat
  jhead : Nat
  /-- Journal reads that wait behind commits (R379), in arrival order: none of JNL_RD_CMD, else of the sideband with its JSEQ. -/
  jreads : List (Option Nat)
  deriving DecidableEq, Repr, Inhabited

/-- Power and the management core (PWR). -/
structure Pwr where
  state : PState
  locked : Bool
  step : Nat
  fail : Nat
  detail : Nat
  slot : Bool
  node : Nat
  causes : Nat
  inflight : List MCmd
  waits : List MWait
  norOp : List NorStep
  norOpc : Nat
  issuers : NMap (Nat × Bytes)
  deriving DecidableEq, Repr, Inhabited

/-- The device: every block, the stored register fields by key (BAR0 byte offset × 8 + low bit; unlisted: the
reset value 0), produced packets waiting for an egress store (R285), outputs, and the free-value counter. -/
structure Dev where
  regs : NMap Nat
  links : NMap Link
  trn : Trn
  tsh : NMap Policer
  waitq : List OutPkt
  dir : NMap DirEnt
  atn : Atn
  bnk : Bnk
  pgm : Pgm
  plc : Plc
  cmp : NMap Tbl
  shp : Shp
  dma : Dma
  sec : Sec
  rcv : Rcv
  pwr : Pwr
  out : List Output
  free : Nat
  deriving DecidableEq, Repr, Inhabited

/-- Why the node stops with a fault. -/
inductive Fault where
  /-- Raised by PWROK_RISE when a rail is out of regulation: R400 voids every rule of the manual until the next
  start-up. Safe: the model says nothing about such a node. -/
  | railsVoid
  deriving DecidableEq, Repr

/-- Why a command has no meaning. -/
inductive Refusal where
  /-- Raised by Dispatch for a command that has no meaning yet. Safe: nothing can be proved of it. -/
  | notModelled (mnemonic : String)
  deriving DecidableEq, Repr

/-- Log entry 112, DESIGN CHOICE. -/
structure State where
  /-- Commands waiting, first in, first out. -/
  pending : List Instr
  phys : Phys
  qb : QBuf
  nor : Memory
  mram : Mram
  dev : Dev
  deriving DecidableEq, Repr, Inhabited

/-! ### The state at power-on -/

def Trn.reset : Trn := ⟨[], [], [], [], [], [], [], [], [], 0, false, [], 0⟩
/-- Log entry 8, DESIGN CHOICE. -/
def Atn.reset : Atn := ⟨[], [], [], [], 23, [], [], []⟩
def Bnk.reset : Bnk := ⟨[], [], [], [], 0⟩
def Pgm.reset : Pgm := ⟨[], [], [], [], [], [], 0, [], 0, [], 0⟩
def Plc.reset : Plc := ⟨[], [], [], [], [], [], [], [], [], [], [], [], [], [], [], false, false, 0, 0, 8, 0⟩
def Shp.reset : Shp := ⟨[], [], [], 0, [], [], [], [], 0, 0, [], [], [], []⟩
/-- Log entry 116, DESIGN CHOICE. -/
def Dma.reset : Dma := ⟨[], [], [], [], (0, 0, 0), [], false, 0, 0, [], []⟩
def Sec.reset : Sec :=
  { tenants := [], nrk := [], bootid := 0, fwk := none, ckeys := [], identity := false, fwDigest := [],
    imgDigest := [], fwSha := [], imgSha := [], cdi1 := [], devDigest := [], aliasSig := [], cert := [], logd := List.replicate 64 0, logn := 0,
    td := none, tdWait := [], transit := 0, spillno := 0, zero := [], zeroHold := [], draws := 0 }
def Rcv.reset : Rcv := ⟨[], [], none, [], 0, 0, 1, []⟩
def Pwr.reset : Pwr := ⟨.starting, false, 0, 0, 0, false, 0, 0, [], [], [], 0, []⟩

/-- Stored register fields whose reset value is not 0: BNK_HS_REGCAP0–7.CAP (Table 4.11). Log entry 86, DEDUCED. -/
def regsReset : NMap Nat := (List.range 8).map (fun n => ((0x00400008 + 0x100 * n) * 8, 0xFFFF))

/-- Every block at its reset values: what a full chip reset leaves before start-up runs (R373). -/
def Dev.reset : Dev :=
  { regs := regsReset, links := [], trn := Trn.reset, tsh := [], waitq := [], dir := [], atn := Atn.reset, bnk := Bnk.reset,
    pgm := Pgm.reset, plc := Plc.reset, cmp := [], shp := Shp.reset, dma := Dma.reset, sec := Sec.reset,
    rcv := Rcv.reset, pwr := Pwr.reset, out := [], free := 0 }

/-- Pins at power-on: PWROK low, PERST# and NODE_RST# driven low (log entry 4, DESIGN CHOICE). Log entry 7, DESIGN CHOICE. -/
def Phys.reset : Phys :=
  { pwrok := false, perst := true, nodeRst := true, pwrcyc := false, i3cDyn := none, ir := 0xFF, jmode := .bypass,
    bsr := 0, dies := [], cls := [], mainT := 0, mainPk := none }

/-- The machine right after power is applied: every register at its reset value, memories empty, nothing queued. Log entry 9, DESIGN CHOICE. -/
def State.reset : State :=
  { pending := [], phys := Phys.reset, qb := ⟨[], []⟩, nor := [], mram := ⟨0, 262080, []⟩, dev := Dev.reset }

end Sys2Proof.Machine
end

