-- ==== Sys2Proof/Machine/Bits.lean ====
section
/-! DEFINITION. Plain helpers over numbers, bytes, sparse maps and memory: bit fields and byte order as R7 gives them, and
the canonical form of maps and memories (keys strictly rising, no entry at the unlisted value). -/

namespace Sys2Proof.Machine

/-! ### Bit fields and byte order (R7) -/

/-- Bits [lo + w − 1 : lo] of a number. -/
def fld (n lo w : Nat) : Nat := (n >>> lo) % 2 ^ w

/-- A number whose bits [lo + w − 1 : lo] are replaced. -/
def setFld (n lo w v : Nat) : Nat := n % 2 ^ lo + (v % 2 ^ w) <<< lo + (n >>> (lo + w)) <<< (lo + w)

/-- Fields laid one above the other: (low bit, width, value). -/
def pack : List (Nat × Nat × Nat) → Nat
  | [] => 0
  | (lo, w, v) :: r => (v % 2 ^ w) <<< lo ||| pack r

/-- A flag as a number. -/
def b2n (b : Bool) : Nat := if b then 1 else 0

/-- `n` bytes of a number, least significant first. -/
def leBytes : (n v : Nat) → Bytes
  | 0, _ => []
  | n + 1, v => BitVec.ofNat 8 v :: leBytes n (v / 256)

/-- The number that bytes give, least significant first. -/
def leNat : Bytes → Nat
  | [] => 0
  | b :: r => b.toNat + 256 * leNat r

/-- `n` bytes of a number, most significant first. -/
def beBytes (n v : Nat) : Bytes := (leBytes n v).reverse

/-- The number that bytes give, most significant first. -/
def beNat (bs : Bytes) : Nat := leNat bs.reverse

/-- `len` bytes from `off`; bytes past the end read 0. -/
def sliceB (bs : Bytes) (off len : Nat) : Bytes :=
  let t := (bs.drop off).take len
  t ++ List.replicate (len - t.length) 0

/-- A little-endian field of a byte string. -/
def leAt (bs : Bytes) (off len : Nat) : Nat := leNat (sliceB bs off len)

/-- A 64-byte string as a descriptor, bit 0 the least significant of byte 0 (R7). -/
def w512 (bs : Bytes) : W512 := BitVec.ofNat 512 (leNat (sliceB bs 0 64))

/-- The bytes of a descriptor. -/
def wBytes (w : W512) : Bytes := leBytes 64 w.toNat

/-- Bits [lo + w − 1 : lo] of a descriptor. -/
def wf (d : W512) (lo w : Nat) : Nat := fld d.toNat lo w

/-- Bytes split into pieces of `n` (fuel: number of pieces). -/
def chunksB : (pieces n : Nat) → Bytes → List Bytes
  | 0, _, _ => []
  | _ + 1, _, [] => []
  | k + 1, n, bs => bs.take n :: chunksB k n (bs.drop n)

/-- A byte string cut into 64-byte lines, the last padded with zeros. -/
def linesB (bs : Bytes) : List W512 := (chunksB ((bs.length + 63) / 64) 64 bs).map w512

/-- Bytewise exclusive or, to the length of the shorter. -/
def xorB (a b : Bytes) : Bytes := List.zipWith (· ^^^ ·) a b

/-- Ceiling division. -/
def cdiv (a b : Nat) : Nat := (a + b - 1) / b

/-- The least k ≤ fuel with n ≤ 2^k. -/
def clog2 (n : Nat) : Nat := (List.range 65).find? (fun k => decide (n ≤ 2 ^ k)) |>.getD 65

/-! ### Sparse maps -/

/-- The value at a key. -/
def mget {α : Type} : NMap α → Nat → Option α
  | [], _ => none
  | (i, v) :: r, k => if i = k then some v else mget r k

/-- Sets a key, keeping keys rising. -/
def mset {α : Type} : NMap α → Nat → α → NMap α
  | [], k, v => [(k, v)]
  | (i, u) :: r, k, v => if k < i then (k, v) :: (i, u) :: r else if i = k then (k, v) :: r else (i, u) :: mset r k v

/-- Removes a key. -/
def mdel {α : Type} (m : NMap α) (k : Nat) : NMap α := m.filter (fun e => e.1 ≠ k)

/-- Changes the value at a key, if any. -/
def mmod {α : Type} (m : NMap α) (k : Nat) (f : α → α) : NMap α :=
  match mget m k with
  | none => m
  | some v => mset m k (f v)

/-- Changes every value. -/
def mmap {α β : Type} (m : NMap α) (f : Nat → α → β) : NMap β := m.map (fun e => (e.1, f e.1 e.2))

/-- The value at a key, or a default. -/
def mgetD {α : Type} (m : NMap α) (k : Nat) (d : α) : α := (mget m k).getD d

/-- Removes the entries that fail a test. -/
def mfilter {α : Type} (m : NMap α) (p : Nat → α → Bool) : NMap α := m.filter (fun e => p e.1 e.2)

/-- The lowest key below `bound` that a map lacks, from `from_`. -/
def mfree {α : Type} (m : NMap α) (from_ : Nat) : (fuel : Nat) → Nat
  | 0 => from_
  | n + 1 => if (mget m from_).isNone then from_ else mfree m (from_ + 1) n

/-- Sets a counter map, an entry at 0 being removed. -/
def nset (m : NMap Nat) (k v : Nat) : NMap Nat := if v = 0 then mdel m k else mset m k v

/-- Keys strictly rising. -/
def risingFrom {α : Type} : Option Nat → List (Nat × α) → Bool
  | _, [] => true
  | p, (k, _) :: r => (match p with
    | none => true
    | some j => decide (j < k)) && risingFrom (some k) r

/-! ### Byte memory in canonical form -/

/-- The byte at an address; `d` is what an unlisted address reads as. -/
def memGet (d : Byte) (m : Memory) (a : Nat) : Byte := (mget m a).getD d

/-- Writes one byte; writing the unlisted value removes the entry. -/
def memSet (d : Byte) (m : Memory) (a : Nat) (b : Byte) : Memory := if b = d then mdel m a else mset m a b

/-- Writes a string of bytes from an address. -/
def memWrite (d : Byte) : Memory → Nat → Bytes → Memory
  | m, _, [] => m
  | m, a, b :: r => memWrite d (memSet d m a b) (a + 1) r

/-- Reads `n` bytes from an address. -/
def memRead (d : Byte) (m : Memory) : (a n : Nat) → Bytes
  | _, 0 => []
  | a, n + 1 => memGet d m a :: memRead d m (a + 1) n

/-- The canonical form: addresses strictly rising, no entry at the unlisted value. -/
def Memory.wf (d : Byte) (m : Memory) : Bool := risingFrom none m && m.all (fun e => decide (e.2 ≠ d))

/-- What a byte of the query buffer or of a partial area reads as before anything wrote it (log entry 5, DESIGN CHOICE). -/
def sramByte : Byte := 0
/-- What an erased NOR byte reads as (log entry 6, PRESUMED). -/
def norByte : Byte := 0xFF

/-! ### Lists -/

/-- Updates the first element that passes a test. -/
def updFirst {α : Type} (p : α → Bool) (f : α → α) : List α → List α
  | [] => []
  | a :: r => if p a then f a :: r else a :: updFirst p f r

/-- Removes the first element that passes a test. -/
def dropFirst {α : Type} (p : α → Bool) : List α → List α
  | [] => []
  | a :: r => if p a then r else a :: dropFirst p r

/-- Least value of a list, or a default when empty. -/
def minOr (d : Nat) : List Nat → Nat
  | [] => d
  | a :: r => r.foldl Nat.min a

/-- Sum of a list. -/
def sumN (l : List Nat) : Nat := l.foldl (· + ·) 0

end Sys2Proof.Machine
end

