-- ==== Sys2Proof/Machine/Flags.lean ====
section
/-! DEFINITION. Status codes (Table 0.13) and the order in which conditions are reported (R14). The node has no arithmetic
flags; ALERT# and THERM# are levels computed from the state (R362, R105). -/

namespace Sys2Proof.Machine

/-- The code of a status (Table 0.13). -/
def stCode : St → Nat
  | .ok => 0 | .notHome => 1 | .orphaned => 2 | .tierError => 3 | .integrity => 4 | .keyRevoked => 5
  | .refusedCapacity => 6 | .fenced => 7 | .programFault => 8 | .quota => 9 | .shape => 10 | .mirrorLost => 11

/-- The status of a code; every code the node emits is one of these (R13). -/
def stOf (n : Nat) : St :=
  match n with
  | 0 => .ok | 1 => .notHome | 2 => .orphaned | 3 => .tierError | 4 => .integrity | 5 => .keyRevoked
  | 6 => .refusedCapacity | 7 => .fenced | 8 => .programFault | 9 => .quota | 10 => .shape | _ => .mirrorLost

/-- A condition's place in the order of R14; `exec` tells a fault during execution from a slot not loaded. -/
def stRank (exec : Bool) : St → Nat
  | .ok => 0 | .fenced => 1 | .keyRevoked => 2 | .shape => 3 | .programFault => if exec then 12 else 4 | .quota => 5
  | .refusedCapacity => 6 | .notHome => 7 | .orphaned => 8 | .mirrorLost => 9 | .integrity => 10 | .tierError => 11

/-- The first of several conditions in the order of R14, each with its INFO. -/
def firstCond (exec : Bool) : List (St × Nat) → Option (St × Nat)
  | [] => none
  | c :: r => match firstCond exec r with
    | none => some c
    | some e => if stRank exec c.1 ≤ stRank exec e.1 then some c else some e

/-- Keeps a condition when it holds. -/
def cond (b : Bool) (s : St) (info : Nat := 0) : List (St × Nat) := if b then [(s, info)] else []

/-- A saturating offset in 20 bits (R49). -/
def sat20 (n : Nat) : Nat := min n 0xFFFFF

/-- The INFO of ST_NOT_HOME: hint node and page offset (R49). -/
def homeInfo (hint off : Nat) : Nat := hint % 2 ^ 12 + sat20 off * 2 ^ 12

end Sys2Proof.Machine
end

