-- ==== Sys2Proof/Machine/Fp.lean ====
section
/-! DEFINITION. IEEE 754 binary32 arithmetic on patterns, with round to nearest even and subnormals kept (R50, R72), the
element formats of Table 2.6, and the exactly defined functions of R53 and R73. A finite value is held exactly as an
integer times a power of two; a result that is no such number is computed to 448 fixed-point bits before its one
rounding (log entry 10, DEDUCED). -/

namespace Sys2Proof.Machine

/-- The NaN pattern that stands for every NaN result. -/
def fNan : Nat := 0x7FC00000
def fInf : Nat := 0x7F800000
def fNegInf : Nat := 0xFF800000
def fOne : Nat := 0x3F800000
/-- The sign bit. -/
def fNeg? (p : Nat) : Bool := decide (p / 2 ^ 31 % 2 = 1)
/-- The pattern without its sign. -/
def fAbs (p : Nat) : Nat := p % 2 ^ 31
def fIsNan (p : Nat) : Bool := decide (fInf < fAbs p)
def fIsInf (p : Nat) : Bool := decide (fAbs p = fInf)
def fFinite (p : Nat) : Bool := decide (fAbs p < fInf)
def fIsZero (p : Nat) : Bool := decide (fAbs p = 0)
/-- A pattern with its sign inverted. -/
def fFlip (p : Nat) : Nat := if fNeg? p then p - 2 ^ 31 else p + 2 ^ 31
/-- A sign put on a magnitude pattern. -/
def fSgn (neg : Bool) (m : Nat) : Nat := if neg then m + 2 ^ 31 else m

/-- A finite pattern's magnitude as m × 2^e. -/
def fMag (p : Nat) : Nat × Int :=
  let x : Nat := fAbs p / 2 ^ 23
  if x = 0 then (fAbs p, -149) else (fAbs p % 2 ^ 23 + 2 ^ 23, (x : Int) - 150)

/-- A finite pattern as an integer at 2^−149. -/
def fInt (p : Nat) : Int :=
  let (m, e) := fMag p
  let v : Nat := m <<< (e + 149).toNat
  if fNeg? p then -(v : Int) else v

/-- rne of m × 2^e with a sign; a magnitude that rounds beyond the largest finite value becomes infinite. -/
def fRound (neg : Bool) (m : Nat) (e : Int) : Nat :=
  if m = 0 then fSgn neg 0 else
  let q : Int := max ((Nat.log2 m : Int) + e - 23) (-149)
  let k := q - e
  let n : Nat :=
    if k ≤ 0 then m <<< (-k).toNat else
    let s := k.toNat
    let f := m >>> s
    let r := m - f <<< s
    let h := 1 <<< (s - 1)
    if h < r ∨ (r = h ∧ f % 2 = 1) then f + 1 else f
  let p := (q + 149).toNat <<< 23 + n
  fSgn neg (if fInf ≤ p then fInf else p)

/-- rne of an integer times 2^e; a zero takes the sign given. -/
def fRoundI (v : Int) (e : Int) (zneg : Bool) : Nat :=
  if v = 0 then fSgn zneg 0 else fRound (decide (v < 0)) v.natAbs e

/-- Addition. -/
def fAdd (a b : Nat) : Nat :=
  if fIsNan a ∨ fIsNan b then fNan else
  if fIsInf a then (if fIsInf b ∧ fNeg? a ≠ fNeg? b then fNan else a) else
  if fIsInf b then b else fRoundI (fInt a + fInt b) (-149) (fNeg? a && fNeg? b)

/-- Subtraction. -/
def fSub (a b : Nat) : Nat := if fIsNan b then fNan else fAdd a (fFlip b)

/-- Multiplication. -/
def fMul (a b : Nat) : Nat :=
  if fIsNan a ∨ fIsNan b then fNan else
  let s := fNeg? a != fNeg? b
  if fIsInf a ∨ fIsInf b then (if fIsZero a ∨ fIsZero b then fNan else fSgn s fInf) else
  fRound s ((fMag a).1 * (fMag b).1) ((fMag a).2 + (fMag b).2)

/-- Fused multiply and add, with one rounding. -/
def fFma (a b c : Nat) : Nat :=
  if fIsNan a ∨ fIsNan b ∨ fIsNan c then fNan else
  let s := fNeg? a != fNeg? b
  if fIsInf a ∨ fIsInf b then
    (if fIsZero a ∨ fIsZero b then fNan else if fIsInf c ∧ fNeg? c ≠ s then fNan else fSgn s fInf) else
  if fIsInf c then c else
  let p := fInt a * fInt b
  fRoundI (p + fInt c * (2 ^ 149 : Nat)) (-298) (s && fNeg? c)

/-- A number that orders patterns with −0 below +0 (FMAX, FMIN, R54). -/
def fKey (p : Nat) : Int := if fNeg? p then -1 - (fAbs p : Int) else fAbs p
/-- A number that orders patterns with −0 equal to +0 (FLT, FLE, FEQ). -/
def fVal (p : Nat) : Int := if fNeg? p then -(fAbs p : Int) else fAbs p
/-- The larger, +0 above −0. -/
def fMax (a b : Nat) : Nat := if fKey a < fKey b then b else a
/-- The smaller. -/
def fMin (a b : Nat) : Nat := if fKey a < fKey b then a else b

/-- rne of a quotient n / d × 2^e. -/
def fRoundQ (neg : Bool) (n d : Nat) (e : Int) : Nat :=
  let q := (n <<< 64) / d
  fRound neg (2 * q + (if (n <<< 64) % d = 0 then 0 else 1)) (e - 65)

/-- 1 / a. -/
def fRcp (a : Nat) : Nat :=
  if fIsNan a then fNan else if fIsInf a then fSgn (fNeg? a) 0 else if fIsZero a then fSgn (fNeg? a) fInf else
  fRoundQ (fNeg? a) (1 <<< 32) (fMag a).1 (-32 - (fMag a).2)

/-! ### Transcendental functions in fixed point -/

/-- Fixed-point bits. -/
def fxBits : Nat := 448
/-- ln 2 at 2^−448. -/
def fxLn2 : Nat := 0xb17217f7d1cf79abc9e3b39803f2f6af40f343267298b62d8a0d175b8baafa2be7b876206debac98559552fb4afa1b10ed2eae35c1382144

/-- Σ of the terms y^n / n! from a term on (fuel: number of terms). -/
def fxExpGo (y : Nat) : (fuel n t acc : Nat) → Nat
  | 0, _, _, acc => acc
  | f + 1, n, t, acc => fxExpGo y f (n + 1) ((t * y) >>> fxBits / n) (acc + t)

/-- 2^f for a fixed-point fraction f in [0, 1). -/
def fxExp2 (f : Nat) : Nat := fxExpGo ((f * fxLn2) >>> fxBits) 110 1 (1 <<< fxBits) 0

/-- Σ of the terms z^(2n+1) / (2n + 1). -/
def fxAtanhGo (z2 : Nat) : (fuel n t acc : Nat) → Nat
  | 0, _, _, acc => acc
  | f + 1, n, t, acc => fxAtanhGo z2 f (n + 2) ((t * z2) >>> fxBits) (acc + t / n)

/-- log2 t for fixed-point t in [1, 2). -/
def fxLog2 (t : Nat) : Nat :=
  let one := 1 <<< fxBits
  let z := ((t - one) <<< fxBits) / (t + one)
  (2 * fxAtanhGo ((z * z) >>> fxBits) 150 1 z 0) <<< fxBits / fxLn2

/-- rne(2^x) for x = v × 2^−149, v an integer, with |x| below 2^9. -/
def fExp2I (v : Int) : Nat :=
  let n := v / (2 ^ 149 : Nat)
  let f := (v % (2 ^ 149 : Nat)).toNat
  if f = 0 then fRound false 1 n else fRound false (2 * fxExp2 (f <<< (fxBits - 149)) + 1) (n - fxBits - 1)

/-- E of R53. -/
def fE (x : Nat) : Nat :=
  if fKey x = fKey fNegInf then 0 else if fVal x < fVal 0xC2FC0000 then 0 else fExp2I (fInt x)

/-- FEX2 of R73. -/
def fEx2 (a : Nat) : Nat :=
  if fIsNan a then fNan else if fVal a ≤ 0 then fE a else if fVal 0x43000000 ≤ fVal a then fInf else fExp2I (fInt a)

/-- FLG2 of R73. -/
def fLg2 (a : Nat) : Nat :=
  if fIsNan a then fNan else if fIsZero a then fNegInf else if fNeg? a then fNan else if fIsInf a then fInf else
  let (m, e) := fMag a
  let l := Nat.log2 m
  let n : Int := e + l
  if m = 1 <<< l then fRoundI n 0 false else
  let v : Int := n * ((1 <<< fxBits : Nat) : Int) + (fxLog2 (m <<< (fxBits - l)) : Nat)
  fRound (decide (v < 0)) (2 * v.natAbs + 1) (-(fxBits : Int) - 1)

/-- FTANH of R73. -/
def fTanh (a : Nat) : Nat :=
  if fIsNan a then fNan else
  -- below 2^−40 the nearest value is a itself; from 16 on it is 1
  if fAbs a < 0x2B800000 then a else if 0x41800000 ≤ fAbs a then fSgn (fNeg? a) fOne else
  let (m, e) := fMag a
  -- y = 2a / ln 2 at 2^−fxBits
  let y := ((m <<< (fxBits + 1 - (-e).toNat)) <<< fxBits) / fxLn2
  let n := y >>> fxBits
  let ex := fxExp2 (y - n <<< fxBits) <<< n
  let one := 1 <<< fxBits
  fRoundQ (fNeg? a) (ex - one) (ex + one) 0

/-! ### Integers of score programs (R67, R74) -/

/-- Two's complement reading of 32 bits. -/
def sx32 (p : Nat) : Int := if 2 ^ 31 ≤ p % 2 ^ 32 then (p % 2 ^ 32 : Int) - (2 ^ 32 : Nat) else p % 2 ^ 32
/-- 32 bits of an integer. -/
def ux32 (i : Int) : Nat := (i % (2 ^ 32 : Nat)).toNat
/-- Clamped to the int32 range. -/
def sat32 (i : Int) : Nat := ux32 (max (-(2 ^ 31 : Nat) : Int) (min i ((2 ^ 31 : Nat) - 1)))
/-- CVTIF. -/
def fOfInt (p : Nat) : Nat := fRoundI (sx32 p) 0 false
/-- CVTFI of a pattern that is no NaN. -/
def fToInt (p : Nat) : Nat :=
  if fIsInf p then (if fNeg? p then 2 ^ 31 else 2 ^ 31 - 1) else
  let t : Int := ((fInt p).natAbs >>> 149 : Nat)
  sat32 (if fNeg? p then -t else t)

/-! ### Element formats (Table 2.6) -/

/-- A small float of `eb` exponent and `mb` mantissa bits as FP32; no infinities or NaN. -/
def fSmall (eb mb bias p : Nat) : Nat :=
  let s := decide (fld p (eb + mb) 1 = 1)
  let x := fld p mb eb
  let m := fld p 0 mb
  if x = 0 then fRound s m (1 - bias - mb) else fRound s (m + 2 ^ mb) ((x : Int) - bias - mb)

/-- BF16. -/
def fBf16 (p : Nat) : Nat := p <<< 16
/-- FP16. -/
def fFp16 (p : Nat) : Nat :=
  if fld p 10 5 = 31 then (if fld p 0 10 = 0 then fSgn (decide (fld p 15 1 = 1)) fInf else fNan) else fSmall 5 10 15 p
/-- FP8 E4M3: no infinity; all ones but the sign is NaN. -/
def fE4m3 (p : Nat) : Nat := if fld p 0 7 = 127 then fNan else fSmall 4 3 7 p
/-- FP8 E5M2. -/
def fE5m2 (p : Nat) : Nat :=
  if fld p 2 5 = 31 then (if fld p 0 2 = 0 then fSgn (decide (fld p 7 1 = 1)) fInf else fNan) else fSmall 5 2 15 p
/-- INT8. -/
def fI8 (p : Nat) : Nat := fRoundI (if p % 256 < 128 then (p % 256 : Int) else (p % 256 : Int) - 256) 0 false

/-- The bits of one element of a KV format. -/
def kvBits : Nat → Nat
  | 0 => 16
  | 1 => 16
  | 5 => 6
  | 6 => 6
  | 7 => 4
  | _ => 8

/-- Whether a format carries shared block scales (MX). -/
def kvMx (f : Nat) : Bool := decide (5 ≤ f ∧ f ≤ 7)

/-- One element's bits decoded to FP32, an MX element without its scale. -/
def kvElem (f p : Nat) : Nat :=
  match f with
  | 0 => fBf16 p
  | 1 => fFp16 p
  | 2 => fE4m3 p
  | 3 => fE5m2 p
  | 4 => fI8 p
  | 5 => fSmall 3 2 3 p
  | 6 => fSmall 2 3 1 p
  | _ => fSmall 2 1 1 p

/-- The bits of one query element (QFMT). -/
def qBits (q : Nat) : Nat := if q = 2 then 8 else 16

/-- One query element decoded to FP32. -/
def qElem (q p : Nat) : Nat := if q = 0 then fBf16 p else if q = 1 then fFp16 p else fE4m3 p

/-- An element times 2^(X − 127), X an E8M0 shared scale; 0xFF is NaN (R42). -/
def fScale (x p : Nat) : Nat :=
  if x = 255 ∨ fIsNan p then fNan else fRound (fNeg? p) (fMag p).1 ((fMag p).2 + x - 127)

/-- rne from FP32 to BF16. -/
def toBf16 (p : Nat) : Nat := if fIsNan p then 0x7FC0 else (p + 0x7FFF + p / 2 ^ 16 % 2) / 2 ^ 16

/-! ### Dot products (R50) -/

/-- Facts about the products of one block: a NaN, an infinite product of either sign, all products −0, exact sum at 2^−298. -/
def dotGo : List (Nat × Nat) → Bool × Bool × Bool × Bool × Int
  | [] => (false, false, false, true, 0)
  | (q, k) :: r =>
    let (nan, pinf, ninf, allNeg, acc) := dotGo r
    let s := fNeg? q != fNeg? k
    if fIsNan q ∨ fIsNan k then (true, pinf, ninf, false, acc) else
    if fIsInf q ∨ fIsInf k then
      (if fIsZero q ∨ fIsZero k then (true, pinf, ninf, false, acc) else (nan, pinf || !s, ninf || s, false, acc)) else
    let z := fIsZero q ∨ fIsZero k
    (nan, pinf, ninf, allNeg && z && s, acc + fInt q * fInt k)

/-- B_b of R50 with the key block's shared scale (127: none). -/
def dotBlock (x : Nat) (ps : List (Nat × Nat)) : Nat :=
  let (nan, pinf, ninf, allNeg, acc) := dotGo ps
  if nan ∨ x = 255 ∨ (pinf ∧ ninf) then fNan else if pinf then fInf else if ninf then fNegInf else
  fRoundI acc ((x : Int) - 127 - 298) allNeg

/-- Sum of blocks in ascending order, from the first. -/
def foldBlocks : List Nat → Nat
  | [] => 0
  | b :: r => r.foldl fAdd b

/-- Pieces of 32. -/
def pieces32 {α : Type} : (fuel : Nat) → List α → List (List α)
  | 0, _ => []
  | _ + 1, [] => []
  | k + 1, l => l.take 32 :: pieces32 k (l.drop 32)

/-- The dot product d of R50; `xs` are the key's block scales (empty: none). -/
def dotQK (q k xs : List Nat) : Nat :=
  let ps := pieces32 (q.length / 32 + 1) (List.zip q k)
  foldBlocks (ps.zipIdx.map (fun (b, i) => dotBlock (xs.getD i 127) b))

end Sys2Proof.Machine
end

