-- ==== Sys2Proof/Machine/Operands.lean ====
section
/-! DEFINITION. The operand forms: sequence handles (Table 2.2), head shapes and their vector lengths (Tables 2.3 to 2.6),
tenons (Table 2.1), dowel descriptors (Table 5.6), sequence commands (Table 7.5), placement bodies (Table 7.7), pool
requests (Table 8.2), and the records that answer them (R47, R138, R182, R217). -/

namespace Sys2Proof.Machine

/-! ### Sequence handles (Table 2.2) -/

def hSlot (h : Nat) : Nat := fld h 0 22
def hNode (h : Nat) : Nat := fld h 22 12
def hGen (h : Nat) : Nat := fld h 34 14
/-- A handle from its slot, node and generation. -/
def mkHandle (slot node sgen : Nat) : Nat := pack [(0, 22, slot), (22, 12, node), (34, 14, sgen)]

/-! ### Shapes (Tables 2.3 to 2.6) -/

def shKind (s : Nat) : Nat := fld s 0 2
def shD (s : Nat) : Nat := fld s 2 3
def shL (s : Nat) : Nat := fld s 5 3

/-- Head dimension d of a DCODE; 0 when reserved. -/
def dimOf : Nat → Nat
  | 0 => 64 | 1 => 96 | 2 => 128 | 3 => 192 | 4 => 256 | _ => 0

/-- Latent elements L of an LCODE (Table 2.5); 0 when reserved. -/
def latOf : Nat → Nat
  | 0 => 256 | 1 => 384 | 2 => 512 | 3 => 640 | _ => 0

/-- Rotary elements P of an LCODE. -/
def rotOf (c : Nat) : Nat := if c = 3 then 128 else if c < 3 then 64 else 0

/-- Whether SHAPE holds no reserved encoding of Table 2.3 or Table 2.5, and the constraints of Table 2.4 on it hold. -/
def shapeOk (s : Nat) : Bool :=
  match shKind s with
  | 0 => decide (shD s < 5 ∧ shL s = 0)
  | 1 => decide (shD s = 0 ∧ shL s < 4)
  | 2 => decide (shD s < 5 ∧ shL s < 4)
  | _ => false

/-- Query elements per row. -/
def qLenOf (s : Nat) : Nat :=
  match shKind s with
  | 0 => dimOf (shD s)
  | 1 => latOf (shL s) + rotOf (shL s)
  | _ => dimOf (shD s) + rotOf (shL s)

/-- Key elements. -/
def kLenOf (s : Nat) : Nat := if shKind s = 0 then dimOf (shD s) else latOf (shL s) + rotOf (shL s)

/-- Value elements. -/
def vLenOf (s : Nat) : Nat := if shKind s = 0 then dimOf (shD s) else latOf (shL s)

/-- The o length D of a record; 0 where SHAPE holds a reserved KIND, or a reserved code that its KIND uses (R47). -/
def oLenOf (s : Nat) : Nat :=
  match shKind s with
  | 0 => dimOf (shD s)
  | 1 => latOf (shL s)
  | 2 => if latOf (shL s) = 0 then 0 else dimOf (shD s)
  | _ => 0

/-- Whether Table 2.6 admits a KV format for a kind. -/
def fmtOk (s kvfmt : Nat) : Bool := decide (kvfmt < 8) && (decide (shKind s = 0) || decide (kvfmt < 5))

/-! ### Tenons -/

/-- The fields of a tenon (Table 2.1). -/
def parseTn (d : W512) : Tn :=
  { ten := wf d 0 12, part := wf d 12 4, seq := wf d 16 48, layer := wf d 64 10, hgrp := wf d 74 6, kvf := wf d 80 3,
    kvn := wf d 83 3, gm1 := wf d 86 4, qtm1 := wf d 90 6, shape := wf d 96 8, kvfmt := wf d 104 4, qfmt := wf d 108 4,
    sprog := wf d 112 6, ofmt := wf d 118 1, qinl := decide (wf d 119 1 = 1), qpos := wf d 128 36, mkind := wf d 164 4,
    marg := wf d 168 24, pfirst := wf d 192 32, pcnt := wf d 224 16, qoff := wf d 256 24, qlen := wf d 280 20,
    rqp := wf d 320 20, roff := wf d 352 32, tag := wf d 384 32, sscale := BitVec.ofNat 32 (wf d 416 32) }

/-- T, H and g of R34 and the row count. -/
def Tn.tT (t : Tn) : Nat := t.qtm1 + 1
def Tn.tH (t : Tn) : Nat := t.kvn + 1
def Tn.tg (t : Tn) : Nat := t.gm1 + 1
def Tn.rows (t : Tn) : Nat := t.tT * t.tH * t.tg

/-- Query token, KV head and query head of row r (R34). -/
def Tn.rowTok (t : Tn) (r : Nat) : Nat := r / (t.tH * t.tg)
def Tn.rowHead (t : Tn) (r : Nat) : Nat := t.kvf + r / t.tg % t.tH
def Tn.rowQ (t : Tn) (r : Nat) : Nat := r % t.tg

/-- A chunk tenon has more than 16 query rows per KV head (R43). -/
def Tn.chunk (t : Tn) : Bool := decide (16 < t.tT * t.tg)

/-- Bytes of one query vector (R35). -/
def Tn.vecBytes (t : Tn) : Nat := qLenOf t.shape * qBits t.qfmt / 8

/-- Record size (R47). -/
def Tn.recSize (t : Tn) : Nat := 16 + oLenOf t.shape * (if t.ofmt = 1 then 2 else 4)

/-- The bytes of a bitmap or tree matrix (R46). -/
def Tn.maskLen (t : Tn) : Nat := if t.mkind = 3 then (t.pcnt + 7) / 8 else if t.mkind = 4 then 8 * t.tT else 0

/-- Whether MARG is valid for MKIND (Table 2.7). -/
def Tn.margOk (t : Tn) : Bool :=
  match t.mkind with
  | 0 => decide (t.marg = 0)
  | 1 => decide (t.marg = 0)
  | 2 => decide (1 ≤ t.marg)
  | 3 => true
  | 4 => true
  | _ => false

/-- The rules of R29, R30, R35, R36, R37, R41 and R42 that the tenon alone and the partition's share decide: `share` is its
size in bytes, `extra` the bytes that follow the tenon. A tenon for which one fails is refused with ST_SHAPE. -/
def tnOk (d : W512) (t : Tn) (share : Nat) (extra : Bytes) : Bool :=
  decide (wf d 120 8 = 0 ∧ wf d 240 16 = 0 ∧ wf d 300 20 = 0 ∧ wf d 340 12 = 0 ∧ wf d 448 64 = 0) &&
  decide (t.kvf + t.kvn ≤ 7 ∧ t.pcnt ≠ 0 ∧ t.roff % 16 = 0 ∧ t.rows ≤ 1024 ∧ t.qfmt < 3) &&
  fFinite t.sscale.toNat && t.margOk && shapeOk t.shape && fmtOk t.shape t.kvfmt &&
  (decide (shKind t.shape = 0) || decide (t.kvf = 0 ∧ t.kvn = 0)) &&
  -- R35, R36: the query's length and place
  decide (t.qlen = t.rows * t.vecBytes ∧ t.qlen ≤ 2 ^ 20) &&
  (if t.qinl then decide (t.qlen ≤ 128 ∧ t.qoff = 0 ∧ extra.length = 128) && (extra.drop t.qlen).all (· = 0)
   else decide (extra.length = 0 ∧ 64 * t.qoff + t.qlen ≤ share)) &&
  -- R37 for the bitmap or the tree matrix, which lie in the share too
  (decide (t.mkind ≠ 3 ∧ t.mkind ≠ 4) || decide (64 * t.marg + t.maskLen ≤ share))

/-- The header of a partial record (Table 2.8). -/
def recHdr (t : Tn) (row m l keys st : Nat) : Bytes :=
  leBytes 16 (pack [(0, 32, m), (32, 32, l), (64, 32, keys), (96, 8, st), (104, 10, row), (114, 1, t.ofmt)])

/-- A record without data (R49). -/
def noDataRec (t : Tn) (st info row : Nat) : Bytes :=
  recHdr t row fNegInf 0 info st ++ List.replicate (t.recSize - 16) 0

/-- Every record of a tenon that ends with a status other than ST_OK (R49). -/
def statusRecs (t : Tn) (st : St) (info : Nat) : Bytes := (List.range t.rows).flatMap (noDataRec t (stCode st) info)

/-- One element of o in the record's format; BF16 by rne (R58). -/
def oBytes (ofmt p : Nat) : Bytes := if ofmt = 1 then leBytes 2 (toBf16 p) else leBytes 4 p

/-- A record with its data. -/
def dataRec (t : Tn) (p : Partial) (row : Nat) : Bytes :=
  recHdr t row p.m.toNat p.l.toNat p.keys 0 ++ p.o.flatMap (fun e => oBytes t.ofmt e.toNat)

/-! ### Dowel descriptors (Table 5.6) -/

def dwTen (d : W512) : Nat := wf d 0 12
def dwPart (d : W512) : Nat := wf d 12 4
def dwSeq (d : W512) : Nat := wf d 16 48
def dwLayer (d : W512) : Nat := wf d 64 10
def dwHgrp (d : W512) : Nat := wf d 74 6
def dwOp (d : W512) : Nat := wf d 80 2
def dwAll (d : W512) : Bool := decide (wf d 82 1 = 1)
def dwNM1 (d : W512) : Nat := wf d 83 6
def dwPos (d : W512) : Nat := wf d 96 36
def dwDoff (d : W512) : Nat := wf d 160 24
def dwDlen (d : W512) : Nat := wf d 184 20
def dwRqp (d : W512) : Nat := wf d 224 20
def dwRoff (d : W512) : Nat := wf d 256 32
def dwTag (d : W512) : Nat := wf d 288 32
def dwKscale (d : W512) : Nat := wf d 320 32
def dwVscale (d : W512) : Nat := wf d 352 32
def dwArg (d : W512) : Nat := wf d 384 64

/-- The rules of Table 5.6 that the descriptor alone decides. -/
def dwOk (d : W512) : Bool :=
  decide (wf d 89 7 = 0 ∧ wf d 132 28 = 0 ∧ wf d 204 20 = 0 ∧ wf d 244 12 = 0 ∧ wf d 448 64 = 0 ∧ dwRoff d % 16 = 0) &&
  (!dwAll d || decide (dwLayer d = 0 ∧ dwHgrp d = 0)) &&
  (match dwOp d with
   | 0 => !dwAll d && decide (dwArg d = 0)
   | 1 => decide (dwNM1 d = 0 ∧ dwDoff d = 0 ∧ dwDlen d = 0 ∧ dwKscale d = 0 ∧ dwVscale d = 0 ∧ dwArg d = 0)
   | 2 => decide (dwDoff d = 0 ∧ dwDlen d = 0 ∧ dwKscale d = 0 ∧ dwVscale d = 0)
   | _ => dwAll d && decide (dwNM1 d = 0 ∧ dwDoff d = 0 ∧ dwDlen d = 0 ∧ dwKscale d = 0 ∧ dwVscale d = 0 ∧ wf d 432 16 = 0))

/-- The completion record of an edit (R138). -/
def dwRecord (d : W512) (st : St) (endp : Nat) : Bytes :=
  leBytes 16 (pack [(0, 32, dwTag d), (32, 8, stCode st), (40, 2, dwOp d), (48, 36, endp)])

/-! ### Sequence commands (Table 7.5) -/

def scSeq (d : W512) : Nat := wf d 16 48
def scOp (d : W512) : Nat := wf d 64 2
def scRpages (d : W512) : Nat := wf d 128 16
def scRqp (d : W512) : Nat := wf d 160 20
def scRoff (d : W512) : Nat := wf d 192 32
def scTag (d : W512) : Nat := wf d 224 32
/-- The geometry that OPEN names, without its frame class. -/
def scGeom (d : W512) : Geom := ⟨wf d 72 8, wf d 80 4, wf d 84 3, wf d 88 6, wf d 94 10, 0⟩

/-- The rules of Table 7.5 that the command alone decides. -/
def scOk (d : W512) : Bool :=
  decide (wf d 66 6 = 0 ∧ wf d 87 1 = 0 ∧ wf d 104 24 = 0 ∧ wf d 144 16 = 0 ∧ wf d 180 12 = 0 ∧ wf d 256 256 = 0 ∧
    scRoff d % 16 = 0) &&
  (match scOp d with
   | 0 => decide (scSeq d = 0)
   -- the fields that Table 7.5 gives for OPEN are 0 in a CLOSE
   | 1 => decide (wf d 72 32 = 0 ∧ scRpages d = 0)
   | _ => false)

/-- The completion record of a sequence command (R182). -/
def scRecord (d : W512) (st : St) (handle : Nat) : Bytes :=
  leBytes 16 (pack [(0, 32, scTag d), (32, 8, stCode st), (40, 2, scOp d), (48, 48, handle)])

/-! ### Pool requests (Table 8.2) -/

def plTen (d : W512) : Nat := wf d 0 12
def plPart (d : W512) : Nat := wf d 12 4
def plOp (d : W512) : Nat := wf d 16 4
def plRegion (d : W512) : Nat := wf d 20 10
def plVersion (d : W512) : Nat := wf d 32 32
def plHandle (d : W512) : Nat := wf d 64 32
def plRqp (d : W512) : Nat := wf d 96 20
def plRoff (d : W512) : Nat := wf d 128 32
def plTag (d : W512) : Nat := wf d 160 32
def plLine (d : W512) : Nat := wf d 192 36
def plNlm1 (d : W512) : Nat := wf d 228 6
def plGmode (d : W512) : Nat := wf d 234 1
def plFirst (d : W512) : Nat := wf d 240 32
def plNrm1 (d : W512) : Nat := wf d 272 16

/-- The rules of Table 8.2 that the request alone decides. -/
def plOk (d : W512) : Bool :=
  let op := plOp d
  decide (op < 7 ∧ wf d 30 2 = 0 ∧ wf d 116 12 = 0 ∧ wf d 235 5 = 0 ∧ wf d 288 224 = 0 ∧ plRoff d % 16 = 0) &&
  (decide (op = 0 ∨ op = 2) || decide (plVersion d = 0)) &&
  (decide (op = 1 ∨ op = 3 ∨ op = 4 ∨ op = 5 ∨ op = 6) || decide (plHandle d = 0)) &&
  (decide (op = 3) || decide (plLine d = 0 ∧ plNlm1 d = 0)) &&
  (decide (op = 6) || decide (plGmode d = 0 ∧ plFirst d = 0 ∧ plNrm1 d = 0))

/-- The completion record of a pool request other than GATHER (R217). -/
def plRecord (d : W512) (st : St) (conflict : Bool) (version handle : Nat) : Bytes :=
  leBytes 16 (pack [(0, 32, plTag d), (32, 8, stCode st), (40, 4, plOp d), (44, 1, b2n conflict), (64, 32, version), (96, 32, handle)])

/-! ### Placement bodies (Table 7.7) -/

def pbKind (b : Nat) : Nat := fld b 0 4
/-- The page-run a body names (R167). -/
def pbRun (b : Nat) : RunId := ⟨fld b 4 12, fld b 20 48, fld b 68 10, fld b 78 6, fld b 84 32⟩
def pbPart (b : Nat) : Nat := fld b 16 4
def pbEpoch (b : Nat) : Nat := fld b 116 32
def pbKeygen (b : Nat) : Nat := fld b 148 16
def pbFrom (b : Nat) : Nat := fld b 164 12
def pbStatus (b : Nat) : Nat := fld b 176 8
def pbState (b : Nat) : Nat := fld b 184 3
def pbFirst (b : Nat) : Nat := fld b 188 4
def pbHeld (b : Nat) : Nat := fld b 192 5
def pbGeom (b : Nat) : Geom := ⟨fld b 197 8, fld b 205 4, fld b 209 3, fld b 212 6, fld b 218 10, fld b 228 3⟩
def pbCoded (b : Nat) : Bool := decide (fld b 231 1 = 1)

/-- The identity fields of a body. -/
def mkBody (kind : Nat) (id : RunId) (part epoch keygen from_ status state : Nat) : Nat :=
  pack [(0, 4, kind), (4, 12, id.ten), (16, 4, part), (20, 48, id.seq), (68, 10, id.layer), (78, 6, id.hgrp), (84, 32, id.page),
    (116, 32, epoch), (148, 16, keygen), (164, 12, from_), (176, 8, status), (184, 3, state)]

/-- The image fields of an OFFER or SHADOW body. -/
def mkImageFields (first held : Nat) (g : Geom) (coded : Bool) : Nat :=
  pack [(188, 4, first), (192, 5, held), (197, 8, g.shape), (205, 4, g.kvfmt), (209, 3, g.hpm1), (212, 6, g.nhgm1),
    (218, 10, g.nlm1), (228, 3, g.fcls), (231, 1, b2n coded)]

end Sys2Proof.Machine
end

