-- ==== Sys2Proof/Machine/Aes.lean ====
section
/-! DEFINITION. AES-256 (FIPS 197) and the modes the manual uses over it: GCM (R281, R339, R340), key wrap (RFC 3394,
R344), and CTR-free single blocks for masks and seals (R335, R336). -/

namespace Sys2Proof.Machine

/-- The S-box of FIPS 197, byte i at bits [8i + 7 : 8i]. -/
def aesSbox : Nat := 0x16bb54b00f2d99416842e6bf0d89a18cdf2855cee9871e9b948ed9691198f8e19e1dc186b95735610ef6034866b53e708a8bbd4b1f74dde8c6b4a61c2e2578ba08ae7a65eaf4566ca94ed58d6d37c8e779e4959162acd3c25c2406490a3a32e0db0b5ede14b8ee4688902a22dc4f816073195d643d7ea7c41744975fec130ccdd2f3ff1021dab6bcf5389d928f40a351a89f3c507f02f94585334d43fbaaefd0cf584c4a39becb6a5bb1fc20ed00d153842fe329b3d63b52a05a6e1b1a2c830975b227ebe28012079a059618c323c7041531d871f1e5a534ccf73f362693fdb7c072a49cafa2d4adf04759fa7dc982ca76abd7fe2b670130c56f6bf27b777c63
/-- The inverse S-box. -/
def aesInvSbox : Nat := 0x7d0c2155631469e126d677ba7e042b17619953833cbbebc8b0f52aae4d3be0a0ef9cc9939f7ae52d0d4ab519a97f51605fec8027591012b131c7078833a8dd1ff45acd78fec0db9a2079d2c64b3e56fc1bbe18aa0e62b76f89c5291d711af1476edf751ce837f9e28535ade72274ac9673e6b4f0cecff297eadc674f4111913a6b8a130103bdafc1020f3fca8f1e2cd00645b3b80558e4f70ad3bc8c00abd890849d8da75746155edab9edfd5048706c92b6655dcc5ca4d41698688664f6f87225d18b6d49a25b76b224d92866a12e084ec3fa420b954cee3d23c2a632947b54cbe9dec444438e3487ff2f9b8239e37cfbd7f3819ea340bf38a53630d56a0952

/-- Substitution by a packed table. -/
def aesSub (t b : Nat) : Nat := (t >>> (8 * b)) % 256

/-- Doubling in the AES field. -/
def aesX2 (b : Nat) : Nat := if b < 128 then 2 * b else (2 * b - 256) ^^^ 0x1B

/-- Multiplication in the AES field by a number below 16. -/
def aesMul (k b : Nat) : Nat :=
  (if k % 2 = 1 then b else 0) ^^^ (if k / 2 % 2 = 1 then aesX2 b else 0) ^^^
  (if k / 4 % 2 = 1 then aesX2 (aesX2 b) else 0) ^^^ (if k / 8 % 2 = 1 then aesX2 (aesX2 (aesX2 b)) else 0)

/-- Rows shifted: byte r + 4c comes from column c + r. -/
def aesShift (s : List Nat) : List Nat :=
  (List.range 16).map (fun i => s.getD ((i + 4 * (i % 4)) % 16) 0)

/-- Rows shifted back. -/
def aesUnshift (s : List Nat) : List Nat :=
  (List.range 16).map (fun i => s.getD ((i + 16 - 4 * (i % 4)) % 16) 0)

/-- Columns multiplied by a circulant matrix with first row a b c d. -/
def aesMix (a b c d : Nat) : List Nat → List Nat
  | w :: x :: y :: z :: r =>
    (aesMul a w ^^^ aesMul b x ^^^ aesMul c y ^^^ aesMul d z) ::
    (aesMul d w ^^^ aesMul a x ^^^ aesMul b y ^^^ aesMul c z) ::
    (aesMul c w ^^^ aesMul d x ^^^ aesMul a y ^^^ aesMul b z) ::
    (aesMul b w ^^^ aesMul c x ^^^ aesMul d y ^^^ aesMul a z) :: aesMix a b c d r
  | _ => []

/-- Two byte lists added in the field. -/
def aesAdd (a b : List Nat) : List Nat := List.zipWith (· ^^^ ·) a b

/-- The words of an AES-256 key schedule, newest first, from the eight words of the key (newest first). -/
def aesExpand : (n i rcon : Nat) → List (List Nat) → List (List Nat)
  | 0, _, _, ws => ws
  | n + 1, i, rcon, ws =>
    let t := ws.headD []
    let t := if i % 8 = 0 then
        let s := (t.drop 1 ++ t.take 1).map (aesSub aesSbox)
        (s.headD 0 ^^^ rcon) :: s.drop 1
      else if i % 8 = 4 then t.map (aesSub aesSbox) else t
    aesExpand n (i + 1) (if i % 8 = 0 then aesX2 rcon else rcon) (aesAdd (ws.getD 7 []) t :: ws)

/-- Words of four, from bytes. -/
def aesWords : List Nat → List (List Nat)
  | a :: b :: c :: d :: r => [a, b, c, d] :: aesWords r
  | _ => []

/-- Groups of four words joined into round keys. -/
def aesRounds : List (List Nat) → List (List Nat)
  | a :: b :: c :: d :: r => (a ++ b ++ c ++ d) :: aesRounds r
  | _ => []

/-- The 15 round keys of a 32-byte key. -/
def aesKeys (key : Bytes) : List (List Nat) :=
  let w := aesWords ((sliceB key 0 32).map BitVec.toNat)
  aesRounds (aesExpand 52 8 1 w.reverse).reverse

/-- The rounds after the first key addition. -/
def aesEncRounds : List (List Nat) → List Nat → List Nat
  | [], s => s
  | [k], s => aesAdd (aesShift (s.map (aesSub aesSbox))) k
  | k :: r, s => aesEncRounds r (aesAdd (aesMix 2 3 1 1 (aesShift (s.map (aesSub aesSbox)))) k)

/-- The rounds of the inverse cipher, round keys newest first. -/
def aesDecRounds : List (List Nat) → List Nat → List Nat
  | [], s => s
  | [k], s => aesAdd ((aesUnshift s).map (aesSub aesInvSbox)) k
  | k :: r, s => aesDecRounds r (aesMix 14 11 13 9 (aesAdd ((aesUnshift s).map (aesSub aesInvSbox)) k))

/-- One block encrypted under round keys. -/
def aesBlock (ks : List (List Nat)) (b : Bytes) : Bytes :=
  (aesEncRounds (ks.drop 1) (aesAdd ((sliceB b 0 16).map BitVec.toNat) (ks.headD []))).map (BitVec.ofNat 8)

/-- One block decrypted under round keys. -/
def aesUnblock (ks : List (List Nat)) (b : Bytes) : Bytes :=
  (aesDecRounds (ks.reverse.drop 1) (aesAdd ((sliceB b 0 16).map BitVec.toNat) (ks.getLastD []))).map (BitVec.ofNat 8)

/-- AES-256 of one block. -/
def aes256 (key b : Bytes) : Bytes := aesBlock (aesKeys key) b

/-! ### GCM (NIST SP 800-38D) -/

/-- Product in the GCM field; bit 127 of the numbers is the first bit of the block. -/
def gcmMul : (bits x v acc : Nat) → Nat
  | 0, _, _, acc => acc
  | n + 1, x, v, acc =>
    gcmMul n (x * 2 % 2 ^ 128) (if v % 2 = 1 then (v / 2) ^^^ (0xE1 <<< 120) else v / 2)
      (if x / 2 ^ 127 % 2 = 1 then acc ^^^ v else acc)

/-- GHASH carried over 16-byte blocks (the last padded with zeros). -/
def ghash (h : Nat) : Nat → List Bytes → Nat
  | y, [] => y
  | y, b :: r => ghash h (gcmMul 128 (y ^^^ beNat (sliceB b 0 16)) h 0) r

/-- Counter-mode key stream over pieces, from a counter value. -/
def gcmCtr (ks : List (List Nat)) (iv : Bytes) : Nat → List Bytes → Bytes
  | _, [] => []
  | c, b :: r => xorB b (aesBlock ks (iv ++ beBytes 4 c)) ++ gcmCtr ks iv (c + 1) r

/-- Pieces of 16 bytes. -/
def blocks16 (bs : Bytes) : List Bytes := chunksB ((bs.length + 15) / 16) 16 bs

/-- The 16-byte tag of a ciphertext with its additional data. -/
def gcmTag (key iv aad ct : Bytes) : Bytes :=
  let ks := aesKeys key
  let h := beNat (aesBlock ks (List.replicate 16 0))
  let lens := beBytes 8 (8 * aad.length) ++ beBytes 8 (8 * ct.length)
  let s := ghash h 0 (blocks16 aad ++ blocks16 ct ++ [lens])
  xorB (beBytes 16 s) (aesBlock ks (iv ++ beBytes 4 1))

/-- GCM encryption with a 12-byte IV: ciphertext and tag. -/
def gcmEncrypt (key iv aad pt : Bytes) : Bytes × Bytes :=
  let ct := gcmCtr (aesKeys key) iv 2 (blocks16 pt)
  (ct, gcmTag key iv aad ct)

/-- GCM decryption: the plaintext when the tag matches. -/
def gcmDecrypt (key iv aad ct tag : Bytes) : Option Bytes :=
  if gcmTag key iv aad ct = tag then some (gcmCtr (aesKeys key) iv 2 (blocks16 ct)) else none

/-! ### Key wrap (RFC 3394) -/

/-- One pass of unwrapping steps t, t − 1, … over registers held newest first. -/
def kwSteps (ks : List (List Nat)) (n : Nat) : (t : Nat) → Bytes → List Bytes → Bytes × List Bytes
  | 0, a, rs => (a, rs)
  | t + 1, a, rs =>
    let i := t % n
    let x := aesUnblock ks (xorB a (beBytes 8 (t + 1)) ++ rs.getD i [])
    kwSteps ks n t (x.take 8) (rs.set i (x.drop 8))

/-- The unwrapped key data, when the integrity value matches. -/
def kwUnwrap (kek wrapped : Bytes) : Option Bytes :=
  let n := wrapped.length / 8 - 1
  if wrapped.length < 24 ∨ wrapped.length % 8 ≠ 0 then none else
  let (a, rs) := kwSteps (aesKeys kek) n (6 * n) (wrapped.take 8) (chunksB n 8 (wrapped.drop 8))
  if a = List.replicate 8 0xA6 then some (rs.foldl (· ++ ·) []) else none

end Sys2Proof.Machine
end

