-- ==== Sys2Proof/Machine/Crc.lean ====
section
/-! DEFINITION. The cyclic redundancy checks that the manual names: CRC-32C (RFC 3720) and CRC-64 with the ECMA-182
polynomial, plain (R253) and reflected (R322). -/

namespace Sys2Proof.Machine

/-- One bit step of a reflected CRC. -/
def crcRefStep (poly c : Nat) : Nat := if c % 2 = 1 then (c / 2) ^^^ poly else c / 2

/-- `n` bit steps of a reflected CRC. -/
def crcRefBits (poly : Nat) : Nat → Nat → Nat
  | 0, c => c
  | n + 1, c => crcRefBits poly n (crcRefStep poly c)

/-- A reflected CRC carried over bytes. -/
def crcRef (poly : Nat) : Nat → Bytes → Nat
  | c, [] => c
  | c, b :: r => crcRef poly (crcRefBits poly 8 (c ^^^ b.toNat)) r

/-- CRC-32C (RFC 3720) as carried, before the final inversion: initial value all ones. -/
def crc32cRun (c : Nat) (bs : Bytes) : Nat := crcRef 0x82F63B78 c bs

/-- CRC-32C of a byte string. -/
def crc32c (bs : Bytes) : Nat := crc32cRun 0xFFFFFFFF bs ^^^ 0xFFFFFFFF

/-- CRC-64 with the ECMA-182 polynomial, reflected, as carried (R322). -/
def crc64RefRun (c : Nat) (bs : Bytes) : Nat := crcRef 0xC96C5795D7870F42 c bs

/-- One bit step of the plain CRC-64. -/
def crc64Step (c : Nat) : Nat :=
  let s := (c * 2) % 2 ^ 64
  if c / 2 ^ 63 % 2 = 1 then s ^^^ 0x42F0E1EBA9EA3693 else s

/-- `n` bit steps of the plain CRC-64. -/
def crc64Bits : Nat → Nat → Nat
  | 0, c => c
  | n + 1, c => crc64Bits n (crc64Step c)

/-- The plain CRC-64 (ECMA-182) of a byte string from a starting value. -/
def crc64 : Nat → Bytes → Nat
  | c, [] => c
  | c, b :: r => crc64 (crc64Bits 8 (c ^^^ (b.toNat <<< 56))) r

end Sys2Proof.Machine
end

