-- ==== Sys2Proof/Machine/Sha.lean ====
section
/-! DEFINITION. SHAKE256 (FIPS 202), which the manual uses for keys, digests and the measurement log (R331, R332), and SHA-384
(FIPS 180-4), which the SPDM responder measures with (R355). -/

namespace Sys2Proof.Machine

/-- Rotation offsets of rho, lane x + 5y. -/
def keccakRot : List Nat := [0, 1, 62, 28, 27, 36, 44, 6, 55, 20, 3, 10, 43, 25, 39, 41, 45, 15, 21, 8, 18, 2, 61, 56, 14]

/-- Round constants of iota. -/
def keccakRc : List Nat :=
  [0x1, 0x8082, 0x800000000000808a, 0x8000000080008000, 0x808b, 0x80000001, 0x8000000080008081, 0x8000000000008009, 0x8a, 0x88, 0x80008009, 0x8000000a,
   0x8000808b, 0x800000000000008b, 0x8000000000008089, 0x8000000000008003, 0x8000000000008002, 0x8000000000000080, 0x800a, 0x800000008000000a, 0x8000000080008081, 0x8000000000008080, 0x80000001, 0x8000000080008008]

/-- Rotation of a 64-bit lane to the left. -/
def rotl64 (x k : Nat) : Nat := (x <<< k) % 2 ^ 64 ||| x >>> (64 - k)

/-- Lane x + 5y. -/
def lane (a : List Nat) (x y : Nat) : Nat := a.getD (x % 5 + 5 * (y % 5)) 0

/-- One round of Keccak-f[1600]. -/
def keccakRound (a : List Nat) (rc : Nat) : List Nat :=
  let c := (List.range 5).map (fun x => lane a x 0 ^^^ lane a x 1 ^^^ lane a x 2 ^^^ lane a x 3 ^^^ lane a x 4)
  let d := (List.range 5).map (fun x => c.getD ((x + 4) % 5) 0 ^^^ rotl64 (c.getD ((x + 1) % 5) 0) 1)
  let t := (List.range 25).map (fun i => rotl64 (a.getD i 0 ^^^ d.getD (i % 5) 0) (keccakRot.getD i 0))
  -- pi: lane (x, y) of the result comes from lane (x + 3y, x)
  let b := (List.range 25).map (fun i => lane t (i % 5 + 3 * (i / 5)) (i % 5))
  let e := (List.range 25).map (fun i =>
    b.getD i 0 ^^^ ((2 ^ 64 - 1 - lane b (i % 5 + 1) (i / 5)) &&& lane b (i % 5 + 2) (i / 5)))
  (e.headD 0 ^^^ rc) :: e.drop 1

/-- Keccak-f[1600]. -/
def keccakF (a : List Nat) : List Nat := keccakRc.foldl keccakRound a

/-- Blocks of the sponge's rate, 136 bytes, absorbed in turn. -/
def shakeAbsorb (a : List Nat) : List Bytes → List Nat
  | [] => a
  | b :: r =>
    let ls := (chunksB 17 8 b).map leNat
    shakeAbsorb (keccakF (List.zipWith (· ^^^ ·) a (ls ++ List.replicate 8 0))) r

/-- `n` further blocks squeezed. -/
def shakeSqueeze : Nat → List Nat → Bytes
  | 0, _ => []
  | n + 1, a => (a.take 17).flatMap (leBytes 8) ++ shakeSqueeze n (keccakF a)

/-- The first `len` bytes of SHAKE256. -/
def shake256 (len : Nat) (m : Bytes) : Bytes :=
  let z := 135 - m.length % 136
  let p := m ++ (if z = 0 then [0x9F] else [0x1F] ++ List.replicate (z - 1) 0 ++ [0x80])
  (shakeSqueeze ((len + 135) / 136) (shakeAbsorb (List.replicate 25 0) (chunksB (p.length / 136) 136 p))).take len

/-! ### SHA-384 -/

/-- Round constants of SHA-512. -/
def sha512K : List Nat :=
  [0x428a2f98d728ae22, 0x7137449123ef65cd, 0xb5c0fbcfec4d3b2f, 0xe9b5dba58189dbbc, 0x3956c25bf348b538, 0x59f111f1b605d019, 0x923f82a4af194f9b, 0xab1c5ed5da6d8118, 0xd807aa98a3030242, 0x12835b0145706fbe, 0x243185be4ee4b28c, 0x550c7dc3d5ffb4e2, 0x72be5d74f27b896f, 0x80deb1fe3b1696b1, 0x9bdc06a725c71235, 0xc19bf174cf692694, 0xe49b69c19ef14ad2, 0xefbe4786384f25e3, 0xfc19dc68b8cd5b5, 0x240ca1cc77ac9c65] ++
  [0x2de92c6f592b0275, 0x4a7484aa6ea6e483, 0x5cb0a9dcbd41fbd4, 0x76f988da831153b5, 0x983e5152ee66dfab, 0xa831c66d2db43210, 0xb00327c898fb213f, 0xbf597fc7beef0ee4, 0xc6e00bf33da88fc2, 0xd5a79147930aa725, 0x6ca6351e003826f, 0x142929670a0e6e70, 0x27b70a8546d22ffc, 0x2e1b21385c26c926, 0x4d2c6dfc5ac42aed, 0x53380d139d95b3df, 0x650a73548baf63de, 0x766a0abb3c77b2a8, 0x81c2c92e47edaee6, 0x92722c851482353b] ++
  [0xa2bfe8a14cf10364, 0xa81a664bbc423001, 0xc24b8b70d0f89791, 0xc76c51a30654be30, 0xd192e819d6ef5218, 0xd69906245565a910, 0xf40e35855771202a, 0x106aa07032bbd1b8, 0x19a4c116b8d2d0c8, 0x1e376c085141ab53, 0x2748774cdf8eeb99, 0x34b0bcb5e19b48a8, 0x391c0cb3c5c95a63, 0x4ed8aa4ae3418acb, 0x5b9cca4f7763e373, 0x682e6ff3d6b2b8a3, 0x748f82ee5defb2fc, 0x78a5636f43172f60, 0x84c87814a1f0ab72, 0x8cc702081a6439ec] ++
  [0x90befffa23631e28, 0xa4506cebde82bde9, 0xbef9a3f7b2c67915, 0xc67178f2e372532b, 0xca273eceea26619c, 0xd186b8c721c0c207, 0xeada7dd6cde0eb1e, 0xf57d4f7fee6ed178, 0x6f067aa72176fba, 0xa637dc5a2c898a6, 0x113f9804bef90dae, 0x1b710b35131c471b, 0x28db77f523047d84, 0x32caab7b40c72493, 0x3c9ebe0a15c9bebc, 0x431d67c49c100d4c, 0x4cc5d4becb3e42b6, 0x597f299cfc657e2a, 0x5fcb6fab3ad6faec, 0x6c44198c4a475817]
/-- The initial state of SHA-384. -/
def sha384Iv : List Nat :=
  [0xcbbb9d5dc1059ed8, 0x629a292a367cd507, 0x9159015a3070dd17, 0x152fecd8f70e5939, 0x67332667ffc00b31, 0x8eb44a8768581511, 0xdb0c2e0d64f98fa7, 0x47b5481dbefa4fa4]

/-- Rotation of a 64-bit word to the right. -/
def rotr64 (x k : Nat) : Nat := x >>> k ||| (x <<< (64 - k)) % 2 ^ 64

/-- One round: the working variables a to h and the window of 16 schedule words, of which the first is used. -/
def sha512Round (s : List Nat × List Nat) (k : Nat) : List Nat × List Nat :=
  let v (i : Nat) : Nat := s.1.getD i 0
  let w (i : Nat) : Nat := s.2.getD i 0
  let s1 := rotr64 (v 4) 14 ^^^ rotr64 (v 4) 18 ^^^ rotr64 (v 4) 41
  let ch := (v 4 &&& v 5) ^^^ ((2 ^ 64 - 1 - v 4) &&& v 6)
  let t1 := v 7 + s1 + ch + k + w 0
  let s0 := rotr64 (v 0) 28 ^^^ rotr64 (v 0) 34 ^^^ rotr64 (v 0) 39
  let mj := (v 0 &&& v 1) ^^^ (v 0 &&& v 2) ^^^ (v 1 &&& v 2)
  let next := w 0 + (rotr64 (w 1) 1 ^^^ rotr64 (w 1) 8 ^^^ w 1 >>> 7) + w 9 + (rotr64 (w 14) 19 ^^^ rotr64 (w 14) 61 ^^^ w 14 >>> 6)
  ([(t1 + s0 + mj) % 2 ^ 64, v 0, v 1, v 2, (v 3 + t1) % 2 ^ 64, v 4, v 5, v 6], s.2.drop 1 ++ [next % 2 ^ 64])

/-- One block of 128 bytes. -/
def sha512Block (h : List Nat) (b : Bytes) : List Nat :=
  let ws := (chunksB 16 8 b).map (fun x => leNat x.reverse)
  List.zipWith (fun x y => (x + y) % 2 ^ 64) h (sha512K.foldl sha512Round (h, ws)).1

/-- SHA-384. -/
def sha384 (m : Bytes) : Bytes :=
  let p := m ++ [0x80] ++ List.replicate ((239 - m.length % 128) % 128) 0 ++ (leBytes 16 (8 * m.length)).reverse
  (((chunksB (p.length / 128) 128 p).foldl sha512Block sha384Iv).flatMap (fun x => (leBytes 8 x).reverse)).take 48

end Sys2Proof.Machine
end

