-- ==== Sys2Proof/Machine/Keys.lean ====
section
/-! DEFINITION. Keys and their use on stored data: derivation (R332), XTS of a tile (R334), check masks (R335), seals
(R336) and the form of a QP context in host memory (R341). -/

namespace Sys2Proof.Machine

/-- The ASCII bytes of a label. -/
def ascii (s : String) : Bytes := s.toList.map (fun c => BitVec.ofNat 8 c.toNat)

/-- A derived key: parent, label and context (R332). -/
def derive (parent : Bytes) (label : String) (ctx : Bytes) : Bytes := shake256 32 (parent ++ ascii label ++ ctx)

/-- A tenant key of a generation. -/
def tenKey (trk : Bytes) (label : String) (ten gen : Nat) : Bytes := derive trk label (leBytes 2 ten ++ leBytes 2 gen)

/-- A node key. -/
def nodeKey (nrk : Bytes) (label : String) : Bytes := derive nrk label []

/-- The tweak of a tile (R334): its 33-bit address and, for frame and pool tiles, its VER. -/
def tweak (addr ver : Nat) : Nat := addr % 2 ^ 33 + (ver % 2 ^ 32) * 2 ^ 64

/-- Doubling of an XTS tweak (IEEE 1619). -/
def xtsDouble (t : Nat) : Nat := if t < 2 ^ 127 then 2 * t else (2 * t - 2 ^ 128) ^^^ 0x87

/-- Full blocks of XTS under a running tweak. -/
def xtsGo (ks : List (List Nat)) : Nat → List Bytes → Bytes
  | _, [] => []
  | t, b :: r => xorB (aesBlock ks (xorB b (leBytes 16 t))) (leBytes 16 t) ++ xtsGo ks (xtsDouble t) r

/-- XTS encryption of whole blocks. -/
def xtsEncrypt (k1 k2 : Bytes) (tw : Nat) (pt : Bytes) : Bytes :=
  xtsGo (aesKeys k1) (leNat (aes256 k2 (leBytes 16 tw))) (blocks16 pt)

/-- XTS decryption of whole blocks under a running tweak. -/
def xtsUngo (ks : List (List Nat)) : Nat → List Bytes → Bytes
  | _, [] => []
  | t, b :: r => xorB (aesUnblock ks (xorB b (leBytes 16 t))) (leBytes 16 t) ++ xtsUngo ks (xtsDouble t) r

/-- The tweak after n doublings. -/
def xtsAfter : Nat → Nat → Nat
  | 0, t => t
  | n + 1, t => xtsAfter n (xtsDouble t)

/-- XTS with ciphertext stealing of 7 whole blocks and 6 bytes: the 118 bytes of a stored context (R341). -/
def xtsSteal (k1 k2 : Bytes) (tw : Nat) (pt : Bytes) : Bytes :=
  let ks := aesKeys k1
  let t := leNat (aes256 k2 (leBytes 16 tw))
  let head := xtsGo ks t (chunksB 7 16 (pt.take 112))
  let cc := head.drop 96
  let t7 := leBytes 16 (xtsAfter 7 t)
  head.take 96 ++ xorB (aesBlock ks (xorB (sliceB pt 112 6 ++ cc.drop 6) t7)) t7 ++ cc.take 6

/-- The inverse of `xtsSteal`. -/
def xtsUnsteal (k1 k2 : Bytes) (tw : Nat) (ct : Bytes) : Bytes :=
  let ks := aesKeys k1
  let t := leNat (aes256 k2 (leBytes 16 tw))
  let t6 := leBytes 16 (xtsAfter 6 t)
  let t7 := leBytes 16 (xtsAfter 7 t)
  let pp := xorB (aesUnblock ks (xorB (sliceB ct 96 16) t7)) t7
  xtsUngo ks t (chunksB 6 16 (ct.take 96)) ++
    xorB (aesUnblock ks (xorB (sliceB ct 112 6 ++ pp.drop 6) t6)) t6 ++ pp.take 6

/-! ### Seals (R336) -/

/-- Product in GF(2^64) with x^64 + x^4 + x^3 + x + 1, by bits of the second factor from the top. -/
def gf64Mul : (bits a b acc : Nat) → Nat
  | 0, _, _, acc => acc
  | n + 1, a, b, acc =>
    let d := if acc < 2 ^ 63 then 2 * acc else (2 * acc - 2 ^ 64) ^^^ 0x1B
    gf64Mul n a b (if b / 2 ^ n % 2 = 1 then d ^^^ a else d)

/-- h^n for n ≥ 1. -/
def gf64Pow (h : Nat) : Nat → Nat
  | 0 => 1
  | n + 1 => gf64Mul 64 h (gf64Pow h n) 0

/-- Σ w_i · h^(e + i) over words. -/
def sealSum (h : Nat) : (e : Nat) → List Nat → Nat
  | _, [] => 0
  | e, w :: r => gf64Mul 64 w (gf64Pow h e) 0 ^^^ sealSum h (e + 1) r

/-- The little-endian 64-bit words of bytes. -/
def words64 (bs : Bytes) : List Nat := (chunksB ((bs.length + 7) / 8) 8 bs).map leNat

/-- A tile's contribution u, π its index within the sub-frame. -/
def sealTile (h π : Nat) (ct : Bytes) : Nat := sealSum h (8 * π + 1) (words64 ct)

/-- The block B(t, x) of a sub-frame. -/
def sealBlk (foff die stack head sub line ver x : Nat) : Bytes :=
  leBytes 16 (pack [(0, 21, foff), (21, 4, die), (25, 3, stack), (28, 3, head), (31, 3, sub), (34, 4, line), (38, 32, ver), (127, 1, x)])

/-- Bits [63:0] of AES under a key of a block. -/
def aes64 (key b : Bytes) : Nat := leNat ((aes256 key b).take 8)

/-- The masked check bits MSK of a tile (R335). -/
def checkMask (kc : Bytes) (tw : Nat) : Nat := leNat ((aes256 kc (leBytes 16 tw)).take 4)

/-! ### Tiles at rest (R334, R335) -/

/-- The keys of stored tiles: XTS and check mask. -/
structure TileKeys where
  k1 : Bytes
  k2 : Bytes
  kc : Bytes
  deriving DecidableEq, Repr, Inhabited

/-- A tenant's KX1, KX2 and KC of a generation (Table 13.2). -/
def tenantKeys (trk : Bytes) (ten gen : Nat) : TileKeys := ⟨tenKey trk "XTS1" ten gen, tenKey trk "XTS2" ten gen, tenKey trk "CHK" ten gen⟩

/-- The node's NX1, NX2 and NC, of node metadata. -/
def metaKeys (nrk : Bytes) : TileKeys := ⟨nodeKey nrk "XTS1", nodeKey nrk "XTS2", nodeKey nrk "CHK"⟩

/-- A tile as T1 stores it: the ciphertext and the masked check. -/
def TileKeys.store (k : TileKeys) (a ver : Nat) (b : Bytes) (chk : Nat) : Bytes × Nat :=
  (xtsEncrypt k.k1 k.k2 (tweak a ver) b, chk ^^^ checkMask k.kc (tweak a ver))

/-- What a reader under some keys makes of a stored tile: data and check. -/
def TileKeys.load (k : TileKeys) (a ver : Nat) (s : Bytes × Nat) : Bytes × Nat :=
  (xtsUngo (aesKeys k.k1) (leNat (aes256 k.k2 (leBytes 16 (tweak a ver)))) (blocks16 s.1), s.2 ^^^ checkMask k.kc (tweak a ver))

/-- A stored tile with some data bits changed. -/
def flipBits (m : W512) (s : Bytes × Nat) : Bytes × Nat := (xorB s.1 (wBytes m), s.2)

/-! ### The QP table (R341) -/

/-- The MAC of a stored context. -/
def qptMac (nqm : Bytes) (qpn ecnt : Nat) (first120 : Bytes) : Nat :=
  let b (x : Nat) := leBytes 16 (pack [(0, 20, qpn), (20, 16, ecnt), (127, 1, x)])
  sealSum (aes64 nqm (b 0)) 1 (words64 first120) ^^^ aes64 nqm (b 1)

/-- A context of 944 bits as stored. -/
def qptStore (nrk : Bytes) (qpn ecnt ctx : Nat) : Bytes :=
  let ct := xtsSteal (nodeKey nrk "QPT1") (nodeKey nrk "QPT2") qpn (leBytes 118 ctx)
  let h := ct ++ leBytes 2 ecnt
  h ++ leBytes 8 (qptMac (nodeKey nrk "QPTM") qpn ecnt h)

/-- A stored context checked and decrypted: its ECNT and bits. -/
def qptLoad (nrk : Bytes) (qpn : Nat) (im : Bytes) : Option (Nat × Nat) :=
  let ecnt := leAt im 118 2
  if leAt im 120 8 = qptMac (nodeKey nrk "QPTM") qpn ecnt (sliceB im 0 120) then
    some (ecnt, leNat (xtsUnsteal (nodeKey nrk "QPT1") (nodeKey nrk "QPT2") qpn (sliceB im 0 118)))
  else none

end Sys2Proof.Machine
end

