-- ==== Sys2Proof/Machine/Ops.lean ====
section
/-! DEFINITION. The named operations the meanings share: register fields and counters (R10 to R12), tenant slots (R343),
host queues (R309 to R311, R318), frozen records and the fault journal (R361, R377 to R379), management completions
(R394), and sending a message (R271, R258). -/

namespace Sys2Proof.Machine

/-! ### Register fields and counters -/

/-- The key of a stored register field: BAR0 byte offset and low bit. -/
def rk (off lo : Nat) : Nat := off * 8 + lo

/-- A stored field's value; unlisted fields hold their reset value 0. -/
def Dev.reg (d : Dev) (key : Nat) : Nat := mgetD d.regs key 0

/-- Sets a stored field. -/
def Dev.setReg (d : Dev) (key v : Nat) : Dev := { d with regs := nset d.regs key v }

/-- Sets several stored fields. -/
def Dev.setRegs (d : Dev) : List (Nat × Nat) → Dev
  | [] => d
  | (k, v) :: r => (d.setReg k v).setRegs r

/-- Adds to a counter of `w` bits; it never passes its largest value (R10, Table 0.10). -/
def Dev.bump (d : Dev) (key w n : Nat) : Dev := d.setReg key (min (d.reg key + n) (2 ^ w - 1))

/-! ### Tenant slots (Table 13.4) -/

/-- The slot of a tenant number; unlisted slots are EMPTY with GEN 1 (R343). -/
def Dev.tenant (d : Dev) (t : Nat) : Tenant := mgetD d.sec.tenants t ⟨0, 0, 1, [], 0, 0, 0, none, 0, 0⟩

def Dev.active (d : Dev) (t : Nat) : Bool := decide ((d.tenant t).state = 1)
def Dev.gen (d : Dev) (t : Nat) : Nat := (d.tenant t).gen
/-- Admitted in a partition. -/
def Dev.admitted (d : Dev) (t p : Nat) : Bool := decide ((d.tenant t).state = 1 ∧ (d.tenant t).part = p)
/-- KEYGEN is the current generation of an ACTIVE slot (check 8, R314, R322). -/
def Dev.keyOk (d : Dev) (t g : Nat) : Bool := decide ((d.tenant t).state = 1 ∧ (d.tenant t).gen = g)
/-- A derived key of an ACTIVE tenant's current generation. -/
def Dev.tkey (d : Dev) (t : Nat) (label : String) : Bytes := tenKey (d.tenant t).trk label t (d.gen t)

/-- Appends an output. -/
def Dev.emit (d : Dev) (o : Output) : Dev := { d with out := d.out ++ [o] }

/-- A fresh free value, and the counter advanced (log entry 3, DESIGN CHOICE). -/
def Dev.fresh (d : Dev) : W64 × Dev := (Config.freeValue d.free, { d with free := d.free + 1 })

/-- Fresh words of the random generator (log entry 3, DESIGN CHOICE). -/
def Dev.draw (d : Dev) (n : Nat) : Bytes × Dev :=
  (sliceB (Config.random d.sec.draws) 0 n, { d with sec := { d.sec with draws := d.sec.draws + 1 } })

/-! ### Node channels (R321, R415, Table 16.2) -/

/-- DMA_CH_CFG.OWNER: 0 the PF, 1 to 16 a VF, 17 the node, 31 none (R321). -/
def Dev.chOwner (d : Dev) (ch : Nat) : Nat := d.reg (rk (0x01001000 + 0x40 * ch) 0)

/-- A channel with nothing bound. -/
def Chan.reset : Chan := ⟨0, 0, 0, 0, 0, 0, none, 0, 0, 0, 0, []⟩
def Dev.chan (d : Dev) (ch : Nat) : Chan := mgetD d.dma.chans ch Chan.reset
def Dev.setChan (d : Dev) (ch : Nat) (c : Chan) : Dev := { d with dma := { d.dma with chans := mset d.dma.chans ch c } }

/-- The node channels in ascending number. -/
def Dev.nodeChans (d : Dev) : List Nat := (List.range 64).filter (fun c => decide (d.chOwner c = 17))
/-- Whether a channel is not halted. -/
def Dev.chRuns (d : Dev) (ch : Nat) : Bool := decide ((d.chan ch).state ≠ 3)
/-- Whether no halt stops every node channel. -/
def Dev.nodeUp (d : Dev) : Bool := d.nodeChans.isEmpty || d.nodeChans.any d.chRuns

/-! ### Host queues -/

/-- Changes a function. -/
def Dev.modFn (d : Dev) (f : Nat) (g : Fn → Fn) : Dev := { d with dma := { d.dma with fns := mmod d.dma.fns f g } }

/-- A function's page; unlisted functions hold reset values (Table 12.12). -/
def Fn.reset : Fn :=
  { enable := false, resetting := false, flr := false, asqErr := false, tdi := 0, asqLog := 0, asqBase := 0, acqLog := 0, acqBase := 0, eqLog := 0,
    eqBase := 0, vecAcq := 0, vecEq := 0, qapTen := 0, qapValid := false, eqOvf := false, asqHead := 0, asqTail := 0,
    acq := ⟨0, 0, 0, 1, 0, 0, true, 0, false, 0⟩, eq := ⟨0, 0, 0, 1, 0, 0, true, 0, false, 0⟩, sqs := [], cqs := [],
    spill := none, qpt := none, running := 0, vmask := [], vpend := [] }

def Dev.fn (d : Dev) (f : Nat) : Fn := mgetD d.dma.fns f Fn.reset

/-- Writes a function back. -/
def Dev.setFn (d : Dev) (f : Nat) (x : Fn) : Dev := { d with dma := { d.dma with fns := mset d.dma.fns f x } }

/-- TDISP state of a function: 0 the PF, 1 CONFIG_UNLOCKED, 2 CONFIG_LOCKED, 3 RUN, 4 ERROR (Table 12.11). -/
def Dev.tdi (d : Dev) (f : Nat) : Nat := if f = 0 then 0 else max 1 (d.fn f).tdi

/-- The T bit of a function's DMA requests (R304). -/
def Dev.tOf (d : Dev) (f : Nat) : Bool := decide (d.tdi f = 3)

/-- The function that an output to the host goes for. -/
def Output.fnOf : Output → Option Nat
  | .hostWrite f _ _ _ => some f
  | .msix f _ => some f
  | _ => none

/-- The node channel that serves a class of Table 16.2 (0 control, 1 context, 2 demand), or the one that takes a halted one's place
(R415). -/
def Dev.classChan (d : Dev) (k : Nat) : Option Nat :=
  match d.nodeChans[k]? with
  | none => none
  | some h => if d.chRuns h then some h else
    (d.nodeChans.filter (fun c => decide (h < c)) ++ d.nodeChans.filter (fun c => decide (c ≤ h))).find? d.chRuns

/-- Bytes placed by a channel (R330). -/
def Dev.chCount (d : Dev) (ch : Option Nat) (n : Nat) : Dev := match ch with
  | none => d
  | some c => d.bump (rk (0x01001010 + 0x40 * c) 0) 64 n

/-- The channel that carries a node transfer. -/
def Dev.xferChan (d : Dev) (w : XWhat) : Option Nat := (d.dma.xfers.find? (fun x => decide (x.what = w))).bind (·.chan)

/-- Whether a host address lies in the QP table. -/
def Dev.inQpt (d : Dev) (f a : Nat) : Bool := decide (f = 0) && (match (d.fn 0).qpt with
  | none => false
  | some b => decide (b ≤ a ∧ a < b + 2 ^ 27))

/-- A CQ or event write, a context or a vector leaves: its channel counts the bytes (R330; log entry 170, DEDUCED). A spill counts where
it is made. -/
def Dev.sendOut (d : Dev) (o : Output) : Dev :=
  match o with
  | .hostWrite f a bs _ =>
    let spilt := match (d.fn f).spill with
      | none => false
      | some (b, n) => decide (f ≠ 0 ∧ b ≤ a ∧ a < b + 4096 * n)
    (d.emit o).chCount (if spilt then none else d.classChan (if d.inQpt f a then 1 else 0)) bs.length
  | _ => d.emit o

/-- Whether a CQ or event write, or its vector, may be issued: the link is up (R329), some node channel runs (R415), and its function is not in
CONFIG_LOCKED (R304). -/
def Dev.outOk (d : Dev) (o : Output) : Bool := d.dma.linkup && d.nodeUp && !decide (o.fnOf.map d.tdi = some 2)

/-- A CQ or event write, or its vector: one that may not be issued waits, and what follows it of the same function waits behind it. -/
def Dev.nodeOut (d : Dev) (o : Output) : Dev :=
  if d.outOk o && !d.dma.heldOut.any (fun x => decide (x.fnOf = o.fnOf)) then d.sendOut o
  else { d with dma := { d.dma with heldOut := d.dma.heldOut ++ [o] } }

/-- A write to host memory through a node channel. -/
def Dev.nodeWrite (d : Dev) (f a : Nat) (bs : Bytes) : Dev := d.nodeOut (.hostWrite f a bs (d.tOf f))

/-- Writes that waited are issued, with the T bit of their function now. -/
def Dev.flushOut (d : Dev) : Dev :=
  let go := d.dma.heldOut.filter d.outOk
  let d := { d with dma := { d.dma with heldOut := d.dma.heldOut.filter (fun o => !d.outOk o) } }
  go.foldl (fun d o => d.sendOut (match o with
    | .hostWrite f a bs _ => .hostWrite f a bs (d.tOf f)
    | o => o)) d

/-- Entries of a ring of 2^log2 that are neither written and unconsumed nor reserved (R308, R310). -/
def Cq.free (c : Cq) : Nat := 2 ^ c.log2 - 1 - (c.tail + 2 ^ c.log2 - c.head) % 2 ^ c.log2 - c.resv

/-- One entry written in ring order: its index, the queue after it, and whether its vector is sent (R309, R311). -/
def Cq.push (c : Cq) : Nat × Cq × Bool :=
  let t := (c.tail + 1) % 2 ^ c.log2
  let hit := c.armed && (decide (c.cnt ≤ c.since + 1) || decide (c.resv = 0))
  (c.tail, { c with tail := t, phase := if t = 0 then !c.phase else c.phase, armed := c.armed && !hit,
                    since := if hit then 0 else c.since + 1 }, hit)

/-- Reserves a free entry. -/
def Cq.reserve (c : Cq) : Cq := { c with resv := c.resv + 1 }
/-- Ends a reservation. -/
def Cq.unreserve (c : Cq) : Cq := { c with resv := c.resv - 1 }
/-- A head doorbell: consumed entries free, ARM 1 arms (R308). -/
def Cq.doorbell (c : Cq) (head : Nat) (arm : Bool) : Cq :=
  { c with head := head % 2 ^ c.log2, armed := c.armed || arm, since := if arm && !c.armed then 0 else c.since }

/-- A CQ entry's bits without its PHASE (Table 12.3). -/
def cqEntry (tag st src kind id w1 w2 : Nat) : Nat :=
  pack [(0, 32, tag), (32, 8, st), (40, 4, src), (44, 4, kind), (48, 16, id), (64, 64, w1), (128, 64, w2)]

/-- A function's vector is sent; a masked one sets its pending bit (R311). -/
def Dev.sendVec (d : Dev) (f v : Nat) : Dev :=
  let fn := d.fn f
  if fn.vmask.contains v then d.setFn f { fn with vpend := fn.vpend.filter (· ≠ v) ++ [v] } else d.nodeOut (.msix f v)

/-- Writes an entry into a local CQ of a function; `resv` ends a reservation first. -/
def Dev.cqWrite (d : Dev) (f cq e : Nat) (resv : Bool) : Dev :=
  let fn := d.fn f
  match mget fn.cqs cq with
  | none => d
  | some c =>
    let c := if resv then c.unreserve else c
    let (i, c', hit) := c.push
    let d := d.setFn f { fn with cqs := mset fn.cqs cq c' }
    let d := d.nodeWrite f (c.base + 32 * i) (leBytes 32 (e + b2n c.phase * 2 ^ 255))
    if hit then d.sendVec f c.vec else d

/-- Writes an entry into a function's admin CQ (R316). -/
def Dev.acqWrite (d : Dev) (f e : Nat) : Dev :=
  let fn := d.fn f
  if !fn.enable then d else
  let c := fn.acq.unreserve
  let (i, c', hit) := c.push
  let d := d.setFn f { fn with acq := c' }
  let d := d.nodeWrite f (c.base + 32 * i) (leBytes 32 (e + b2n c.phase * 2 ^ 255))
  if hit then d.sendVec f c.vec else d

/-- Posts an event to a function's event queue (R318): none before ENABLE (R256), a full queue sets EQ_OVF. Log entry 64, DEDUCED. -/
def Dev.postEvent (d : Dev) (f type arg data : Nat) : Dev :=
  let fn := d.fn f
  if !fn.enable then d else
  if fn.eq.free = 0 then d.setFn f { fn with eqOvf := true } else
  let c := fn.eq
  let (i, c', _) := c.push
  let e := pack [(0, 8, type), (16, 16, arg), (32, 32, data), (127, 1, b2n c.phase)]
  let d := d.setFn f { fn with eq := { c' with armed := c.armed } }
  let d := d.nodeWrite f (c.base + 16 * i) (leBytes 16 e)
  -- the EQ interrupts on every entry while armed (Table 12.12)
  if c.armed then d.sendVec f c.vec else d

/-- Bytes of a function's partial area (DMA_FN_AREA.PAREA_MIB). -/
def Dev.pareaSize (d : Dev) (f : Nat) : Nat := d.reg (rk (0x01000200 + 4 * f) 0) * 2 ^ 20

/-- Writes into a function's partial area (R320); nothing lies beyond it. -/
def Dev.pareaWrite (d : Dev) (f a : Nat) (bs : Bytes) : Dev :=
  { d with dma := { d.dma with parea := mset d.dma.parea f (memWrite sramByte (mgetD d.dma.parea f []) a (bs.take (d.pareaSize f - a))) } }

/-- Work taken from an SQ ends: its records, then its CQ entry (R315). SQs and CQs deleted meanwhile take none (Table 12.9). -/
def Dev.hostAnswer (d : Dev) (f sq ctag kind st info : Nat) (writes : List (Nat × Bytes)) : Dev :=
  let d := writes.foldl (fun d w => d.pareaWrite f w.1 w.2) d
  let fn := d.fn f
  match mget fn.sqs sq with
  | none => d.setFn f { fn with running := fn.running - 1 }
  | some q =>
    let q' := { q with outst := q.outst - 1 }
    let d := d.setFn f { fn with sqs := mset fn.sqs sq q', running := fn.running - 1 }
    let d := d.cqWrite f q.cq (cqEntry ctag st 0 kind sq (ctag / 2 ^ 32 % 2 ^ 16) info) true
    -- DELETE_SQ completes when every fetched entry has its CQ entry (Table 12.6)
    match q.deleting with
    | some tag =>
      if q'.outst = 0 then
        let fn := d.fn f
        (d.setFn f { fn with sqs := mdel fn.sqs sq }).acqWrite f (cqEntry tag 0 3 0 0 fn.asqHead 0)
      else d
    | none => d

/-! ### Management completions -/

/-- Data padded with zero bytes to a multiple of 8 (R393). -/
def pad8 (bs : Bytes) : Bytes := bs ++ List.replicate ((8 - bs.length % 8) % 8) 0

/-- The oldest command in flight with an opcode. -/
def Dev.inflight (d : Dev) (opc : Nat) : Option MCmd := d.pwr.inflight.find? (fun m => m.opc = opc)

/-- Whether a command's data fits RSPMAX − 16 (R393); a command that no envelope carried has room (log entry 12, DEDUCED). -/
def Dev.mgmtRoom (d : Dev) (opc len : Nat) : Bool := match d.inflight opc with
  | none => true
  | some m => decide (len + 16 ≤ m.rspMax)

/-- A management command completes (R393, R394): its response, its CQ entry of SRC 3 on the PF, and the count. The oldest
command in flight with the opcode is the one that completes (log entry 12, DEDUCED). -/
def Dev.mgmtDone (d : Dev) (opc st : Nat) (data : Bytes) : Dev :=
  let data := pad8 data
  let d := (d.emit (.mgmtResp opc st data)).bump (rk 0x01200208 0) 64 1
  match d.inflight opc with
  | none => d
  | some m =>
    let d := { d with pwr := { d.pwr with inflight := dropFirst (fun x => decide (x.opc = opc)) d.pwr.inflight } }
    let h := leBytes 16 (pack [(0, 16, opc), (16, 8, st), (32, 32, data.length), (64, 64, m.cseq)])
    let d := d.nodeWrite 0 m.rspAddr (h ++ data)
    if m.live then d.acqWrite 0 (cqEntry m.ctag st 3 0 0 m.head 0) else d

/-! ### Frozen records and the journal -/

/-- A fault entry's bits [479:64] (Table 14.3). -/
def jBody (bootid : Nat) (j : JInfo) : Nat :=
  pack [(64, 32, bootid), (96, 8, j.type), (104, 8, j.code), (112, 8, j.sub), (120, 3, j.level), (124, 4, j.part),
    (128, 12, j.tenant), (144, 16, j.engine), (160, 32, j.tag), (192, 12, j.peer), (208, 48, j.seq), (256, 32, j.page),
    (288, 32, j.epoch), (320, 32, j.arg), (352, 24, j.ctxid), (376, 3, j.ckind), (380, 10, j.layer), (390, 6, j.hgrp)]

/-- A journal entry with its JSEQ and CRC. -/
def jEntry (jseq : Nat) (body : W512) : W512 :=
  let e := body.toNat / 2 ^ 64 * 2 ^ 64 + jseq % 2 ^ 64
  BitVec.ofNat 512 (e % 2 ^ 480 + crc32c (leBytes 60 (e % 2 ^ 480)) * 2 ^ 480)

/-- A page-run's identity put into an entry. -/
def JInfo.run (j : JInfo) (r : RunId) : JInfo :=
  { j with tenant := r.ten, seq := r.seq, layer := r.layer, hgrp := r.hgrp, page := r.page }

/-- A record becomes VALID and its event is posted (R361, R362). `jseq` is 0 for one that was not journalled. -/
def Dev.recValid (d : Dev) (slot jseq : Nat) (jnl nojnl : Bool) : Dev :=
  match mget d.rcv.recs slot with
  | none => d
  | some r =>
    let b := r.data.toNat % 2 ^ 480 / 2 ^ 64 * 2 ^ 64 + jseq % 2 ^ 64 + b2n jnl * 2 ^ 480 + b2n nojnl * 2 ^ 481
    let d := { d with rcv := { d.rcv with recs := mset d.rcv.recs slot { r with valid := true, data := BitVec.ofNat 512 b } } }
    d.postEvent 0 6 slot (fld b 104 8 + fld b 120 3 * 256)

/-- Puts packets behind those that wait for an egress store (R285). -/
def Dev.enqueue (d : Dev) (ps : List OutPkt) : Dev := { d with waitq := d.waitq ++ ps }

/-- A block stops until a reset at or above the record's LEVEL (R360). -/
def Dev.stop (d : Dev) (engine level : Nat) : Dev :=
  { d with rcv := { d.rcv with stopped := d.rcv.stopped ++ [(engine, level)] } }

/-- Whether a unit or block has stopped. -/
def Dev.hasStopped (d : Dev) (engine : Nat) : Bool := d.rcv.stopped.any (fun s => decide (s.1 = engine))

/-- Whether a reset of the whole node runs, during which SQ fetch, hand-on and commands stop (Table 14.9). -/
def Dev.chipReset (d : Dev) : Bool := match d.rcv.run with
  | none => false
  | some r => decide (4 ≤ r.level)
/-- Whether a reset of a partition runs: its new work waits (R366). -/
def Dev.partHeld (d : Dev) (p : Nat) : Bool := match d.rcv.run with
  | none => false
  | some r => decide (r.level = 3 ∧ r.target = p)
/-- The same for a QP of the partition (R369). -/
def Dev.qpHeld (d : Dev) (qpn : Nat) : Bool := match mget d.trn.qps qpn with
  | none => false
  | some q => d.partHeld q.part
/-- Whether a reset of a context runs: new work of its edit slot or channel waits (R366). -/
def Dev.ctxHeld (d : Dev) (ckind target : Nat) : Bool := match d.rcv.run with
  | none => false
  | some r => decide (r.level = 1 ∧ r.ckind = ckind ∧ r.target = target)

/-- Whether a unit or block takes no new work: it has stopped (R360), or a reset of it runs (R366, R368, Table 14.15). A chip reset holds every block but
the Ozsel ports, which stay UP and drain (R371). -/
def Dev.isStopped (d : Dev) (engine : Nat) : Bool := d.hasStopped engine || (match d.rcv.run with
  | none => false
  | some r => decide ((r.level = 2 ∧ r.target = engine) ∨ (4 ≤ r.level ∧ engine / 4096 ≠ 6)))

/-! ### Sending (R258, R271) -/

/-- Whether a link is UP. -/
def Dev.linkUp (d : Dev) (n : Nat) : Bool := match mget d.links n with
  | none => false
  | some l => decide (l.state = 2)

/-- The path that a QP's next packet takes: the first UP path of PMASK from `turn` on; (path, link). -/
def pathOf (d : Dev) (q : Qp) : Option (Nat × Nat) :=
  ((List.range 16).map (fun i => (q.turn + i) % 16)).find? (fun p => fld q.pmask p 1 = 1 && d.linkUp (q.paths.getD p 32))
    |>.map (fun p => (p, q.paths.getD p 32))

/-- Whether this node's endpoint number is the lower of a QP's two (R345). -/
def sendsLow (d : Dev) (q : Qp) : Bool := decide (d.pwr.node < q.remote)

/-- The GCM key this end sends with. -/
def txKey (d : Dev) (q : Qp) : Bytes := match mget d.sec.ckeys q.ckey with
  | none => []
  | some k => if sendsLow d q then k.klo else k.khi

/-- The GCM key this end receives with. -/
def rxKey (d : Dev) (q : Qp) : Bytes := match mget d.sec.ckeys q.ckey with
  | none => []
  | some k => if sendsLow d q then k.khi else k.klo

/-- A header's bits [447:0] but for PATH (Table 10.4). -/
def hdrBits (d : Dev) (q : Qp) (qpn : Nat) (r : SendReq) (msn plen mlen moff : Nat) : Nat :=
  let nokey := r.op = 8 ∨ r.op = 9
  pack [(0, 4, r.op), (4, 4, r.subk), (8, 4, r.cls), (12, 1, b2n (q.enc && !nokey)), (16, 16, d.pwr.node), (32, 16, q.remote),
    (64, 20, q.rqpn), (84, 20, qpn), (104, 12, r.ten), (128, 16, r.gen), (160, 32, d.trn.epoch),
    (192, 24, msn), (216, 13, plen), (232, 24, if nokey then 0 else q.rakidx), (256, 16, if nokey then 0 else q.raktag),
    (288, 32, mlen), (320, 32, moff), (352, 64, r.addr + (if r.op = 6 then 0 else moff)), (416, 32, r.imm)]

/-- A header closed with PCRC and HCRC. -/
def closeHdr (h pcrc : Nat) : W512 :=
  let h := h + pcrc * 2 ^ 448
  BitVec.ofNat 512 (h + crc32c (leBytes 60 h) * 2 ^ 480)

/-- A packet put on a path: its PATH, its encryption with the next sequence number (R280) and its CRCs. The additional
data is header bytes 0 to 59 with PCRC read as 0, since PCRC covers the tag (log entry 13, DEDUCED). -/
def finishPkt (d : Dev) (q : Qp) (path : Nat) (p : OutPkt) : OutPkt × Qp :=
  let h := setFld (p.hdr.toNat % 2 ^ 448) 48 4 path
  let q := { q with turn := (path + 1) % 16 }
  if fld h 12 1 = 0 then ({ p with hdr := closeHdr h (crc32c p.payload) }, q) else
  let seq := leBytes 8 q.txseq
  let (ct, t) := gcmEncrypt (txKey d q) (leBytes 4 q.salt.toNat ++ seq) (leBytes 60 h) p.payload
  let wire := seq ++ ct ++ t
  ({ p with hdr := closeHdr h (crc32c wire), payload := wire }, { q with txseq := q.txseq + 1 })

/-- The packets of a message from an offset (fuel: number of packets). -/
def mkPkts (d : Dev) (q : Qp) (qpn : Nat) (r : SendReq) (lim mlen msn : Nat) : (fuel moff : Nat) → List OutPkt
  | 0, _ => []
  | k + 1, moff =>
    let pay := (r.payload.drop moff).take lim
    let last := decide (mlen ≤ moff + lim)
    let tag := match r.tag with
      | .record t _ => .record t last
      | x => if last then x else .none
    let p : OutPkt := ⟨BitVec.ofNat 512 (hdrBits d q qpn r msn pay.length mlen moff), pay, tag, false⟩
    if last then [p] else p :: mkPkts d q qpn r lim mlen msn k (moff + lim)

/-- Writes a QP context back. -/
def Dev.setQp (d : Dev) (n : Nat) (q : Qp) : Dev := { d with trn := { d.trn with qps := mset d.trn.qps n q } }

/-- The packets of one message on a QP and the QP after it. -/
def buildMsg (d : Dev) (qpn : Nat) (q : Qp) (r : SendReq) : List OutPkt × Qp :=
  let lim := if r.op = 6 then 4096 else 256 * 2 ^ q.pmaxc
  let ctl := r.op = 8 ∨ r.op = 9
  (mkPkts d q qpn r lim r.payload.length (if ctl then 0 else q.txmsn) (r.payload.length / lim + 1) 0,
   if ctl then q else { q with txmsn := (q.txmsn + 1) % 2 ^ 24 })

/-- Starts the fetch of a context from the host QP table, once (R267). -/
def Dev.fetchQp (d : Dev) (qpn : Nat) (q : Qp) : Dev :=
  if q.fetching then d else
  let d := d.setQp qpn { q with fetching := true }
  { d with dma := { d.dma with xfers := d.dma.xfers ++ [⟨.ctx qpn, none, false, 0⟩] } }

/-- Sends a message on a QP that is ready; on one in error or absent nothing is sent, and a record counts as a protocol
drop (R420). A message on a QP whose context is not cached waits for it (R266). -/
def Dev.sendMsg (d : Dev) (qpn : Nat) (r : SendReq) : Dev :=
  match mget d.trn.qps qpn with
  | none => d.bump (rk 0x00E00058 0) 32 1
  | some q =>
    if !q.cached && decide (q.state = 1) then
      ({ d with trn := { d.trn with sendWait := d.trn.sendWait ++ [(qpn, r, false)] } }).fetchQp qpn q else
    if q.state ≠ 1 then (if r.op = 7 then d.bump (rk 0x00E00058 0) 32 1 else d) else
    let (ps, q) := buildMsg d qpn q r
    (d.setQp qpn q).enqueue ps

/-- A completion record of an edit or sequence command on a return QP (R138, R182). -/
def Dev.sendPartial (d : Dev) (qpn : Nat) (addr imm : Nat) (bs : Bytes) (tag : PktTag) : Dev :=
  match mget d.trn.qps qpn with
  | none => d.bump (rk 0x00E00058 0) 32 1
  | some q => d.sendMsg qpn ⟨7, 0, 2, q.ten, d.gen q.ten, q.rbase + addr, imm, bs, tag⟩

/-! ### Held acknowledgements and fault records (R361, R377, R378) -/

/-- An acknowledgement is let go (R378). -/
def Dev.letGo (d : Dev) (jseq : Nat) (jnl nojnl : Bool) : Held → Dev
  | .record s => d.recValid s jseq jnl nojnl
  | .event f t a x => d.postEvent f t a x
  | .send n r => d.sendMsg n r
  | .hostAnswer f sq tag kind st info ws => d.hostAnswer f sq tag kind st info ws
  | .field k v => d.setReg k v
  | .teardownDone _ => { d with sec := { d.sec with td := none } }.mgmtDone 0x0102 0 []
  | .mgmt o s x => d.mgmtDone o s x
  | .cq f c e => d.cqWrite f c e true
  | .tenon t st info => { d with atn := { d.atn with table := mmod d.atn.table t (fun e =>
      { e with result := if e.result.isNone then some (st, info) else e.result }) } }

/-- Lets a list of acknowledgements go in order. -/
def Dev.letGoAll (d : Dev) (jseq : Nat) (jnl nojnl : Bool) : List Held → Dev
  | [] => d
  | h :: r => (d.letGo jseq jnl nojnl h).letGoAll jseq jnl nojnl r

/-- A journalled event: queued with what it holds, or acknowledged at once while the journal is not ready (R377 to R379). Log entry 91, DEDUCED. -/
def Dev.journal (d : Dev) (j : JInfo) (held : List Held) : Dev :=
  if d.rcv.jstate = 1 then
    { d with rcv := { d.rcv with jq := d.rcv.jq ++ [⟨BitVec.ofNat 512 (jBody d.sec.bootid j), held⟩] } }
  else d.letGoAll 0 false true held

/-- The lowest free record slot of 256 (R361). -/
def Dev.freeRec (d : Dev) : Option Nat :=
  let s := mfree d.rcv.recs 0 256
  if s < 256 then some s else none

/-- A fault of Table 14.2: freezes a record, journals it when `jnl`, and holds its acknowledgements (R361, R378). -/
def Dev.fault (d : Dev) (j : JInfo) (jnl : Bool) (held : List Held) : Dev :=
  let j := { j with type := 1 }
  match d.freeRec with
  | none =>
    let d := d.bump (rk 0x01200018 16) 16 1
    if jnl then d.journal j held else d.letGoAll 0 false false held
  | some s =>
    let d := { d with rcv := { d.rcv with recs := mset d.rcv.recs s ⟨false, BitVec.ofNat 512 (jBody d.sec.bootid j), j.level⟩ } }
    if jnl then d.journal j (.record s :: held) else (d.recValid s 0 false false).letGoAll 0 false false held

/-- Holds acknowledgements of an event journalled just now until its entry commits (R378). -/
def Dev.hold (d : Dev) (hs : List Held) : Dev :=
  match d.rcv.jq.reverse with
  | [] => d.letGoAll 0 false true hs
  | e :: r => { d with rcv := { d.rcv with jq := r.reverse ++ [{ e with held := e.held ++ hs }] } }

/-! ### Credits (R275 to R278) -/

/-- Tenon-table entries neither in use nor committed: each submit credit taken commits one, and host tenons hold theirs. -/
def Dev.tenonFree (d : Dev) : Nat :=
  let taken := sumN (d.trn.qps.map (fun e => e.2.subTaken))
  let isHost (s : Src) : Bool := match s with
    | .host _ _ _ _ => true
    | _ => false
  let host := (d.atn.table.filter (fun e => isHost e.2.src)).length + (d.atn.queue.filter (fun w => isHost w.src)).length
  65536 - taken - host - (d.trn.merges.filter (fun m => m.opener.isNone)).length

/-- Submit credit granted and not yet taken, over all QPs (TRN_CREDIT.SUBMIT). -/
def Dev.subOut (d : Dev) : Nat :=
  sumN (d.trn.qps.map (fun e => (e.2.rxsl + 2 ^ 32 - e.2.rxsret) % 2 ^ 32 - e.2.subTaken))

/-- Packet credit outstanding to QPs whose contexts are being fetched: it takes ingress slots when they are cached (R277; log entry 148,
DESIGN CHOICE). -/
def Dev.fetchOut (d : Dev) : Nat :=
  sumN (d.trn.qps.map (fun e => if !e.2.cached && e.2.fetching then (e.2.rxcl + 2 ^ 32 - e.2.rxret) % 2 ^ 32 else 0))

/-- Packet credit outstanding to the cached QPs (TRN_CREDIT.INGRESS). -/
def Dev.ingress (d : Dev) : Nat :=
  sumN (d.trn.qps.map (fun e => if e.2.cached then (e.2.rxcl + 2 ^ 32 - e.2.rxret) % 2 ^ 32 else 0))

/-- Whether a header is of a CREDIT or CONTROL packet, which holds no credit. -/
def ctlHdr (h : W512) : Bool := decide (wf h 0 4 = 8 ∨ wf h 0 4 = 9)

/-- Parked CREDIT and CONTROL packets: 64 entries are kept for them (R269). -/
def Dev.parkCtl (d : Dev) : Nat := (d.trn.parked.filter (fun p => ctlHdr p.2.hdr)).length

/-- Parking entries of the 1,984 for credited packets that are neither used nor reserved (R267 to R269). -/
def Dev.parkFree (d : Dev) : Nat :=
  1984 - (d.trn.parked.length - d.parkCtl + sumN (d.trn.qps.map (fun e => e.2.reserved)))

/-- Whether a running reset (R366, R369, R370) or Dormant (Table 15.11) withholds a QP's credit. -/
def Dev.credHeld (d : Dev) (q : Qp) : Bool := decide (d.pwr.state = .entering ∨ d.pwr.state = .dormant ∨ d.pwr.state = .waking) ||
  match d.rcv.run with
  | none => false
  | some r => decide (4 ≤ r.level ∨ (r.level = 3 ∧ r.target = q.part))

/-- Whether a packet is a CREDIT packet of a QP. -/
def isCredit (qpn : Nat) (p : OutPkt) : Bool := decide (wf p.hdr 0 4 = 8 ∧ wf p.hdr 84 20 = qpn)

/-- A CREDIT packet of a QP with another grant, where it stands; one in an egress store has its CRCs. -/
def regrant (qpn : Nat) (pay : Bytes) (stored : Bool) (p : OutPkt) : OutPkt :=
  if !isCredit qpn p then p else
  { p with payload := pay, hdr := if stored then closeHdr (p.hdr.toNat % 2 ^ 448) (crc32c pay) else p.hdr }

/-- Queues the QP's grant: one CREDIT packet carries all grants raised before it reaches the link layer (R276), and keeps its place. -/
def Dev.credit (d : Dev) (qpn : Nat) : Dev :=
  match mget d.trn.qps qpn with
  | none => d
  | some q =>
    let pay := leBytes 16 (pack [(0, 32, q.rxcl), (32, 32, q.rxsl), (64, 24, q.exp)])
    if d.waitq.any (isCredit qpn) || d.links.any (fun e => e.2.subqs.any (fun s => decide (s.cls = 1) && s.pkts.any (isCredit qpn))) then
      { d with
        waitq := d.waitq.map (regrant qpn pay false)
        links := mmap d.links (fun _ l => { l with subqs := l.subqs.map (fun s =>
          if s.cls = 1 then { s with pkts := s.pkts.map (regrant qpn pay true) } else s) }) }
    else d.sendMsg qpn ⟨8, 0, 1, 0, 0, 0, 0, pay, .none⟩

/-- Contexts in the order of R277: the oldest unanswered return first, then by number. -/
def insRet (e : Nat × Nat) : List (Nat × Nat) → List (Nat × Nat)
  | [] => [e]
  | x :: r => if e.1 < x.1 then e :: x :: r else x :: insRet e r

/-- The cached QPs, oldest unanswered return first. -/
def Dev.retOrder (d : Dev) : List Nat :=
  ((d.trn.qps.filter (fun e => e.2.cached && decide (e.2.state = 1))).foldr
    (fun e l => insRet (if e.2.retAt = 0 then d.trn.clock + 1 else e.2.retAt, e.1) l) []).map Prod.snd

/-! ### Decode staging (R411 to R413) -/

/-- Staging units of 4 KiB for a number of bytes. -/
def stageUnits (n : Nat) : Nat := cdiv n 4096

/-- Whether a placement body in a message's first bytes announces a coded payload: an OFFER or a SHADOW with CODED 1 (R191). -/
def codedBody (b : Nat) : Bool := decide ((fld b 0 4 = 0 ∨ fld b 0 4 = 9) ∧ fld b 231 1 = 1)

/-- Units that coded payloads handed on to the tier manager hold (R412). -/
def Dev.linkStaged (d : Dev) : Nat :=
  sumN (d.plc.queue.map (fun w => if codedBody (w.desc.toNat % 2 ^ 256) then stageUnits w.extra.length else 0))

/-- Units that stage-backs hold, from the issue of their reads on (R413). -/
def Dev.backStaged (d : Dev) : Nat := sumN (d.dma.xfers.map (·.units))

/-- Whether the link share of staging, at most 176 of the 192 units, takes n units more. -/
def Dev.linkRoom (d : Dev) (n : Nat) : Bool := decide (d.linkStaged + n ≤ 176 ∧ d.linkStaged + d.backStaged + n ≤ 192)
/-- Whether the stage-back share, at most 64 units, takes n units more. -/
def Dev.backRoom (d : Dev) (n : Nat) : Bool := decide (d.backStaged + n ≤ 64 ∧ d.linkStaged + d.backStaged + n ≤ 192)

/-- Whether a peer QP has a coded message open: an OFFER or SHADOW with CODED 1 whose first bytes have arrived. -/
def codedOpen (q : Qp) : Bool := decide (q.type = 1) && q.msgs.any (fun m => decide (wf m.hdr 0 4 = 6 ∧ wf m.hdr 4 4 = 4) && !m.done &&
  m.data.any (fun x => decide (x.1 = 0 ∧ 32 ≤ x.2.length) && codedBody (leAt x.2 0 32)))

/-- The grant of R277 to one QP. While the link share of staging is full, a peer QP with a coded message open gets no packet credit
(R278, R412). -/
def Dev.grant (d : Dev) (qpn : Nat) : Dev :=
  match mget d.trn.qps qpn with
  | none => d
  | some q =>
    if d.parkFree < d.reg (rk 0x00E00000 0) ∨ d.credHeld q then d else
    let out := (q.rxcl + 2 ^ 32 - q.rxret) % 2 ^ 32
    let n := if codedOpen q && !d.linkRoom 1 then 0 else min (q.cwin - out) (4032 - d.ingress - d.fetchOut)
    let sout := (q.rxsl + 2 ^ 32 - q.rxsret) % 2 ^ 32
    let m := min (q.swin - sout) (d.tenonFree - d.subOut)
    if n = 0 ∧ m = 0 then d else
    (d.setQp qpn { q with rxcl := (q.rxcl + n) % 2 ^ 32, rxsl := (q.rxsl + m) % 2 ^ 32, retAt := 0 }).credit qpn

/-- The escapement runs when credit is returned, a slot or entry frees, or a context is cached (R277). -/
def Dev.escapement (d : Dev) : Dev := d.retOrder.foldl Dev.grant d

/-- Credits returned on a QP: packet credits, and submit credits that messages had taken (R275). -/
def Dev.giveBack (d : Dev) (qpn npkt nsub : Nat) : Dev :=
  match mget d.trn.qps qpn with
  | none => d
  | some q =>
    let d := { d with trn := { d.trn with clock := d.trn.clock + 1 } }
    d.setQp qpn { q with rxret := (q.rxret + npkt) % 2 ^ 32, rxsret := (q.rxsret + nsub) % 2 ^ 32, subTaken := q.subTaken - nsub,
                         pktTaken := q.pktTaken - npkt,
                         retAt := if q.retAt = 0 then d.trn.clock else q.retAt }

/-- A QP enters error; later sending stops (R261, R265). -/
def Dev.qpError (d : Dev) (qpn cause : Nat) : Dev :=
  match mget d.trn.qps qpn with
  | none => d
  | some q => if q.state = 1 then d.setQp qpn { q with state := 2, errc := cause, changed := !q.cached } else d

/-! ### The measurement log (R356) -/

/-- Extends the measurement log with an 80-byte event. -/
def Dev.mlog (d : Dev) (ev : Nat) (digest : Bytes) : Dev :=
  { d with sec := { d.sec with logd := shake256 64 (d.sec.logd ++ leBytes 16 ev ++ sliceB digest 0 64), logn := d.sec.logn + 1 } }

end Sys2Proof.Machine
end

