-- ==== Sys2Proof/Machine/Release.lean ====
section
/-! DEFINITION. Giving back what finished work held: pins and retired storage (R130, R132), program slots (R80),
tenon-table entries with their submit credit (R32), and what a departing or discarded packet releases. -/

namespace Sys2Proof.Machine

/-! ### Lanes and versions (R122, R127) -/

/-- A slot that no edit has written. -/
def LSlot.empty : LSlot := ⟨0, 0, false, [], []⟩

/-- The slot that a walk of a version uses: VALID, with the largest SVER not above it. -/
def Lane.slotFor (l : Lane) (v : Nat) : LSlot :=
  let ok (s : LSlot) : Bool := s.valid && decide (s.sver ≤ v)
  if ok l.a && (!ok l.b || decide (l.b.sver ≤ l.a.sver)) then l.a else if ok l.b then l.b else LSlot.empty

/-- A lane's slot at a version; an unlisted lane holds nothing. -/
def Seq.slotFor (q : Seq) (lane v : Nat) : LSlot := match mget q.lanes lane with
  | none => LSlot.empty
  | some l => l.slotFor v

/-- A lane's current slot. -/
def Seq.now (q : Seq) (lane : Nat) : LSlot := q.slotFor lane q.lver

/-! ### Storage -/

/-- The number of a granule: 2 KiB at one offset on a core die (R180). -/
def granule (stack die foff : Nat) : Nat := (16 * stack + die) * 65536 + foff / 32

/-- Blocks given back, each to its tier: bit 29 marks a block of T0 (log entry 23, DESIGN CHOICE). -/
def Dev.freeBlks (d : Dev) (as : List Nat) : Dev :=
  { d with pgm := { d.pgm with blkFree := d.pgm.blkFree ++ as.filter (fun a => decide (a < 2 ^ 29))
                               t0Free := d.pgm.t0Free ++ as.filter (fun a => decide (2 ^ 29 ≤ a)) } }

/-- Storage of the retired versions that no pinned version still needs: those to free, those to keep (R132). -/
def splitRetired (pins : NMap Nat) (l : List Retired) : List Retired × List Retired :=
  l.partition (fun r => pins.all (fun p => decide (r.ver ≤ p.1)))

/-- Whether a pinned version of some sequence may still name a share. -/
def Dev.shareKept (d : Dev) (i : Nat) : Bool := d.pgm.seqs.any (fun q => q.2.retired.any (fun r => r.shares.contains i))

/-- The granules of a frame that failed with FCAUSE 1: they are retired when it is freed (R207). -/
def PageEnt.badGran (e : PageEnt) : List Nat := match e.loc with
  | .t1 s c f => if e.failed ∧ e.fcause = 1 then [granule s c f] else []
  | _ => []

/-- Frees a shared page that no ledger names, no pin keeps and no walk holds (R132, R141, R142). -/
def Dev.freeShared (d : Dev) (i : Nat) : Dev :=
  match mget d.pgm.shares i with
  | none => d
  | some s =>
    if s.refs ≠ 0 ∨ s.holds ≠ 0 ∨ d.shareKept i then d else
    { d with pgm := { d.pgm with shares := mdel d.pgm.shares i, blkFree := d.pgm.blkFree ++ (if s.ent.sblk = 0 then [] else [s.ent.sblk]) }
             plc := { d.plc with frames := d.plc.frames.filter (fun f => decide (f.loc ≠ s.ent.loc))
                                 retGran := d.plc.retGran ++ (s.ent.badGran.filter (fun g => !d.plc.retGran.contains g)) } }

/-- An image of T3 that nothing names any more: its units are free, its table slot has a reference less (R154), and page-runs that found no
room in the spill area may be tried again (8 marks them). -/
def Dev.freeImg (d : Dev) (i : Img) : Dev :=
  { d with cmp := match i.tslot with
             | none => d.cmp
             | some s => mmod d.cmp s (fun t => { t with refs := t.refs - 1 })
           plc := { d.plc with declined := d.plc.declined.filter (fun x => decide (x.2 ≠ 8)) } }

/-- The image that a record names (R187). -/
def Run.image (r : Run) : Option Img := if r.t3bytes = 0 then none else some ⟨r.id, r.t3unit, r.t3bytes, r.tslot⟩

/-- The images that retired storage still holds (R132, R175). -/
def Dev.oldImages (d : Dev) : List Img := d.pgm.seqs.flatMap (fun q => q.2.retired.flatMap (·.images))

/-- Frees a version's retired storage: frames and blocks return to their allocators; a run that left the ledger loses
its record, and a T3 image its table reference (R132, R154, R188). -/
def Dev.freeRetired (d : Dev) (r : Retired) : Dev :=
  let gone (x : Run) : Bool := r.runs.contains x.id
  let images := (d.plc.runs.filter gone).filterMap Run.image ++ r.images
  let d := { d with
    plc := { d.plc with frames := d.plc.frames.filter (fun f => !r.frames.contains f.loc), runs := d.plc.runs.filter (fun x => !gone x)
                        retGran := d.plc.retGran ++ r.granules.filter (fun g => !d.plc.retGran.contains g) } }
  let d := images.foldl Dev.freeImg d
  r.shares.foldl Dev.freeShared (d.freeBlks r.blocks)

/-- Whether a tray position is this node's, and which is (R168). -/
def Dev.traySelf (d : Dev) (p : Nat) : Bool := decide (d.reg (rk (0x00800060 + 8 * (p / 4)) (16 * (p % 4) + 15)) = 1)
def Dev.myPos (d : Dev) : Nat := ((List.range 8).find? d.traySelf).getD 0
/-- Whether a local slot is a lodging slot (R168). -/
def Dev.lodging (d : Dev) (slot : Nat) : Bool := decide (fld slot 19 3 ≠ d.myPos)

/-- A closing sequence with nothing left frees its slot: SGEN advances, and past its maximum the slot is retired (R186); a
lodging slot keeps its SGEN (R195). Log entry 63, DEDUCED. -/
def Dev.endSeq (d : Dev) (slot : Nat) : Dev :=
  match mget d.pgm.seqs slot with
  | none => d
  | some q =>
    if !q.closing || !q.pins.isEmpty || !q.edits.isEmpty then d else
    let d := { d with pgm := { d.pgm with seqs := mdel d.pgm.seqs slot, blkFree := d.pgm.blkFree ++ q.ldroot } }
    if d.lodging slot then d
    else if q.sgen = 0x3FFF then { d with plc := { d.plc with retSlots := d.plc.retSlots ++ [slot] } }
    else { d with pgm := { d.pgm with sgens := mset d.pgm.sgens slot (q.sgen + 1) } }

/-- Frees retired storage of a sequence once no pin below its version remains. -/
def Dev.reap (d : Dev) (slot : Nat) : Dev :=
  match mget d.pgm.seqs slot with
  | none => d
  | some q =>
    let (go, stay) := splitRetired q.pins q.retired
    let d := { d with pgm := { d.pgm with seqs := mset d.pgm.seqs slot { q with retired := stay } } }
    (go.foldl Dev.freeRetired d).endSeq slot

/-- Takes one off a pin's count; the entry leaves the table at 0 (R130). -/
def unpin (pins : NMap Nat) (v : Nat) : NMap Nat :=
  match mget pins v with
  | none => pins
  | some n => if n ≤ 1 then mdel pins v else mset pins v (n - 1)

/-- Releases a pin and what it kept. -/
def Dev.unpin (d : Dev) (slot v : Nat) : Dev :=
  { d with pgm := { d.pgm with seqs := mmod d.pgm.seqs slot (fun q => { q with pins := Machine.unpin q.pins v }) } }.reap slot

/-- Tenons that hold a reference on a program slot (R80). -/
def Dev.progUse (d : Dev) (slot : Nat) : Nat := (d.atn.table.filter (fun e => e.2.admitted && decide (e.2.tn.sprog = slot))).length

/-- Empties draining program slots without a reference, completing their unloads (R79, R80, R82). -/
def Dev.drainProgs (d : Dev) : Dev :=
  let done := d.atn.progs.filter (fun e => decide (e.2.state = 2) && decide (d.progUse e.1 = 0))
  done.foldl (fun d e =>
    let d := { d with atn := { d.atn with progs := mdel d.atn.progs e.1 } }
    let h := leAt e.2.image 0 16
    let d := d.mlog (pack [(0, 8, 4), (8, 6, e.1), (14, 2, fld h 14 2), (16, 4, fld h 16 4), (20, 12, fld h 20 12), (120, 4, 1)]) e.2.digest
    if d.pwr.waits.contains (.unloadProgram e.1) then
      ({ d with pwr := { d.pwr with waits := d.pwr.waits.filter (· ≠ MWait.unloadProgram e.1) } }).mgmtDone 0x0402 0 []
    else d) d

/-- A tenon-table entry frees: its pin, program reference and submit credit go with it (R32). -/
def Dev.freeTenon (d : Dev) (t : Nat) : Dev :=
  match mget d.atn.table t with
  | none => d
  | some e =>
    -- a report of it that is still to come is discarded (R26)
    let d := { d with atn := { d.atn with table := mdel d.atn.table t, reports := d.atn.reports.filter (fun r => decide (r.tidx ≠ t)) } }
    let d := d.bump (rk 0x01200200 0) 64 1
    -- shares that its walk held (R142)
    let held := e.pages.filterMap WPage.share
    let d := { d with pgm := { d.pgm with shares := held.foldl (fun m i => mmod m i (fun x => { x with holds := x.holds - 1 })) d.pgm.shares } }
    let d := held.foldl Dev.freeShared d
    let d := match e.pin with
      | none => d
      | some v => d.unpin e.slot v
    let d := d.drainProgs
    match e.src with
    | .qp n => (d.giveBack n 0 1).escapement
    | _ => d

/-- What the departure of a packet, or its discard, ends (R32, R287, R315, R420). -/
def Dev.departed (d : Dev) : PktTag → Dev
  | .none => d
  | .record t last =>
    if !last then d else
    match mget d.atn.table t with
    | none => d
    | some e =>
      let (st, info) := e.result.getD (.ok, 0)
      let d := match e.src with
        | .host f sq tag _ => d.hostAnswer f sq tag 0 (stCode st) info []
        | _ => d
      d.freeTenon t
  | .host f sq tag k st info => d.hostAnswer f sq tag k st info []

/-- Notes that a record of a tenon was handed to the link layer (R25, R48). -/
def Dev.sentOne (d : Dev) : PktTag → Dev
  | .record t _ => { d with atn := { d.atn with table := mmod d.atn.table t (fun e => { e with sent := e.sent + 1 }) } }
  | _ => d

end Sys2Proof.Machine
end

