-- ==== Sys2Proof/Machine/Transport.lean ====
section
/-! DEFINITION. Transport ingress (chapter 10): the checks of Table 10.6, messages and their order (R272), the context cache
and the parking buffer (R266 to R269), CREDIT and RESYNC, and what the node does with the query buffer's bytes. -/

namespace Sys2Proof.Machine

/-! ### Header fields (Table 10.4) -/

def hOp (h : W512) : Nat := wf h 0 4
def hSubk (h : W512) : Nat := wf h 4 4
def hEnc (h : W512) : Bool := decide (wf h 12 1 = 1)
def hSrc (h : W512) : Nat := wf h 16 16
def hDst (h : W512) : Nat := wf h 32 16
def hDqp (h : W512) : Nat := wf h 64 20
def hSqp (h : W512) : Nat := wf h 84 20
def hTen (h : W512) : Nat := wf h 104 12
def hKeygen (h : W512) : Nat := wf h 128 16
def hFence (h : W512) : Nat := wf h 160 32
def hMsn (h : W512) : Nat := wf h 192 24
def hPlen (h : W512) : Nat := wf h 216 13
def hAkidx (h : W512) : Nat := wf h 232 24
def hAktag (h : W512) : Nat := wf h 256 16
def hMlen (h : W512) : Nat := wf h 288 32
def hMoff (h : W512) : Nat := wf h 320 32
def hAddr (h : W512) : Nat := wf h 352 64
def hImm (h : W512) : Nat := wf h 416 32
def hPcrc (h : W512) : Nat := wf h 448 32

/-- CREDIT and CONTROL hold no credit and have no message (Table 10.5). -/
def hCtl (h : W512) : Bool := decide (hOp h = 8 ∨ hOp h = 9)

/-! ### The query buffer (R36 to R38) -/

/-- The first byte and the size of a partition's share (Table 2.14). -/
def Dev.shareBase (d : Dev) (p : Nat) : Nat := 4096 * d.reg (rk (0x00200040 + 4 * p) 0)
def Dev.shareSize (d : Dev) (p : Nat) : Nat := 4096 * d.reg (rk (0x00200040 + 4 * p) 16)

/-- Tags granules from one to another (R38). -/
def tagGranules (ten gen : Nat) : (n g : Nat) → NMap (Nat × Nat) → NMap (Nat × Nat)
  | 0, _, m => m
  | n + 1, g, m => tagGranules ten gen n (g + 1) (mset m g (ten, gen))

/-- Bytes placed in the query buffer, their granules tagged with tenant and generation (R38). -/
def QBuf.place (q : QBuf) (a ten gen : Nat) (bs : Bytes) : QBuf :=
  if bs.isEmpty then q else
  { mem := memWrite sramByte q.mem a bs, tags := tagGranules ten gen ((a + bs.length - 1) / 64 - a / 64 + 1) (a / 64) q.tags }

/-- Bytes of the query buffer. -/
def QBuf.read (q : QBuf) (a n : Nat) : Bytes := memRead sramByte q.mem a n

/-- Whether every granule of a range carries the tenant's current tag (R38). -/
def QBuf.owned (q : QBuf) (a n ten gen : Nat) : Bool :=
  decide (n = 0) || (List.range ((a + n - 1) / 64 - a / 64 + 1)).all (fun i => decide (mget q.tags (a / 64 + i) = some (ten, gen)))

/-! ### QP contexts in the host table (Table 10.7, R341) -/

/-- Five-bit path entries. -/
def pathBits : List Nat → Nat
  | [] => 0
  | p :: r => p % 32 + 32 * pathBits r

/-- The context bits [943:0] of a QP. -/
def qpBits (q : Qp) : Nat :=
  pack [(0, 2, q.state), (2, 3, q.type), (5, 1, b2n q.enc), (8, 8, q.errc), (16, 12, q.ten), (28, 4, q.part), (32, 16, q.remote),
    (48, 20, q.rqpn), (68, 4, q.txclass), (72, 3, q.pmaxc), (80, 80, pathBits q.paths), (160, 16, q.pmask), (176, 8, q.cwin),
    (184, 8, q.swin), (192, 64, q.rbase), (256, 24, q.rakidx), (280, 16, q.raktag), (296, 16, q.cq), (320, 24, q.exp),
    (344, 24, q.txmsn), (368, 32, q.rxcl), (400, 32, q.rxret), (432, 32, q.txcl), (464, 32, q.txused), (496, 32, q.rxsl),
    (528, 32, q.rxsret), (560, 32, q.txsl), (592, 32, q.txsused), (624, 12, q.ckey), (640, 32, q.salt.toNat), (672, 64, q.txseq),
    (736, 64, q.rxseq), (800, 128, q.rxwin), (928, 16, q.ridge)]

/-- A QP whose context fields are those of stored bits. -/
def qpOfBits (b : Nat) (q : Qp) : Qp :=
  { q with state := fld b 0 2, type := fld b 2 3, enc := decide (fld b 5 1 = 1), errc := fld b 8 8, ten := fld b 16 12,
           part := fld b 28 4, remote := fld b 32 16, rqpn := fld b 48 20, txclass := fld b 68 4, pmaxc := fld b 72 3,
           paths := (List.range 16).map (fun i => fld b (80 + 5 * i) 5), pmask := fld b 160 16, cwin := fld b 176 8,
           swin := fld b 184 8, rbase := fld b 192 64, rakidx := fld b 256 24, raktag := fld b 280 16, cq := fld b 296 16,
           exp := fld b 320 24, txmsn := fld b 344 24, rxcl := fld b 368 32, rxret := fld b 400 32, txcl := fld b 432 32,
           txused := fld b 464 32, rxsl := fld b 496 32, rxsret := fld b 528 32, txsl := fld b 560 32, txsused := fld b 592 32,
           ckey := fld b 624 12, salt := BitVec.ofNat 32 (fld b 640 32), txseq := fld b 672 64, rxseq := fld b 736 64,
           rxwin := fld b 800 128, ridge := fld b 928 16 }

/-! ### The ingress checks (Table 10.6) -/

/-- An endpoint number is well formed: a node's has bits [14:12] 0 (R258). -/
def epOk (e : Nat) : Bool := decide (2 ^ 15 ≤ e ∨ e < 2 ^ 12)

/-- The rules of Table 10.5 on a READ's payload: RLEN 1 to 1 MiB, bits [127:96] 0. -/
def readOk (pay : Bytes) : Bool := decide (1 ≤ leAt pay 8 4 ∧ leAt pay 8 4 ≤ 2 ^ 20 ∧ leAt pay 12 4 = 0)

/-- The bytes of a READ's payload once a packet joins what arrived before, when they are all there. -/
def wholeRead (q : Qp) (h : W512) (pay : Bytes) : Option Bytes :=
  if hOp h ≠ 2 then none else
  let old := match q.msgs.find? (fun m => decide (m.msn = hMsn h ∧ wf m.hdr 0 4 = 2)) with
    | none => []
    | some m => m.data
  let bs := ((old ++ [(hMoff h, pay)]).mergeSort (fun a b => decide (a.1 ≤ b.1))).flatMap Prod.snd
  if bs.length = 16 then some bs else none

/-- Whether a READ keeps the rules of Table 10.5 once a packet joins it. -/
def readFits (q : Qp) (h : W512) (pay : Bytes) : Bool := ((wholeRead q h pay).map readOk).getD true

/-- Check 1. A READ's payload is examined here when it is carried whole and in clear, else when its last bytes have arrived (log entry 17,
DEDUCED). -/
def chk1 (d : Dev) (p : InPkt) : Bool :=
  let h := p.hdr
  let op := hOp h
  decide (crc32c (leBytes 60 (h.toNat % 2 ^ 480)) = wf h 480 32) &&
  decide (wf h 13 3 = 0 ∧ wf h 52 12 = 0 ∧ wf h 116 12 = 0 ∧ wf h 144 16 = 0 ∧ wf h 229 3 = 0 ∧ wf h 272 16 = 0) &&
  decide (op < 10 ∧ hSubk h ≤ (if op = 4 then 1 else if op = 6 then 5 else 0)) &&
  epOk (hSrc h) && decide (hDst h = d.pwr.node) &&
  decide (hPlen h ≤ 4096 ∧ hMoff h + hPlen h ≤ hMlen h) &&
  decide ((op ≠ 2 ∨ hMlen h = 16) ∧ (op ≠ 4 ∨ (hMlen h = 24 ∧ hAddr h % 8 = hMoff h % 8)) ∧ (op ≠ 5 ∨ hMlen h = 8)) &&
  decide (op = 1 ∨ op = 7 ∨ hImm h = 0) &&
  (decide (op ≠ 2) || hEnc h || decide (hPlen h ≠ 16) || readOk p.payload)

/-- The OPs and SUBMIT sub-kinds that a QP TYPE receives (Table 10.20). -/
def typeTakes (type op subk : Nat) : Bool :=
  match type with
  | 0 => decide (op = 0 ∨ op = 1 ∨ op = 2 ∨ op = 4 ∨ (op = 6 ∧ subk ≤ 3) ∨ op = 8 ∨ op = 9)
  | 1 => decide ((op = 6 ∧ 3 ≤ subk ∧ subk ≤ 5) ∨ op = 7 ∨ op = 8 ∨ op = 9)
  | 2 => decide (op = 7 ∨ op = 8 ∨ op = 9)
  | _ => false

/-- Whether a message of the QP with an MSN is open. -/
def Qp.msg (q : Qp) (msn : Nat) : Option Msg := q.msgs.find? (fun m => decide (m.msn = msn))

/-- Check 2. A QP that is being destroyed takes no new message (Table 10.9). -/
def chk2 (q : Qp) (h : W512) : Bool :=
  decide (q.state = 1 ∧ hSrc h = q.remote ∧ hSqp h = q.rqpn) && typeTakes q.type (hOp h) (hSubk h) &&
  (!q.destroying || hCtl h || (q.msg (hMsn h)).isSome)

/-- Whether a GCM sequence number was seen: bit i of RXWIN stands for RXSEQ − i (R281, log entry 18, DEDUCED). -/
def winSeen (q : Qp) (s : Nat) : Bool := decide (s ≤ q.rxseq) && decide (fld q.rxwin (q.rxseq - s) 1 = 1)

/-- RXSEQ and RXWIN after a sequence number is taken. -/
def winTake (q : Qp) (s : Nat) : Qp :=
  if q.rxseq < s then { q with rxseq := s, rxwin := (q.rxwin <<< (s - q.rxseq) ||| 1) % 2 ^ 128 }
  else { q with rxwin := q.rxwin ||| 1 <<< (q.rxseq - s) }

/-- Check 3 (R280, R281): the plaintext, and the QP with its replay window moved; none where the check fails. -/
def chk3 (d : Dev) (q : Qp) (p : InPkt) : Option (Bytes × Qp) :=
  if hEnc p.hdr ≠ (q.enc && !hCtl p.hdr) then none else
  if !hEnc p.hdr then some (p.payload, q) else
  let n := p.payload.length
  if n < 24 then none else
  let s := leAt p.payload 0 8
  if s + 128 ≤ q.rxseq ∨ winSeen q s then none else
  (gcmDecrypt (rxKey d q) (leBytes 4 q.salt.toNat ++ p.payload.take 8) (leBytes 60 (p.hdr.toNat % 2 ^ 448))
    ((p.payload.drop 8).take (n - 24)) (p.payload.drop (n - 16))).map (fun pt => (pt, winTake q s))

/-- Check 4, with the payload's length (R261). -/
def chk4 (p : InPkt) : Bool :=
  decide (p.payload.length = hPlen p.hdr + (if hEnc p.hdr then 24 else 0) ∧ crc32c p.payload = hPcrc p.hdr)

/-- Whether packets of a message wait for a free message. -/
def Dev.openHeld (d : Dev) (h : W512) : Bool := d.trn.openWait.any (fun w => decide (hDqp w.2.hdr = hDqp h ∧ hMsn w.2.hdr = hMsn h))

/-- Whether a packet opens its message: none of its MSN is open, and none waits for a key or for room. -/
def Dev.opens (d : Dev) (q : Qp) (h : W512) : Bool :=
  (q.msg (hMsn h)).isNone &&
  !d.trn.keyWait.any (fun w => decide (hDqp w.2.2.hdr = hDqp h ∧ hMsn w.2.2.hdr = hMsn h)) &&
  !d.openHeld h

/-- Whether an opening packet takes a submit credit (R275). -/
def takesSub (q : Qp) (h : W512) : Bool := decide (hOp h = 6 ∨ (hOp h = 7 ∧ q.type = 2))

/-- Packet credit outstanding to the remote. -/
def pktOut (q : Qp) : Nat := (q.rxcl + 2 ^ 32 - q.rxret) % 2 ^ 32
def subOut (q : Qp) : Nat := (q.rxsl + 2 ^ 32 - q.rxsret) % 2 ^ 32

/-- Whether ranges (offset, length) overlap. -/
def overlaps (a n : Nat) (r : Nat × Nat) : Bool := decide (a < r.1 + r.2 ∧ r.1 < a + n)

/-- The packet agrees with its message: OP, MLEN, ADDR − MOFF where the OP has memory, no overlap (R259). -/
def fitsMsg (m : Msg) (h : W512) : Bool :=
  decide (hOp m.hdr = hOp h ∧ hSubk m.hdr = hSubk h ∧ hMlen m.hdr = hMlen h) &&
  (decide (hOp h = 6) || decide ((hAddr m.hdr + 2 ^ 64 - hMoff m.hdr) % 2 ^ 64 = (hAddr h + 2 ^ 64 - hMoff h) % 2 ^ 64)) &&
  !m.ranges.any (overlaps (hMoff h) (hPlen h))

/-- Check 5 (R272, R275, R259). -/
def chk5 (d : Dev) (q : Qp) (h : W512) : Bool :=
  decide (q.pktTaken < pktOut q) &&
  (!(d.opens q h && takesSub q h) || decide (q.subTaken < subOut q)) &&
  decide ((hMsn h + 2 ^ 24 - q.exp) % 2 ^ 24 < 64) &&
  (match q.msg (hMsn h) with
   | none => true
   | some m => fitsMsg m h)

/-- The first byte and the length whose bounds a KIND 0 or 2 key checks: RLEN bytes for a READ, 8 for an ATOMIC, PLEN otherwise. A READ or
an ATOMIC spread over packets names its region by ADDR − MOFF; a READ's RLEN is checked with the packet that completes it, and is taken as
its least value 1 before (log entry 117, DEDUCED). -/
def spanOf (q : Qp) (h : W512) (pay : Bytes) : Nat × Nat :=
  let first := (hAddr h + 2 ^ 64 - hMoff h) % 2 ^ 64
  if hOp h = 2 then (first, match wholeRead q h pay with
    | none => 1
    | some bs => leAt bs 8 4)
  else if hOp h = 4 then (first, 8) else (hAddr h, hPlen h)

/-- The KIND of key and the right that an OP needs on a QP type (Table 10.8). -/
def keyNeed (type op : Nat) : Nat × Nat :=
  match type, op with
  | 1, 6 => (3, 3)
  | 1, _ => (3, 1)
  | 2, _ => (2, 1)
  | _, 6 => (1, 3)
  | _, 2 => (0, 0)
  | _, 4 => (0, 2)
  | _, _ => (0, 1)

/-- Check 6 with the entry read; none is an entry that is not VALID. -/
def chk6 (q : Qp) (h : W512) (pay : Bytes) : Option AKey → Bool
  | none => false
  | some k =>
    let need := keyNeed q.type (hOp h)
    decide (k.tag = hAktag h ∧ k.kind = need.1 ∧ fld k.rights need.2 1 = 1 ∧ k.ten = q.ten ∧ k.part = q.part) &&
    (decide (q.type = 1) || decide (k.ten = hTen h)) &&
    (!k.qpb || decide (k.qpn = hDqp h)) &&
    (if hOp h = 6 then decide (hAddr h = 0) else
      decide (k.kind = 3) || decide (k.base ≤ (spanOf q h pay).1 ∧ (spanOf q h pay).1 + (spanOf q h pay).2 ≤ k.limit))

/-- Whether a node number is in the fenced map. -/
def Dev.fencedNode (d : Dev) (e : Nat) : Bool := decide (e < 2 ^ 15) && d.trn.map.contains e

/-- Check 7. -/
def chk7 (d : Dev) (h : W512) : Bool := !d.trn.fenced && !d.fencedNode (hSrc h) && decide (d.trn.epoch ≤ hFence h)

/-- Check 8; not made on a peer QP, nor of CREDIT and CONTROL. -/
def chk8 (d : Dev) (q : Qp) (h : W512) : Bool := decide (q.type = 1) || d.keyOk (hTen h) (hKeygen h)

/-! ### A packet that fails (R261) -/

/-- Counts a discarded packet by its cause and latches it (Table 10.19). -/
def Dev.dropPkt (d : Dev) (cause : Nat) (h : W512) : Dev :=
  let key := match cause with
    | 1 => rk 0x00E00048 0
    | 2 => rk 0x00E00048 32
    | 3 => rk 0x00E00050 0
    | 4 => rk 0x00E00050 32
    | 6 => rk 0x00E00058 32
    | 7 => rk 0x00E00060 0
    | 8 => rk 0x00E00060 32
    | _ => rk 0x00E00058 0
  (d.bump key 32 1).setRegs [(rk 0x00E00068 0, cause), (rk 0x00E00068 4, hOp h), (rk 0x00E00068 8, hSrc h),
    (rk 0x00E00068 24, hDqp h), (rk 0x00E00068 44, hTen h)]

/-- Returns the packet credit of a packet that failed before check 5, where one is outstanding that the sender could have
used: it came from the QP's remote (log entry 19, DEDUCED). On a context that is not cached the return is kept for when it is. -/
def Dev.dropCredit (d : Dev) (h : W512) : Dev :=
  match mget d.trn.qps (hDqp h) with
  | none => d
  | some q =>
    if q.state ≠ 0 ∧ hSrc h = q.remote ∧ hSqp h = q.rqpn ∧ !hCtl h ∧ q.pktTaken < pktOut q then
      (({ d with trn := { d.trn with clock := d.trn.clock + 1 } }).setQp (hDqp h)
        { q with rxret := (q.rxret + 1) % 2 ^ 32, changed := q.changed || !q.cached, retAt := if q.retAt = 0 then d.trn.clock + 1 else q.retAt }).escapement
    else d

/-- The credits of a packet that failed after check 5 took them. -/
def Dev.undoTake (d : Dev) (h : W512) (sub : Bool) : Dev := (d.giveBack (hDqp h) 1 (b2n sub)).escapement

/-- DECLINE of a placement message that check 7 stopped, on the QP it arrived on (R263); it travels in class 2 (Table 11.1). -/
def Dev.decline (d : Dev) (qpn body : Nat) (st : St) : Dev :=
  match mget d.trn.qps qpn with
  | none => d
  | some _ =>
    let id := pbRun body
    d.sendMsg qpn ⟨6, 4, 2, id.ten, d.gen id.ten, 0, 0,
      leBytes 32 (mkBody 5 id (pbPart body) (pbEpoch body) (d.gen id.ten) d.pwr.node (stCode st) 0), .none⟩

/-- The three placement kinds that are never answered: DECLINE, CLAIMED and MIRROR_ACK (R191). -/
def pbSilent (body : Nat) : Bool := decide (pbKind body = 5 ∨ pbKind body = 3 ∨ pbKind body = 8)

/-- A completion record of a pool request: on a peer QP it carries the request's tenant, and its address is the offset (Table 10.20). -/
def Dev.sendPool (d : Dev) (qpn ten addr imm : Nat) (bs : Bytes) : Dev :=
  if (mget d.trn.qps qpn).map Qp.type = some 1 then d.sendMsg qpn ⟨7, 0, 2, ten, d.gen ten, addr, imm, bs, .none⟩
  else d.sendPartial qpn addr imm bs .none

/-- The ST_FENCED answer to a SUBMIT that fails check 7 (R263), from its first packet. -/
def Dev.fencedAnswer (d : Dev) (h : W512) (pay : Bytes) : Dev :=
  let qpn := hDqp h
  let w := w512 pay
  if hOp h ≠ 6 ∨ hMoff h ≠ 0 then d else
  match hSubk h with
  | 0 => let t := parseTn w
         d.sendPartial qpn t.roff t.tag (statusRecs t .fenced 0) .none
  | 1 => d.sendPartial qpn (dwRoff w) (dwTag w) (dwRecord w .fenced 0) .none
  | 2 => d.sendPartial qpn (scRoff w) (scTag w) (scRecord w .fenced 0) .none
  | 3 => d.sendPool qpn (plTen w) (plRoff w) (plTag w) (plRecord w .fenced false 0 0)
  | 4 => let b := w.toNat % 2 ^ 256
         if pbSilent b then (if d.trn.fenced then d.bump (rk 0x00E00058 0) 32 1 else d) else d.decline qpn b .fenced
  | _ => d

/-! ### Messages (R259, R272) -/

/-- Bytes of a message that have arrived. -/
def Msg.got (m : Msg) : Nat := sumN (m.ranges.map Prod.snd)
/-- All bytes placed or assembled. -/
def Msg.complete (m : Msg) : Bool := decide (m.got = hMlen m.hdr) && m.pkts.isEmpty

/-- Distance of an MSN from EXP. -/
def Qp.dist (q : Qp) (msn : Nat) : Nat := (msn + 2 ^ 24 - q.exp) % 2 ^ 24

/-- Every earlier message of the QP is complete. -/
def Qp.prior (q : Qp) (msn : Nat) : Bool :=
  (List.range (min 64 (q.dist msn))).all (fun i => q.msgs.any (fun m => decide (m.msn = (q.exp + i) % 2 ^ 24) && m.complete))

/-- Inserts a message in MSN order. -/
def insMsg (q : Qp) (m : Msg) : List Msg → List Msg
  | [] => [m]
  | x :: r => if q.dist m.msn < q.dist x.msn then m :: x :: r else x :: insMsg q m r

/-- The payload of an assembled message, by MOFF. -/
def Msg.payload (m : Msg) : Bytes := (m.data.mergeSort (fun a b => decide (a.1 ≤ b.1))).flatMap Prod.snd

/-- An accepted packet joins its message: writes wait to be placed, every other OP is assembled. -/
def joinMsg (p : InPkt) (pay : Bytes) (m : Msg) : Msg :=
  let m := { m with ranges := m.ranges ++ [(hMoff p.hdr, hPlen p.hdr)] }
  if hOp p.hdr ≤ 1 then { m with pkts := m.pkts ++ [{ p with payload := pay }] } else { m with data := m.data ++ [(hMoff p.hdr, pay)] }

/-- Open messages of the node (R272). -/
def Dev.openMsgs (d : Dev) : Nat := sumN (d.trn.qps.map (fun e => e.2.msgs.length))

/-- Counts a completed receive message (R283). -/
def Dev.rxMsg (d : Dev) (b : Bool) : Dev := d.bump (rk 0x00E00028 0) 64 (b2n b)

/-- WRITE_IMM messages whose turn has come: marked, and their completions. -/
def takeImms (qpn : Nat) (q : Qp) : List Msg → List Msg × List ImmWait
  | [] => ([], [])
  | m :: r =>
    let (ms, ws) := takeImms qpn q r
    if hOp m.hdr = 1 ∧ !m.done ∧ m.complete ∧ q.prior m.msn then
      ({ m with done := true } :: ms, ⟨q.cq, qpn, hImm m.hdr, hMlen m.hdr, hSrc m.hdr⟩ :: ws)
    else (m :: ms, ws)

/-- WRITE_IMM completions of a QP whose message and every earlier one are complete join their queue (R272). -/
def Dev.postImms (d : Dev) (qpn : Nat) : Dev :=
  match mget d.trn.qps qpn with
  | none => d
  | some q =>
    let (ms, ws) := takeImms qpn q q.msgs
    ({ d with trn := { d.trn with immWait := d.trn.immWait ++ ws } }).setQp qpn { q with msgs := ms }

/-- A packet that passed every check is recorded, or waits while no message can be opened; one that completes its message may complete what
a WRITE_IMM waits for. An empty packet of a message whose bytes are all there leaves ingress at once (R275). `sub`: it took its message's
submit credit. -/
def Dev.takePkt (d : Dev) (p : InPkt) (pay : Bytes) (sub : Bool) : Dev :=
  let h := p.hdr
  match mget d.trn.qps (hDqp h) with
  | none => d
  | some q =>
    if hCtl h then d.setQp (hDqp h) { q with ctl := q.ctl ++ [{ p with payload := pay }] } else
    match q.msg (hMsn h) with
    | some m =>
      if m.got = hMlen m.hdr then d.undoTake h sub else
      let m' := joinMsg p pay m
      ((d.setQp (hDqp h) { q with msgs := updFirst (fun x => decide (x.msn = m.msn)) (fun _ => m') q.msgs }).rxMsg m'.complete).postImms (hDqp h)
    | none =>
      if 32768 ≤ d.openMsgs || d.openHeld h then
        { d with trn := { d.trn with openWait := d.trn.openWait ++ [(sub, { p with payload := pay })] } }
      else
        let m' := joinMsg p pay ⟨hMsn h, h, [], [], [], false, false⟩
        ((d.setQp (hDqp h) { q with msgs := insMsg q m' q.msgs }).rxMsg m'.complete).postImms (hDqp h)

/-- Checks 6 to 8 of a packet that passed check 5 and whose entry is at hand, and its record. `sub`: it took a submit credit. -/
def Dev.lateChecks (d : Dev) (q : Qp) (p : InPkt) (pay : Bytes) (sub : Bool) (key : Option AKey) : Dev :=
  let h := p.hdr
  if !chk6 q h pay key then (d.dropPkt 6 h).undoTake h sub else
  if !chk7 d h then ((d.dropPkt 7 h).undoTake h sub).fencedAnswer h pay else
  let d := d.bump (rk 0x00E00008 48) 16 (b2n (decide (d.trn.epoch < hFence h)))
  if !chk8 d q h then (d.dropPkt 8 h).undoTake h sub else
  d.takePkt p pay sub

/-- Checks 2 to 8 of a packet whose QP context is cached (R261). -/
def Dev.runChecks (d : Dev) (p : InPkt) : Dev :=
  let h := p.hdr
  match mget d.trn.qps (hDqp h) with
  | none => d.dropPkt 2 h
  | some q =>
    if !chk2 q h then (d.dropPkt 2 h).dropCredit h else
    match chk3 d q p with
    | none => (d.dropPkt 3 h).dropCredit h
    | some (pay, q) =>
      let q := { q with used := d.trn.clock + 1 }
      let d := ({ d with trn := { d.trn with clock := d.trn.clock + 1 } }).setQp (hDqp h) q
      if !chk4 p then (d.dropPkt 4 h).dropCredit h else
      if hCtl h then
        (if !chk7 d h then d.dropPkt 7 h else
          (d.bump (rk 0x00E00008 48) 16 (b2n (decide (d.trn.epoch < hFence h)))).takePkt p pay false)
      else
      if !readFits q h pay then (d.dropPkt 1 h).dropCredit h else
      if !chk5 d q h then ((d.dropPkt 10 h).dropCredit h).qpError (hDqp h) 10 else
      let sub := d.opens q h && takesSub q h
      let q := { q with pktTaken := q.pktTaken + 1, subTaken := q.subTaken + b2n sub }
      let d := d.setQp (hDqp h) q
      match mget d.trn.keys (hAkidx h) with
      | some k =>
        if k.cached then d.lateChecks q p pay sub (some k)
        else { d with trn := { d.trn with keyWait := d.trn.keyWait ++ [(hAkidx h, sub, { p with payload := pay })] } }
      | none =>
        -- an index outside the table has no entry to read (R270)
        if 2 ^ d.reg (rk 0x00E00000 16) ≤ hAkidx h then d.lateChecks q p pay sub none
        else { d with trn := { d.trn with keyWait := d.trn.keyWait ++ [(hAkidx h, sub, { p with payload := pay })] } }

/-- Whether the parking buffer takes a packet of an uncached QP: a reserved or free entry of the 1,984, or for a CREDIT or CONTROL packet one
of the 64 (R268, R269). -/
def Dev.parkRoom (d : Dev) (q : Qp) (h : W512) : Bool :=
  if hCtl h then decide (d.parkCtl < 64) else decide (0 < q.reserved ∨ 0 < d.parkFree)

/-- A packet at ingress (R261, R267): checked at once when the context is cached, else parked. Log entry 60, DEDUCED. -/
def arrive (p : InPkt) (d : Dev) : Dev :=
  if !chk1 d p then
    -- a header whose HCRC holds names its QP
    (let d' := d.dropPkt 1 p.hdr
     if crc32c (leBytes 60 (p.hdr.toNat % 2 ^ 480)) = wf p.hdr 480 32 ∧ hDst p.hdr = d.pwr.node then d'.dropCredit p.hdr else d') else
  match mget d.trn.qps (hDqp p.hdr) with
  | none => d.dropPkt 2 p.hdr
  | some q =>
    if q.cached then d.runChecks p else
    let q := if hCtl p.hdr then q else { q with reserved := q.reserved - 1 }
    let d := d.setQp (hDqp p.hdr) q
    ({ d with trn := { d.trn with parked := d.trn.parked ++ [(hDqp p.hdr, p)] } }).fetchQp (hDqp p.hdr) q

/-- Whether a packet must wait in its ingress slot: its QP's context is not cached and parking has no entry for it, or its partition's reset runs
(R369). -/
def Dev.ingressHeld (d : Dev) (p : InPkt) : Bool :=
  chk1 d p && (match mget d.trn.qps (hDqp p.hdr) with
    | none => false
    | some q => d.partHeld q.part || (!q.cached && !d.parkRoom q p.hdr))

/-- PACKET_INGRESS (R261): the oldest packet that a link's flits made whole, which the command carries, leaves its slot for the checks; a
command that carries another packet changes nothing (log entry 14, DESIGN CHOICE). -/
def ingressStep (n : Nat) (p : W512 × Bytes) (d : Dev) : Dev :=
  match mget d.links n with
  | none => d
  | some l => match l.rxpkts with
    | [] => d
    | (h, pay) :: r =>
      if (h, pay) ≠ p ∨ d.ingressHeld ⟨n, h, pay⟩ then d else
      arrive ⟨n, h, pay⟩ { d with links := mset d.links n { l with rxpkts := r } }

/-- ACCESS_KEY_FETCH_DONE (R270): the entry is cached, in place of the lowest cached index when 65,536 are (log entry 20, DESIGN CHOICE),
and the packets held for it continue check 6. -/
def Dev.cacheKey (d : Dev) (idx : Nat) : Dev :=
  match mget d.trn.keys idx with
  | none => d
  | some k =>
    let cached := d.trn.keys.filter (fun e => e.2.cached)
    let keys := if k.cached ∨ cached.length < 65536 then d.trn.keys else mmod d.trn.keys ((cached.map Prod.fst).headD 0) (fun x => { x with cached := false })
    { d with trn := { d.trn with keys := mset keys idx { k with cached := true } } }

/-- A held packet goes on at check 6; its range, and a READ's payload, are looked at again, since another packet of the message may have
been recorded meanwhile. -/
def Dev.resumeKey (d : Dev) (w : Nat × Bool × InPkt) : Dev :=
  let h := w.2.2.hdr
  match mget d.trn.qps (hDqp h) with
  | none => d
  | some q =>
    if (match q.msg (hMsn h) with
        | none => false
        | some m => !fitsMsg m h) then ((d.dropPkt 10 h).undoTake h w.2.1).qpError (hDqp h) 10
    else if !readFits q h w.2.2.payload then (d.dropPkt 1 h).undoTake h w.2.1
    else d.lateChecks q w.2.2 w.2.2.payload w.2.1 (mget d.trn.keys w.1)

def keyFetchStep (idx : Nat) (d : Dev) : Dev :=
  let (go, stay) := d.trn.keyWait.partition (fun w => decide (w.1 = idx))
  if go.isEmpty then d else
  go.foldl Dev.resumeKey (({ d with trn := { d.trn with keyWait := stay } }).cacheKey idx)

/-! ### Advancing EXP (R272) -/

/-- Messages that have been acted on, from the head: EXP after them and what remains. -/
def popDone : (fuel : Nat) → Nat → List Msg → Nat × List Msg
  | 0, e, l => (e, l)
  | _ + 1, e, [] => (e, [])
  | n + 1, e, m :: r => if m.msn = e ∧ m.done then popDone n ((e + 1) % 2 ^ 24) r else (e, m :: r)

/-- A packet that waited for a free message is recorded now; its range is looked at again, since a packet of its message may have been
recorded meanwhile, and with the packet that completes a READ its form and its bounds are (log entry 117, DEDUCED). -/
def Dev.reopen (d : Dev) (w : Bool × InPkt) : Dev :=
  let p := w.2
  let h := p.hdr
  match mget d.trn.qps (hDqp h) with
  | none => d
  | some q =>
    if (match q.msg (hMsn h) with
        | none => false
        | some m => !fitsMsg m h) then ((d.dropPkt 10 h).undoTake h w.1).qpError (hDqp h) 10
    else if !readFits q h p.payload then (d.dropPkt 1 h).undoTake h w.1
    else if (wholeRead q h p.payload).isSome && !chk6 q h p.payload (mget d.trn.keys (hAkidx h)) then (d.dropPkt 6 h).undoTake h w.1
    else d.takePkt p p.payload w.1

/-- Packets that waited for a free message are recorded now. -/
def Dev.retryOpen (d : Dev) : Dev :=
  let ws := d.trn.openWait
  ws.foldl Dev.reopen { d with trn := { d.trn with openWait := [] } }

/-- WRITE_IMM completions join their queue, and EXP advances over every message acted on. -/
def Dev.advExp (d : Dev) (qpn : Nat) : Dev :=
  let d := d.postImms qpn
  match mget d.trn.qps qpn with
  | none => d
  | some q =>
    let (e, ms) := popDone 64 q.exp q.msgs
    (d.setQp qpn { q with exp := e, msgs := ms }).retryOpen

/-- Credits returned, and the escapement run. -/
def Dev.settleCredit (d : Dev) (qpn npkt nsub : Nat) : Dev := ((d.advExp qpn).giveBack qpn npkt nsub).escapement

/-- Changes the message of an MSN. -/
def Dev.modMsg (d : Dev) (qpn msn : Nat) (f : Msg → Msg) : Dev :=
  match mget d.trn.qps qpn with
  | none => d
  | some q => d.setQp qpn { q with msgs := updFirst (fun m => decide (m.msn = msn)) f q.msgs }

/-- The message that a row names, when the OP is its own. -/
def Dev.theMsg (d : Dev) (qpn msn op : Nat) : Option (Qp × Msg) :=
  match mget d.trn.qps qpn with
  | none => none
  | some q => match q.msg msn with
    | none => none
    | some m => if hOp m.hdr = op ∧ !m.done then some (q, m) else none

/-! ### Rows -/

/-- Places packets in the query buffer under the header's tenant and generation. -/
def placePkts (qb : QBuf) (ps : List InPkt) : QBuf :=
  ps.foldl (fun b p => b.place (hAddr p.hdr) (hTen p.hdr) (hKeygen p.hdr) p.payload) qb

/-- WRITE and WRITE_IMM (R272): every packet that passed its checks and waits is placed. The last packet credit of a WRITE_IMM is
kept until its completion is written (R310). Log entry 110, DEDUCED. -/
def writeStep (op qpn msn : Nat) (qb : QBuf) (d : Dev) : QBuf × Dev :=
  match d.theMsg qpn msn op with
  | none => (qb, d)
  | some (_, m) =>
    if m.pkts.isEmpty then (qb, d) else
    let whole := decide (m.got = hMlen m.hdr)
    let d' := (d.modMsg qpn msn (fun m => { m with pkts := [], done := whole && decide (op = 0) })).rxMsg (whole && !m.complete)
    (placePkts qb m.pkts, d'.settleCredit qpn (m.pkts.length - (if whole && decide (op = 1) then 1 else 0)) 0)

/-- The function and the local number of a node-wide CQ (R305, R306). -/
def Dev.cqHome (d : Dev) (cq : Nat) : Option (Nat × Nat) :=
  (List.range 17).findSome? (fun f =>
    let b := d.reg (rk (0x01000100 + 8 * f) 32)
    if b ≤ cq ∧ cq < b + d.reg (rk (0x01000100 + 8 * f) 48) then some (f, cq - b) else none)

/-- WRITE_IMM_COMPLETION (R310): the oldest completion waiting for a CQ is written when an entry is free; one whose CQ is
not created is discarded and counted. -/
def immStep (cq : Nat) (d : Dev) : Dev :=
  match d.trn.immWait.find? (fun w => decide (w.cq = cq)) with
  | none => d
  | some w =>
    let d' := { d with trn := { d.trn with immWait := dropFirst (fun x => decide (x.cq = cq)) d.trn.immWait } }
    let home := match d.cqHome cq with
      | none => none
      | some (f, l) => (mget (d.fn f).cqs l).map (fun c => (f, l, c))
    match home with
    | none => (d'.bump (rk 0x01000010 32) 16 1).settleCredit w.qpn 1 0
    | some (f, l, c) =>
      if c.free = 0 then d else
      (d'.cqWrite f l (cqEntry w.imm 0 1 0 0 (pack [(0, 20, w.qpn), (32, 32, w.mlen)]) (w.src % 2 ^ 16)) false).settleCredit w.qpn 1 0

/-- A complete READ or ATOMIC whose turn has come; a fenced node serves none (R263). -/
def Dev.servable (d : Dev) (qpn msn op : Nat) : Option (Qp × Msg) :=
  match d.theMsg qpn msn op with
  | none => none
  | some (q, m) => if m.complete && q.prior msn && !d.trn.fenced then some (q, m) else none

/-- The address of a message's first byte. -/
def Msg.addr (m : Msg) : Nat := (hAddr m.hdr + 2 ^ 64 - hMoff m.hdr) % 2 ^ 64

/-- READ (R259): RLEN bytes from ADDR return as a READ_RESP message at RBASE + RADDR. -/
def readStep (qpn msn : Nat) (qb : QBuf) (d : Dev) : Dev :=
  match d.servable qpn msn 2 with
  | none => d
  | some (q, m) =>
    let p := m.payload
    let d := d.sendMsg qpn ⟨3, 0, q.txclass, q.ten, d.gen q.ten, q.rbase + leAt p 0 8, 0, qb.read m.addr (leAt p 8 4), .none⟩
    (d.modMsg qpn msn (fun m => { m with done := true })).settleCredit qpn m.data.length 0

/-- The new value of an ATOMIC: fetch-add, or compare-swap. -/
def atomicNew (subk old operand cmp : Nat) : Nat :=
  if subk = 0 then (old + operand) % 2 ^ 64 else if old = cmp then operand else old

/-- ATOMIC (R259): the old value returns as ATOMIC_RESP at RBASE + RADDR. -/
def atomicStep (qpn msn : Nat) (qb : QBuf) (d : Dev) : QBuf × Dev :=
  match d.servable qpn msn 4 with
  | none => (qb, d)
  | some (q, m) =>
    let p := m.payload
    let old := leNat (qb.read m.addr 8)
    let d := d.sendMsg qpn ⟨5, 0, q.txclass, q.ten, d.gen q.ten, q.rbase + leAt p 16 8, 0, leBytes 8 old, .none⟩
    (qb.place m.addr (hTen m.hdr) (hKeygen m.hdr) (leBytes 8 (atomicNew (hSubk m.hdr) old (leAt p 0 8) (leAt p 8 8))),
     (d.modMsg qpn msn (fun m => { m with done := true })).settleCredit qpn m.data.length 0)

/-- A complete SUBMIT as work for its block. A message too short for its sub-kind carries one extra byte, which no
descriptor admits (R260). -/
def mkWork (qpn : Nat) (q : Qp) (m : Msg) : Work :=
  let p := m.payload
  let k := hSubk m.hdr
  let n := if k = 4 then 32 else 64
  ⟨k, .qp qpn, q.part, hKeygen m.hdr, w512 (p.take n), if p.length < n then [0] else p.drop n⟩

/-- Puts work into its block's queue (R275). -/
def Dev.pushWork (d : Dev) (w : Work) : Dev :=
  match w.kind with
  | 0 => { d with atn := { d.atn with queue := d.atn.queue ++ [w] } }
  | 1 => { d with pgm := { d.pgm with queue := d.pgm.queue ++ [w] } }
  | 2 => { d with pgm := { d.pgm with queue := d.pgm.queue ++ [w] } }
  | 4 => { d with plc := { d.plc with queue := d.plc.queue ++ [w] } }
  | _ => { d with shp := { d.shp with queue := d.shp.queue ++ [w] } }

/-- Marks a tenon of the dispatcher's queue whose query was overwritten (R40). -/
def Dev.spoil (d : Dev) (b : Bool) (w : Work) : Dev :=
  if b && decide (w.kind = 0) then { d with atn := { d.atn with spoilt := d.atn.spoilt ++ [w] } } else d

/-- SUBMIT_HAND_ON (R272, R275): the QP's first SUBMIT message not handed on, when it and every earlier message are
complete. Its packet credits return; its submit credit returns at once for every kind but a tenon. -/
def handOnStep (qpn : Nat) (d : Dev) : Dev :=
  match mget d.trn.qps qpn with
  | none => d
  | some q =>
    match q.msgs.find? (fun m => decide (hOp m.hdr = 6) && !m.done) with
    | none => d
    | some m =>
      -- a coded payload leaves ingress for decode staging, when its share has room (R412)
      let w := mkWork qpn q m
      if m.complete && q.prior m.msn && (decide (w.kind ≠ 4) || !codedBody (w.desc.toNat % 2 ^ 256) || d.linkRoom (stageUnits w.extra.length)) then
        ((d.pushWork w).spoil m.spoilt w |>.modMsg qpn m.msn (fun m => { m with done := true })).settleCredit qpn m.data.length
          (b2n (decide (hSubk m.hdr ≠ 0)))
      else d

/-- The first CREDIT or CONTROL packet that waits on a QP, and the QP without it. -/
def takeCtl (q : Qp) (op : Nat) : Option (InPkt × Qp) :=
  (q.ctl.find? (fun p => decide (hOp p.hdr = op))).map (fun p => (p, { q with ctl := dropFirst (fun x => decide (hOp x.hdr = op)) q.ctl }))

/-- A limit raised modulo 2^32, a value that would lower it ignored (R276). -/
def raiseLimit (old new : Nat) : Nat := if (new + 2 ^ 32 - old) % 2 ^ 32 < 2 ^ 31 then new % 2 ^ 32 else old

/-- CREDIT (R276): TXCL and TXSL take CL and SL; EXP moves the window of what may be sent (R272). -/
def creditStep (qpn : Nat) (d : Dev) : Dev :=
  match mget d.trn.qps qpn with
  | none => d
  | some q => match takeCtl q 8 with
    | none => d
    | some (p, q) =>
      let e := leAt p.payload 8 3
      d.setQp qpn { q with txcl := raiseLimit q.txcl (leAt p.payload 0 4), txsl := raiseLimit q.txsl (leAt p.payload 4 4),
                           rexp := if (e + 2 ^ 24 - q.rexp) % 2 ^ 24 < 2 ^ 23 then e else q.rexp }

/-- Whether a message is dropped by RESYNC: incomplete, or complete and not yet handed on (R273). -/
def Msg.lost (m : Msg) : Bool := !m.complete || (!m.done && decide (hOp m.hdr ≠ 0))

/-- Packets of a message whose credit has not been returned. -/
def Msg.heldPkts (m : Msg) : Nat :=
  if m.done then 0 else m.pkts.length + m.data.length + (if hOp m.hdr = 1 && m.complete then 1 else 0)

/-- Packets of a QP that stand before their record, for a key or for a free message, whose MSN passes a test: whether each took its
message's submit credit, and its MSN. -/
def Dev.heldBack (d : Dev) (qpn : Nat) (p : Nat → Bool) : List (Bool × Nat) :=
  (d.trn.keyWait.filter (fun w => decide (hDqp w.2.2.hdr = qpn) && p (hMsn w.2.2.hdr))).map (fun w => (w.2.1, hMsn w.2.2.hdr)) ++
  (d.trn.openWait.filter (fun w => decide (hDqp w.2.hdr = qpn) && p (hMsn w.2.hdr))).map (fun w => (w.1, hMsn w.2.hdr))

/-- RESYNC (R273): EXP takes the MSN named; messages below it that are incomplete are abandoned, those complete and not
handed on are discarded; their credits return, and they are counted. Packets that stand before their record go with their messages. -/
def resyncStep (qpn : Nat) (d : Dev) : Dev :=
  match mget d.trn.qps qpn with
  | none => d
  | some q => match takeCtl q 9 with
    | none => d
    | some (p, q) =>
      let m := leAt p.payload 0 3
      let fwd := (m + 2 ^ 24 - q.exp) % 2 ^ 24
      let below (x : Msg) : Bool := decide (fwd < 2 ^ 23 ∧ q.dist x.msn < fwd)
      let gone := q.msgs.filter below
      let lost := gone.filter Msg.lost
      let low (n : Nat) : Bool := decide (fwd < 2 ^ 23 ∧ q.dist n < fwd)
      let held := d.heldBack qpn low
      let alone := ((held.map Prod.snd).filter (fun n => !gone.any (fun x => decide (x.msn = n)))).eraseDups
      let keep (h : W512) : Bool := !(decide (hDqp h = qpn) && low (hMsn h))
      let d := d.setQp qpn { q with exp := m, msgs := q.msgs.filter (fun x => !below x) }
      let d := { d with trn := { d.trn with keyWait := d.trn.keyWait.filter (fun w => keep w.2.2.hdr), openWait := d.trn.openWait.filter (fun w => keep w.2.hdr) } }
      -- one submit credit for each message, whether its opener was recorded or stands before its record
      let subs := ((lost.filter (fun x => !x.done && takesSub q x.hdr)).map Msg.msn ++ (held.filter Prod.fst).map Prod.snd).eraseDups
      (d.bump (rk 0x00E00038 0) 64 (lost.length + alone.length)).settleCredit qpn (sumN (lost.map Msg.heldPkts) + held.length) subs.length

/-! ### The context cache (R266 to R268) -/

/-- The type of a QP that exists. -/
def Dev.qpType (d : Dev) (n : Nat) : Option Nat := (mget d.trn.qps n).map (·.type)

/-- The return QP that a piece of work names. -/
def workRqp (w : Work) : Nat :=
  match w.kind with
  | 0 => wf w.desc 320 20
  | 1 => dwRqp w.desc
  | 2 => scRqp w.desc
  | _ => plRqp w.desc

/-- Whether work names a QP as its return or onward QP (R268). -/
def Dev.qpNamed (d : Dev) (n : Nat) : Bool :=
  d.atn.table.any (fun e => decide (e.2.tn.rqp = n)) ||
  d.trn.merges.any (fun m => decide ((mget d.trn.ridges m.ridge).map Ridge.onward = some n)) ||
  (d.atn.queue ++ d.pgm.queue ++ d.shp.queue ++ d.pgm.seqs.flatMap (fun e => e.2.edits.map (·.work)) ++
    d.shp.drafts.filterMap (fun e => e.2.pub.map (·.1))).any (fun w => decide (workRqp w = n))

/-- Whether anything of the QP is open, waiting, parked or queued to be sent, or a packet for it stands at ingress (R268, first point). Submit credits that
messages hold are counted as waiting (log entry 21, DEDUCED). -/
def Dev.qpBusy (d : Dev) (n : Nat) (q : Qp) : Bool :=
  !q.msgs.isEmpty || !q.ctl.isEmpty || decide (q.subTaken ≠ 0) ||
  d.trn.parked.any (fun p => decide (p.1 = n)) || d.trn.keyWait.any (fun w => decide (hDqp w.2.2.hdr = n)) ||
  d.trn.openWait.any (fun w => decide (hDqp w.2.hdr = n)) || d.trn.immWait.any (fun w => decide (w.qpn = n)) ||
  d.waitq.any (fun p => decide (hSqp p.hdr = n)) || d.trn.sendWait.any (fun p => decide (p.1 = n)) ||
  d.links.any (fun e => e.2.subqs.any (fun s => s.pkts.any (fun p => decide (hSqp p.hdr = n))))

/-- Whether a context may be evicted (R268, R341). -/
def Dev.evictable (d : Dev) (n : Nat) (q : Qp) : Bool :=
  q.cached && !q.destroying && !d.qpBusy n q && !d.qpNamed n && decide (pktOut q ≤ d.parkFree ∧ q.ecnt < 0xFFFF) && (d.fn 0).qpt.isSome

/-- The order of R268: no outstanding credit first, then least recently used. -/
def evictLt (a b : Nat × Qp) : Bool :=
  let z (q : Qp) : Bool := decide (pktOut q = 0)
  if z a.2 ≠ z b.2 then z a.2 else decide (a.2.used < b.2.used)

/-- The context that the node evicts next. -/
def Dev.evictPick (d : Dev) : Option Nat :=
  ((d.trn.qps.filter (fun e => d.evictable e.1 e.2)).foldl (fun (b : Option (Nat × Qp)) e => match b with
    | none => some e
    | some x => if evictLt e x then some e else some x) none).map Prod.fst

/-- A context written to the host QP table, with parking entries reserved for its credit (R268, R341). -/
def Dev.evict (d : Dev) (n : Nat) : Dev :=
  match mget d.trn.qps n with
  | none => d
  | some q =>
    let q := { q with cached := false, fetching := false, ecnt := q.ecnt + 1, reserved := pktOut q }
    (d.setQp n q).nodeWrite 0 ((d.fn 0).qpt.getD 0 + 128 * n) (qptStore d.sec.nrk n q.ecnt (qpBits q))

/-- A context that could be evicted but for its eviction count, which stands at its largest value: the refusal is journalled (R10,
Table 14.4 TYPE 5; log entry 118, DEDUCED). -/
def Dev.evictWorn (d : Dev) (n : Nat) : Dev :=
  match mget d.trn.qps n with
  | none => d
  | some q =>
    if q.ecnt = 0xFFFF ∧ d.evictable n { q with ecnt := 0 } then
      d.journal { type := 5, sub := 5, engine := 7 * 4096, tenant := q.ten, part := q.part, ctxid := n, ckind := 1 } []
    else d

/-- QP_CONTEXT_EVICT: the context named goes when it is the one the node would evict. -/
def evictStep (n : Nat) (d : Dev) : Dev := if d.evictPick = some n then (d.evict n).escapement else d.evictWorn n

/-- Contexts cached on the die. -/
def Dev.cachedQps (d : Dev) : Nat := (d.trn.qps.filter (fun e => e.2.cached)).length

/-- Room for one more context: one is evicted when 16,384 are cached; none where that cannot be done. -/
def Dev.qpRoom (d : Dev) : Option Dev :=
  if d.cachedQps < 16384 then some d else d.evictPick.map d.evict

/-- Room for a context that comes back with its credit: the ingress slots cover it (R277; log entry 148, DESIGN CHOICE). -/
def Dev.qpFits (d : Dev) (q : Qp) : Option Dev := if 4032 < d.ingress + pktOut q then none else d.qpRoom

/-- No room for a context: where one could be evicted but for its eviction count, the refusal is journalled (R10; log entry 118, DEDUCED). -/
def Dev.noQpRoom (d : Dev) : Dev :=
  if d.cachedQps < 16384 then d else
  match d.trn.qps.find? (fun e => decide (e.2.ecnt = 0xFFFF) && d.evictable e.1 { e.2 with ecnt := 0 }) with
  | none => d
  | some e => d.evictWorn e.1

/-- A context's bits that are reserved, or hold a reserved STATE or TYPE (Table 10.7): no context that the node stored has one set, so an
image that has fails its check (R8, R342). -/
def qpBitsOk (b : Nat) : Bool :=
  decide (fld b 6 2 = 0 ∧ fld b 75 5 = 0 ∧ fld b 312 8 = 0 ∧ fld b 636 4 = 0 ∧ fld b 0 2 ≠ 3 ∧ fld b 2 3 < 3)

/-- Messages that waited for a QP's context are sent; on a QP in error they are discarded, and what they carried ends (R420). -/
def Dev.flushSends (d : Dev) (n : Nat) : Dev :=
  let mine := (d.trn.sendWait.filter (fun p => decide (p.1 = n))).map Prod.snd
  mine.foldl (fun d m => match mget d.trn.qps n with
    | some q =>
      let r := m.1
      if q.state = 1 then d.sendMsg n r
      else if m.2 then
        let (ps, q) := buildMsg d n q r
        (d.setQp n q).enqueue (ps.map (fun p => { p with keep := true }))
      else (d.sendMsg n r).departed (match r.tag with
        | .record t _ => .record t true
        | t => t)
    | none => (d.sendMsg n m.1).departed m.1.tag) { d with trn := { d.trn with sendWait := d.trn.sendWait.filter (fun p => decide (p.1 ≠ n)) } }

/-- Whether a node transfer's read is under way, on a channel that is not halted. -/
def Dev.inFlight (d : Dev) (w : XWhat) : Bool :=
  d.dma.xfers.any (fun x => decide (x.what = w) && x.issued && (match x.chan with
    | none => false
    | some c => d.chRuns c))

/-- A node transfer has ended: its channel is idle and its staging units are free. -/
def Dev.dropXfer (d : Dev) (w : XWhat) : Dev :=
  { d with dma := { d.dma with xfers := d.dma.xfers.filter (fun x => decide (x.what ≠ w)) } }

/-- QP_CONTEXT_FETCH_DONE (R266, R267): a context that fails its check leaves the QP in error with ERRC 12 and its parked
packets are discarded and counted; else it is cached and they run their checks in order of arrival. While no context can
be evicted to make room the fetch stays open. -/
def fetchDoneStep (n : Nat) (image : Bytes) (d : Dev) : Dev :=
  match mget d.trn.qps n with
  | none => d
  | some q =>
    if q.cached ∨ !q.fetching ∨ !d.inFlight (.ctx n) then d else
    match d.qpFits q with
    | none => d.noQpRoom
    | some d =>
      let d := (d.chCount (d.xferChan (.ctx n)) 128).dropXfer (.ctx n)
      let mine := (d.trn.parked.filter (fun p => decide (p.1 = n))).map Prod.snd
      let d := { d with trn := { d.trn with parked := d.trn.parked.filter (fun p => decide (p.1 ≠ n)), clock := d.trn.clock + 1 } }
      let q := { q with cached := true, fetching := false, reserved := 0, used := d.trn.clock }
      match (qptLoad d.sec.nrk n image).filter (fun x => qpBitsOk x.2) with
      | none =>
        let j : JInfo := { code := 0x81, engine := 7 * 4096, tenant := q.ten, part := q.part }
        ((mine.foldl (fun d p => d.dropPkt 12 p.hdr) (d.setQp n { q with state := 2, errc := 12 })).fault j true []).flushSends n
      | some (ecnt, b) =>
        -- changes that commands made meanwhile are applied now
        let q := if q.changed then { q with changed := false } else qpOfBits b q
        (mine.foldl Dev.runChecks ((d.setQp n { q with ecnt := ecnt }).flushSends n)).escapement

end Sys2Proof.Machine
end

