-- ==== Sys2Proof/Machine/Answers.lean ====
section
/-! DEFINITION. How work answers: completion records and refusals (R138, R182, R217, R314, R315), the return-QP check of R420,
and the fault reports of stored data (Table 14.2, R206). -/

namespace Sys2Proof.Machine

/-- A record on a return QP; on a peer QP the address is the offset alone and the tenant is the request's (Table 10.8). -/
def Dev.partialOn (d : Dev) (rqp ten addr imm : Nat) (bs : Bytes) (tag : PktTag) : Dev :=
  match mget d.trn.qps rqp with
  | none => d.bump (rk 0x00E00058 0) 32 1
  | some q =>
    if q.type = 1 then d.sendMsg rqp ⟨7, 0, 2, ten, d.gen ten, addr, imm, bs, tag⟩ else d.sendPartial rqp addr imm bs tag

/-- Whether a QP is ready. -/
def Dev.qpReady (d : Dev) (n : Nat) : Bool := match mget d.trn.qps n with
  | none => false
  | some q => decide (q.state = 1)

/-- Several records on a QP, the last with a tag. -/
def Dev.partials (d : Dev) (rqp ten roff imm : Nat) (tag : PktTag) : List (Nat × Bytes) → Dev
  | [] => d
  | [(o, b)] => d.partialOn rqp ten (roff + o) imm b tag
  | (o, b) :: r => (d.partialOn rqp ten (roff + o) imm b .none).partials rqp ten roff imm tag r

/-- Records that answer a request, each at its offset from ROFF; the last completes it. With HOSTRET 1 they go to the partial
area before the CQ entry; on a return QP in error they are discarded and the work ends (R315, R420). -/
def Dev.answer (d : Dev) (src : Src) (rqp roff imm ten kind st info : Nat) (recs : List (Nat × Bytes)) : Dev :=
  match src with
  | .node => d
  | .qp _ => d.partials rqp ten roff imm .none recs
  | .host f sq tag true => d.hostAnswer f sq tag kind st info (recs.map (fun r => (roff + r.1, r.2)))
  | .host f sq tag false =>
    if d.qpReady rqp then d.partials rqp ten roff imm (.host f sq tag kind st info) recs
    else (d.bump (rk 0x00E00058 0) 32 recs.length).hostAnswer f sq tag kind st info []

/-- The records of an answer as messages that a journal entry holds. -/
def Dev.heldRecs (d : Dev) (rqp ten roff imm : Nat) (tag : PktTag) : List (Nat × Bytes) → List Held
  | [] => []
  | (o, b) :: r =>
    let peer := d.qpType rqp = some 1
    let q := mget d.trn.qps rqp
    let addr := roff + o + (if peer then 0 else (q.map Qp.rbase).getD 0)
    let t := if peer then ten else (q.map Qp.ten).getD ten
    .send rqp ⟨7, 0, 2, t, d.gen t, addr, imm, b, if r.isEmpty then tag else .none⟩ :: d.heldRecs rqp ten roff imm tag r

/-- An answer whose status an event journalled since `d0` caused is held until the entry commits (R378); any other departs. -/
def Dev.answerAfter (d0 d : Dev) (src : Src) (rqp roff imm ten kind st info : Nat) (recs : List (Nat × Bytes)) : Dev :=
  if d.rcv.jq.length ≤ d0.rcv.jq.length then d.answer src rqp roff imm ten kind st info recs else
  match src with
  | .node => d
  | .qp _ => d.hold (d.heldRecs rqp ten roff imm .none recs)
  | .host f sq tag true => d.hold [.hostAnswer f sq tag kind st info (recs.map (fun r => (roff + r.1, r.2)))]
  | .host f sq tag false =>
    if d.qpReady rqp then d.hold (d.heldRecs rqp ten roff imm (.host f sq tag kind st info) recs)
    else (d.bump (rk 0x00E00058 0) 32 recs.length).hold [.hostAnswer f sq tag kind st info []]

/-- Register fields that show an event: held with it when it was journalled since `d0`. -/
def Dev.fieldsAfter (d0 d : Dev) (fs : List (Nat × Nat)) : Dev :=
  if d.rcv.jq.length ≤ d0.rcv.jq.length then d.setRegs fs else d.hold (fs.map (fun f => .field f.1 f.2))

/-- A refusal at admission: a record on the return QP; for an SQ entry its CQ entry and no record (R314). -/
def Dev.refuse (d : Dev) (src : Src) (rqp roff imm ten kind st info : Nat) (recs : List (Nat × Bytes)) : Dev :=
  match src with
  -- DMA_DROPS.KEYGEN counts entries refused with ST_KEY_REVOKED
  | .host f sq tag _ => (d.bump (rk 0x01000010 0) 32 (b2n (decide (st = 5)))).hostAnswer f sq tag kind st info []
  | _ => d.answer src rqp roff imm ten kind st info recs

/-- The return QP of a request names a ready requester or intake QP of its tenant and partition, or for a forwarded pool
request the peer QP it came on; a HOSTRET request names none (R420, R423). -/
def Dev.rqpOk (d : Dev) (src : Src) (pool : Bool) (rqp ten part : Nat) : Bool :=
  match src with
  | .host _ _ _ true => true
  | .node => true
  | _ =>
    match mget d.trn.qps rqp with
    | none => false
    | some q => decide (q.state = 1) &&
        ((decide (q.type = 0 ∨ q.type = 2) && decide (q.ten = ten ∧ q.part = part)) ||
          (pool && decide (q.type = 1) && decide (src = .qp rqp)))

/-- Whether a request's return QP is to be fetched before it can be checked (R266, R420). -/
def Dev.rqpAway (d : Dev) (src : Src) (rqp : Nat) : Bool :=
  match src with
  | .host _ _ _ true => false
  | .node => false
  | _ => (match mget d.trn.qps rqp with
    | none => false
    | some q => !q.cached)

/-- The fetch of a return QP's context starts. -/
def Dev.rqpFetch (d : Dev) (rqp : Nat) : Dev :=
  match mget d.trn.qps rqp with
  | none => d
  | some q => if q.cached then d else d.fetchQp rqp q

/-- A request with no return QP to answer on: discarded and counted (R420). Its SQ entry's reservation ends without a CQ
entry, since it receives no answer of any kind (log entry 26, DEDUCED). -/
def Dev.noAnswer (d : Dev) (src : Src) : Dev :=
  let d := d.bump (rk 0x00E00058 0) 32 1
  match src with
  | .host f sq _ _ =>
    let fn := d.fn f
    match mget fn.sqs sq with
    | none => d.setFn f { fn with running := fn.running - 1 }
    | some q => d.setFn f { fn with running := fn.running - 1, sqs := mset fn.sqs sq { q with outst := q.outst - 1 }
                                    cqs := mmod fn.cqs q.cq Cq.unreserve }
  | _ => d

/-! ### Faults of stored data -/

/-- The partition of a tenant's slot. -/
def Dev.partOf (d : Dev) (t : Nat) : Nat := (d.tenant t).part

/-- The stack of a T1 tile address, and the bank engine's unit number of R107. -/
def tileStack (a : Nat) : Nat := a / 2 ^ 30 % 8
def tileUnit (a : Nat) : Nat := a / 2 ^ 30 % 8 * 512 + a / 2 ^ 26 % 16 * 32 + a / 2 ^ 21 % 32

/-- CODE, SUB and ENGINE of a failure of stored data: cause 1 tile check, 2 uncorrectable column, 3 MAC. `moves`: the read moves
data elsewhere (R98); `t0eng` is the reader of a T0 tile. -/
def dataCode (a cause : Nat) (moves : Bool) (t0eng : Nat) : Nat × Nat × Nat :=
  if 2 ^ 33 ≤ a then (4, 1, t0eng) else
  if cause = 2 ∧ moves then (3, 2, 3 * 4096 + tileStack a) else
  if cause = 3 then (4, 3, 3 * 4096 + tileStack a) else (4, cause, 4096 + tileUnit a)

/-- Counts a failed tile check (R109); an uncorrectable column is one where the node consumes the data itself (R98). -/
def Dev.tileFail (d : Dev) (a cause : Nat) (moves : Bool) : Dev :=
  if (cause = 1 ∨ (cause = 2 ∧ !moves)) ∧ a < 2 ^ 33 then d.bump (rk (0x00400028 + 0x100 * tileStack a) 0) 64 1 else d

/-- Freezes and journals a failure of stored data (R206, R361). -/
def Dev.dataFault (d : Dev) (a cause : Nat) (moves : Bool) (t0eng : Nat) (j : JInfo) (held : List Held) : Dev :=
  let (c, s, e) := dataCode a cause moves t0eng
  d.fault { j with code := c, sub := s, engine := e } true held

/-- A failure of stored data met by a read: counted, frozen and journalled. -/
def Dev.readFault (d : Dev) (a cause : Nat) (moves : Bool) (t0eng : Nat) (j : JInfo) (held : List Held) : Dev :=
  (d.tileFail a cause moves).dataFault a cause moves t0eng j held

/-- The fault events that a repeated read meets: a tile named twice fails its re-read too (log entry 27, DEDUCED). -/
def rereadFaults : (seen : List Nat) → List ColFault → List ColFault
  | _, [] => []
  | s, f :: r => if s.contains f.tile then f :: rereadFaults s r else rereadFaults (f.tile :: s) r

end Sys2Proof.Machine
end

