-- ==== Sys2Proof/Machine/Egress.lean ====
section
/-! DEFINITION. Egress: the stores, the scheduler and the policers (chapter 11). -/

namespace Sys2Proof.Machine

/-! ### The egress store (R285) -/

/-- The owner of storage that a teardown freed and the background fill has not reached (R352), and of control packets: no tenant has this number. -/
def noTenant : Nat := 4096

/-- The tenant of a produced packet. -/
def pktTen (h : W512) : Nat := if wf h 0 4 = 8 ∨ wf h 0 4 = 9 then noTenant else wf h 104 12

/-- Bytes a packet counts in the store (R285). -/
def pktSize (p : OutPkt) : Nat := 64 + p.payload.length

/-- Bytes a packet will count once encrypted. -/
def pktWire (p : OutPkt) : Nat := pktSize p + 24 * wf p.hdr 12 1

/-- Bytes of a subqueue, and of a store's classes 2 to 15, and in all. -/
def SubQ.bytes (s : SubQ) : Nat := sumN (s.pkts.map pktSize)
def Link.dataBytes (l : Link) : Nat := sumN ((l.subqs.filter (fun s => decide (2 ≤ s.cls))).map SubQ.bytes)
def Link.bytes (l : Link) : Nat := sumN (l.subqs.map SubQ.bytes)

/-- The subqueue a packet belongs to: one for class 0, one for class 1, else by class and tenant (R285). -/
def subKey (p : OutPkt) : Nat × Nat :=
  let c := wf p.hdr 8 4
  (c, if c < 2 then 0 else wf p.hdr 104 12)

/-- A subqueue of a link. -/
def Link.sub (l : Link) (k : Nat × Nat) : Option SubQ := l.subqs.find? (fun s => decide (s.cls = k.1 ∧ s.ten = k.2))

/-- Whether a packet of `n` bytes fits (R285). -/
def Link.fits (l : Link) (k : Nat × Nat) (n : Nat) : Bool :=
  decide (l.bytes + n ≤ 262144) &&
  (decide (k.1 < 2) || (decide (l.dataBytes + n ≤ 262144 - 16384) && decide ((match l.sub k with
    | none => 0
    | some s => s.bytes) + n ≤ 32768)))

/-- Whether a packet may be sent now: packet credit, submit credit for a packet that opens a SUBMIT message or a PARTIAL
message to a ridge, and the remote's window (R272, R275). -/
def hasCredit (q : Qp) (p : OutPkt) : Bool :=
  let op := wf p.hdr 0 4
  if op = 8 ∨ op = 9 then true else
  decide (q.txused ≠ q.txcl) &&
  decide ((wf p.hdr 192 24 + 2 ^ 24 - q.rexp) % 2 ^ 24 < 64) &&
  (!(decide (wf p.hdr 320 32 = 0) && (decide (op = 6) || (decide (op = 7) && decide (q.type = 0) && decide (q.remote < 2 ^ 15)))) ||
   decide (q.txsused ≠ q.txsl))

/-- The credit a packet uses. -/
def useCredit (q : Qp) (p : OutPkt) : Qp :=
  let op := wf p.hdr 0 4
  if op = 8 ∨ op = 9 then q else
  let sub := wf p.hdr 320 32 = 0 ∧ (op = 6 ∨ (op = 7 ∧ q.type = 0 ∧ q.remote < 2 ^ 15))
  { q with txused := (q.txused + 1) % 2 ^ 32, txsused := if sub then (q.txsused + 1) % 2 ^ 32 else q.txsused }

/-- A packet at the tail of its subqueue. -/
def Link.put (l : Link) (p : OutPkt) : Link :=
  let k := subKey p
  match l.sub k with
  | none => { l with subqs := l.subqs ++ [⟨k.1, k.2, [p], 0, false, none⟩] }
  | some _ => { l with subqs := l.subqs.map (fun s => if s.cls = k.1 ∧ s.ten = k.2 then { s with pkts := s.pkts ++ [p] } else s) }

/-! ### Policers (R292 to R295) -/

/-- The instance that polices a packet's class and tenant (R292). -/
def policerOf (m : NMap Policer) (cls ten : Nat) : Option (Nat × Policer) :=
  if cls < 2 then none else
  match m.find? (fun e => decide (e.2.ten = ten ∧ e.2.cls = cls)) with
  | some e => some e
  | none => m.find? (fun e => decide (e.2.ten = ten ∧ e.2.cls = 0))

/-- Colours of R294: 0 red, 1 yellow, 2 green. -/
def color (l : Link) (m : NMap Policer) (cls ten size : Nat) : Nat :=
  match policerOf m cls ten with
  | none => 2
  | some (i, _) =>
    let (tc, tp) := mgetD l.buckets i (0, 0)
    if tp < 64 * size then 0 else if tc < 64 * size then 1 else 2

/-- The buckets after a packet of a colour is handed to the link layer (R294). -/
def debit (l : Link) (m : NMap Policer) (cls ten size col : Nat) : Link :=
  match policerOf m cls ten with
  | none => l
  | some (i, _) =>
    let (tc, tp) := mgetD l.buckets i (0, 0)
    let g := col = 2
    { l with buckets := mset l.buckets i (if g then tc - 64 * size else tc, tp - 64 * size) }

/-- Every bucket of a link set full (R293). -/
def fillBuckets (m : NMap Policer) (l : Link) : Link :=
  { l with buckets := m.map (fun e => (e.1, (64 * e.2.cbs, 64 * e.2.pbs))) }

/-- One refill event of a link: new rates taken first, then both buckets (R293, R297). Colours kept through a change of the policers are
decided anew from here on. -/
def refill (m : NMap Policer) (l : Link) : Link :=
  { l with
    subqs := l.subqs.map (fun s => { s with kept := none })
    buckets := m.map (fun e =>
      let (tc, tp) := mgetD l.buckets e.1 (64 * e.2.cbs, 64 * e.2.pbs)
      (e.1, (min (64 * e.2.cbs) (tc + e.2.cinc), min (64 * e.2.pbs) (tp + e.2.pinc)))) }

/-! ### The scheduler (R288, R290) -/

/-- A subqueue's head packet's size. -/
def SubQ.head (s : SubQ) : Nat := match s.pkts with
  | [] => 0
  | p :: _ => pktSize p

/-- The tenant's quantum in bytes: 16 units for a tenant not admitted (R291). -/
def Dev.tenQuantum (d : Dev) (t : Nat) : Nat := if d.active t then 256 * (d.tenant t).quantum else 4096

/-- A class's quantum in 256-byte units: 16 in strict classes' place is not used (TSH_CLASSQ0, TSH_CLASSQ1). -/
def Dev.clsQuantum (d : Dev) (c : Nat) : Nat :=
  if c < 12 then d.reg (rk 0x00F00000 (8 * (c - 4))) else d.reg (rk 0x00F00008 (8 * (c - 12)))

/-- Colour of a subqueue's head packet: one decided before its policer changed is kept (R297). -/
def Dev.headColor (d : Dev) (l : Link) (s : SubQ) : Nat := s.kept.getD (color l d.tsh s.cls s.ten s.head)

/-- A link's head packets through a change of the policers to `m` that rebinds a valid instance, or binds or clears one: a packet found red
under an instance that stays its own, rebound, keeps that colour until the next refill event; any other is decided under `m` (R297; log
entry 113, DEDUCED). -/
def Dev.keepColors (d : Dev) (m : NMap Policer) (rebound : Option Nat) (l : Link) : Link :=
  let inst (m : NMap Policer) (s : SubQ) : Option Nat := (policerOf m s.cls s.ten).map Prod.fst
  { l with subqs := l.subqs.map (fun s =>
      if inst m s ≠ inst d.tsh s then { s with kept := none }
      else if (inst m s).isSome ∧ inst m s = rebound ∧ s.red then { s with kept := some 0 } else s) }

/-- Whether a class holds an eligible packet. -/
def Dev.clsEligible (d : Dev) (l : Link) (c : Nat) : Bool :=
  l.subqs.any (fun s => decide (s.cls = c) && !s.pkts.isEmpty && decide (d.headColor l s ≠ 0))

/-- Members of a class's lists that are no longer eligible leave with deficit 0; new ones join the tail in ascending
tenant number (R290). The green and the yellow members keep one list each. -/
def Dev.joinTenants (d : Dev) (l : Link) (c : Nat) : Link :=
  let el (col : Nat) (t : Nat) : Bool := match l.sub (c, t) with
    | none => false
    | some s => !s.pkts.isEmpty && decide (d.headColor l s = col)
  let ts := ((l.subqs.filter (fun s => decide (s.cls = c))).map (·.ten)).mergeSort (· ≤ ·)
  let keep (col : Nat) (ls : List (Nat × Nat)) : List (Nat × Nat) := ls.filter (fun e => e.1 ≠ c ∨ el col e.2)
  let add (col : Nat) (ls : List (Nat × Nat)) : List (Nat × Nat) :=
    ls ++ ((ts.filter (fun t => el col t && !ls.contains (c, t))).map (fun t => (c, t)))
  let l' := { l with green := add 2 (keep 2 l.green), yellow := add 1 (keep 1 l.yellow) }
  let on (t : Nat) : Bool := l'.green.contains (c, t) || l'.yellow.contains (c, t)
  -- a member that passes from one list to the other is no longer being visited
  let stays (e : Nat × Nat) : Bool := (l.green.contains e && l'.green.contains e) || (l.yellow.contains e && l'.yellow.contains e)
  { l' with tenOn := l'.tenOn.filter (fun e => e.1 ≠ c || stays e), subqs := l'.subqs.map (fun s =>
      if s.cls = c ∧ !on s.ten then { s with deficit := 0 } else s) }

/-- A member's deficit set. -/
def Link.setDeficit (l : Link) (k : Nat × Nat) (v : Nat) : Link :=
  { l with subqs := l.subqs.map (fun s => if s.cls = k.1 ∧ s.ten = k.2 then { s with deficit := v } else s) }

/-- The tenant whose head packet goes next in a class, and the link with list and deficits as the visit leaves them.
`tenOn` holds the members being visited, their deficit already raised (fuel: visits). -/
def Dev.pickTenant (d : Dev) (c : Nat) : (fuel : Nat) → Link → Option (Nat × Link)
  | 0, _ => none
  | k + 1, l =>
    let greens := l.green.filter (fun e => decide (e.1 = c))
    let yellows := l.yellow.filter (fun e => decide (e.1 = c))
    match (if greens.isEmpty then yellows else greens) with
    | [] => none
    | x :: _ =>
      match l.sub x with
      | none => none
      | some s =>
        let def_ := if l.tenOn.contains x then s.deficit else s.deficit + d.tenQuantum x.2
        if s.head ≤ def_ then some (x.2, { (l.setDeficit x (def_ - s.head)) with tenOn := x :: l.tenOn.filter (· ≠ x) }) else
        -- the visit ends: to the tail of its list
        let mv (ls : List (Nat × Nat)) := if ls.contains x then ls.filter (· ≠ x) ++ [x] else ls
        d.pickTenant c k { (l.setDeficit x def_) with green := mv l.green, yellow := mv l.yellow, tenOn := l.tenOn.filter (· ≠ x) }

/-- Classes of the weighted group with a quantum that gained their first eligible packet join the tail in ascending
number; those without one leave with deficit 0 (R290). -/
def Dev.joinClasses (d : Dev) (l : Link) : Link :=
  let ws := ((List.range 12).map (· + 4)).filter (fun c => d.clsEligible l c && decide (d.clsQuantum c ≠ 0))
  { l with clsList := l.clsList.filter ws.contains ++ ws.filter (fun c => !l.clsList.contains c),
           clsDef := l.clsDef.filter (fun e => ws.contains e.1), clsOn := l.clsOn && (match l.clsList with
             | [] => false
             | c :: _ => ws.contains c) }

/-- Every list of a link brought up to date. -/
def Dev.joinAll (d : Dev) (l : Link) : Link :=
  d.joinClasses (((List.range 14).map (· + 2)).foldl d.joinTenants l)

/-- The class of the weighted group that goes next (R288 step 2, R290). -/
def Dev.pickClass (d : Dev) : (fuel : Nat) → Link → Option (Nat × Link)
  | 0, _ => none
  | k + 1, l =>
    let cs := ((List.range 12).map (· + 4)).filter (d.clsEligible l)
    let ws := cs.filter (fun c => decide (d.clsQuantum c ≠ 0))
    if ws.isEmpty then
      -- quantum 0: one packet each in ascending turn after the class that last sent
      match ((List.range 12).map (fun i => 4 + (l.zeroTurn - 4 + i) % 12)).find? (fun c => cs.contains c) with
      | none => none
      | some c => some (c, { l with zeroTurn := if c = 15 then 4 else c + 1 })
    else
      match l.clsList with
      | [] => none
      | c :: r =>
        match d.pickTenant c 70000 l with
        | none => none
        | some (t, _) =>
          let size := match l.sub (c, t) with
            | none => 0
            | some s => s.head
          let def_ := mgetD l.clsDef c 0 + (if l.clsOn then 0 else 256 * d.clsQuantum c)
          if size ≤ def_ then some (c, { l with clsDef := mset l.clsDef c (def_ - size), clsOn := true })
          else d.pickClass k { l with clsDef := mset l.clsDef c def_, clsList := r ++ [c], clsOn := false }

/-- The class and tenant of the packet the scheduler picks (R288), and the link after the choice. -/
def Dev.pick (d : Dev) (l : Link) : Option (Nat × Nat × Link) :=
  let strict (c : Nat) : Option (Nat × Nat × Link) :=
    if c < 2 then some (c, 0, l) else
    (d.pickTenant c 70000 l).map (fun r => (c, r.1, r.2))
  if d.clsEligible l 0 then strict 0 else if d.clsEligible l 1 then strict 1 else if d.clsEligible l 2 then strict 2 else
  if d.clsEligible l 3 then strict 3 else
  match d.pickClass 70000 l with
  | none => none
  | some (c, l') => (d.pickTenant c 70000 l').map (fun r => (c, r.1, r.2))

/-- Removes a subqueue's head packet; an empty subqueue goes. -/
def Link.pop (l : Link) (k : Nat × Nat) : Link :=
  let subqs := l.subqs.map (fun s => if s.cls = k.1 ∧ s.ten = k.2 then { s with pkts := s.pkts.drop 1, red := false, kept := none } else s)
  let gone := subqs.any (fun s => decide (s.cls = k.1 ∧ s.ten = k.2) && s.pkts.isEmpty)
  { l with subqs := subqs.filter (fun s => !s.pkts.isEmpty), tenOn := if gone then l.tenOn.filter (· ≠ k) else l.tenOn,
           green := if gone then l.green.filter (· ≠ k) else l.green, yellow := if gone then l.yellow.filter (· ≠ k) else l.yellow }

/-- Red head packets found now, whose members leave their lists, are counted once each (R295): their number, and the link with them
marked. -/
def Dev.markRed (d : Dev) (l : Link) : Nat × Link :=
  let isRed (s : SubQ) : Bool := !s.pkts.isEmpty && decide (d.headColor l s = 0)
  ((l.subqs.filter (fun s => isRed s && !s.red)).length, { l with subqs := l.subqs.map (fun s => { s with red := isRed s }) })

/-! ### Meanings -/

/-- Changes a link. -/
def Dev.setLink (d : Dev) (n : Nat) (l : Link) : Dev := { d with links := mset d.links n l }

/-- Whether a packet is of a message: its QP and MSN. CREDIT and CONTROL belong to none. -/
def ofMsg (qpn msn : Nat) (p : OutPkt) : Bool :=
  decide (wf p.hdr 84 20 = qpn ∧ wf p.hdr 192 24 = msn ∧ wf p.hdr 0 4 ≠ 8 ∧ wf p.hdr 0 4 ≠ 9)

/-- Whether packets of a message still wait to be handed to the link layer. -/
def Dev.msgWaits (d : Dev) (qpn msn : Nat) : Bool :=
  d.waitq.any (ofMsg qpn msn) || d.links.any (fun e => e.2.subqs.any (fun s => s.pkts.any (ofMsg qpn msn)))

/-- Sets or drops what is counted of a message in sending. -/
def Dev.setTxPart (d : Dev) (qpn msn : Nat) (n : Option Nat) : Dev :=
  match mget d.trn.qps qpn with
  | none => d
  | some q => d.setQp qpn { q with txPart := match n with
      | none => mdel q.txPart msn
      | some n => mset q.txPart msn n }

/-- A packet of a message was handed to the link layer: TRN_TX_MSGS counts the message when all its bytes were (R283). -/
def Dev.txSent (d : Dev) (p : OutPkt) : Dev :=
  let (qpn, msn) := (wf p.hdr 84 20, wf p.hdr 192 24)
  let got := ((mget d.trn.qps qpn).map (fun q => mgetD q.txPart msn 0)).getD 0 + wf p.hdr 216 13
  if got = wf p.hdr 288 32 then (d.setTxPart qpn msn none).bump (rk 0x00E00030 0) 64 1
  else d.setTxPart qpn msn (if d.msgWaits qpn msn then some got else none)

/-- A packet was discarded before it was handed on: its message is not counted. -/
def Dev.txGone (d : Dev) (p : OutPkt) : Dev :=
  let (qpn, msn) := (wf p.hdr 84 20, wf p.hdr 192 24)
  if ((mget d.trn.qps qpn).map (fun q => (mget q.txPart msn).isSome)).getD false && !d.msgWaits qpn msn then d.setTxPart qpn msn none else d

/-- A waiting packet is examined for a link (R285): discarded when its QP is in error (R420), else entered when the QP's
next path is the link, its credits allow it and the store has room. -/
def Dev.tryEnqueue (d : Dev) (n : Nat) (l : Link) (p : OutPkt) : Option Dev :=
  let qpn := wf p.hdr 84 20
  match mget d.trn.qps qpn with
  | none => none
  | some q =>
    if q.state ≠ 1 ∧ !p.keep then some (((d.txGone p).bump (rk 0x00E00058 0) 32 (b2n (decide (wf p.hdr 0 4 = 7)))).departed p.tag) else
    match pathOf d q with
    | none => none
    | some (path, link) =>
      if link = n ∧ hasCredit q p ∧ l.fits (subKey p) (pktWire p) then
        -- TXSEQ would pass 2^64 − 1: the QP enters error, and the packet is discarded as on any QP in error (R280, R420)
        if wf p.hdr 12 1 = 1 ∧ 2 ^ 64 ≤ q.txseq + 1 then
          some ((((d.txGone p).qpError qpn 11).bump (rk 0x00E00058 0) 32 (b2n (decide (wf p.hdr 0 4 = 7)))).departed p.tag) else
        let (p', q') := finishPkt d q path p
        some ((d.setQp qpn (useCredit q' p)).setLink n (d.joinAll (l.put p')))
      else none

/-- The first waiting packet that can enter: no packet passes an earlier one of its QP and its subqueue, and none holds up packets of
other subqueues (R285, R286). -/
def Dev.enqueueGo (d : Dev) (n : Nat) (l : Link) : (skipped : List (Nat × Nat × Nat)) → (before : List OutPkt) → List OutPkt → Option Dev
  | _, _, [] => none
  | sk, bf, p :: r =>
    let k := (wf p.hdr 84 20, subKey p)
    if sk.contains k then d.enqueueGo n l sk (bf ++ [p]) r else
    match ({ d with waitq := bf ++ r }).tryEnqueue n l p with
    | some d' => some d'
    | none => d.enqueueGo n l (k :: sk) (bf ++ [p]) r

/-- EGRESS_ENQUEUE (R285): a produced packet enters its link's subqueue when the store has room for it. -/
def enqueueStep (n : Nat) (d : Dev) : Dev :=
  match mget d.links n with
  | none => d
  | some l => (d.enqueueGo n l [] [] d.waitq).getD d

/-- The header of a flit and its payload, closed with LCRC (Table 10.1). -/
def mkFlit (l : Link) (ftype fseq pstart : Nat) (nak : Bool) (payload : Bytes) : Bytes :=
  let h := leBytes 6 (pack [(0, 12, fseq), (12, 12, l.rxack), (24, 1, b2n l.rxacked), (25, 1, b2n nak), (26, 2, ftype), (28, 8, pstart)])
  let b := h ++ sliceB payload 0 242
  b ++ leBytes 8 (crc64 0 b)

/-- Sends a flit: counted, and shown as an output. -/
def Dev.flitOut (d : Dev) (n : Nat) (f : Bytes) : Dev := (d.emit (.flit n f)).bump (rk (0x00C00010 + 0x4000 * n) 0) 64 1

/-- Frames whole data flits while the replay buffer of 512 has room (R253, R254); a shorter rest waits for more bytes
(log entry 15, DESIGN CHOICE). Fuel: number of flits. -/
def Dev.pump (d : Dev) (n : Nat) : (fuel : Nat) → Dev
  | 0 => d
  | k + 1 =>
    match mget d.links n with
    | none => d
    | some l =>
      if l.txbuf.length < 242 ∨ 512 ≤ l.replay.length then d else
      let ps := (l.starts.filter (· < 242)).headD 0xFF
      let f := mkFlit l 0 l.txseq ps false (l.txbuf.take 242)
      let l' := { l with txseq := (l.txseq + 1) % 4096, replay := l.replay ++ [(l.txseq, f, 0)], txbuf := l.txbuf.drop 242,
                         starts := (l.starts.filter (242 ≤ ·)).map (· - 242) }
      ((d.setLink n l').flitOut n f).pump n k

/-- Hands a packet to the link layer: framed, counted, and what it carried released (R24, R253, R283, R299). -/
def handOver (n c : Nat) (p : OutPkt) (d : Dev) : Dev :=
  let d := d.emit (.packet n p.hdr p.payload)
  let d := d.bump (rk (0x00F01000 + 0x20 * n) 0) 64 (pktSize p)
  let d := if c < 2 then d else d.txSent p
  let d := { d with links := mmod d.links n (fun l => { l with
    txbuf := l.txbuf ++ wBytes p.hdr ++ p.payload, starts := l.starts ++ [l.txbuf.length]
    sent := l.sent ++ [(wf p.hdr 84 20, (l.txseq + (l.txbuf.length + pktSize p - 1) / 242) % 4096, pktTen p.hdr)] }) }
  ((d.pump n 24).sentOne p.tag).departed p.tag

/-- The lists of a link brought up to date, and the deferrals that this finds counted (R290, R295). -/
def Dev.deferReds (d : Dev) (n : Nat) (l : Link) : Dev × Link :=
  let (reds, l) := d.markRed (d.joinAll l)
  ((d.bump (rk (0x00F01010 + 0x20 * n) 32) 32 reds).setLink n l, l)

/-- SCHEDULER_PICK (R288): the link layer can take a packet. A link that is not UP, or whose replay buffer is full
(R254), takes none. -/
def schedStep (n : Nat) (d : Dev) : Dev :=
  match mget d.links n with
  | none => d
  | some l =>
    if l.state ≠ 2 ∨ 512 ≤ l.replay.length then d else
    let (d, l) := d.deferReds n l
    match d.pick l with
    | none => d
    | some (c, t, l') =>
      match l'.sub (c, t) with
      | none => d
      | some s => match s.pkts with
        | [] => d
        | p :: _ =>
          let bad := match mget d.trn.qps (wf p.hdr 84 20) with
            | none => false
            | some q => decide (q.state ≠ 1) && !p.keep && decide (wf p.hdr 0 4 = 7)
          -- a packet that is discarded is not sent: no debit, no yellow packet, no deficit and no turn (R290, R294, R295)
          if bad then ((d.deferReds n (l.pop (c, t))).1.bump (rk 0x00E00058 0) 32 1).txGone p |>.departed p.tag else
          let col := d.headColor l' s
          handOver n c p ((d.bump (rk (0x00F01010 + 0x20 * n) 0) 32 (b2n (decide (col = 1)))).deferReds n
            ((debit l' d.tsh c t (pktSize p) col).pop (c, t))).1

/-- POLICER_REFILL (R293): refilling runs only while the link is UP. -/
def refillStep (n : Nat) (d : Dev) : Dev :=
  match mget d.links n with
  | none => d
  | some l => if l.state = 2 then d.setLink n (d.joinAll (refill d.tsh l)) else d

/-! ### Policer commands (R297) -/

/-- SET_POLICER's rule (Table 11.2). -/
def policerOk (m : NMap Policer) (i : Nat) (p : Policer) : Bool :=
  decide (i < 512 ∧ (p.cls = 0 ∨ (2 ≤ p.cls ∧ p.cls ≤ 15)) ∧ 1 ≤ p.cinc ∧ p.cinc ≤ p.pinc ∧ p.pinc < 2 ^ 16 ∧ 4184 ≤ p.cbs ∧
    p.cbs ≤ p.pbs ∧ p.pbs ≤ 16777215) && !m.any (fun e => decide (e.1 ≠ i ∧ e.2.ten = p.ten ∧ e.2.cls = p.cls))

/-- An instance bound: new on each link with both buckets full, or rebound with its contents kept until the next refill
event clamps them (R297). -/
def bindPolicer (i : Nat) (p : Policer) (d : Dev) : Dev :=
  let fresh := (mget d.tsh i).isNone
  let d := { d with links := mmap d.links (fun _ l => d.keepColors (mset d.tsh i p) (if fresh then none else some i) l) }
  let full (l : Link) : Link := if fresh then { l with buckets := mset l.buckets i (64 * p.cbs, 64 * p.pbs) } else l
  { d with tsh := mset d.tsh i p, links := mmap d.links (fun _ l => full l) }

/-- SET_POLICER. -/
def setPolicerStep (i : Nat) (p : Policer) (d : Dev) : Dev :=
  if !d.active p.ten then d.mgmtDone 0x0311 5 [] else
  if !policerOk d.tsh i p then d.mgmtDone 0x0311 0x0A [] else (bindPolicer i p d).mgmtDone 0x0311 0 []

/-- CLEAR_POLICER. -/
def clearPolicerStep (i : Nat) (d : Dev) : Dev :=
  if 512 ≤ i then d.mgmtDone 0x0312 0x0A [] else ({ d with tsh := mdel d.tsh i, links := mmap d.links (fun _ l => d.keepColors (mdel d.tsh i) none l) }).mgmtDone 0x0312 0 []

/-- SET_TENANT_QUANTUM (R291). -/
def quantumStep (t q : Nat) (d : Dev) : Dev :=
  if !d.active t then d.mgmtDone 0x0313 5 [] else
  if q < 1 ∨ 255 < q then d.mgmtDone 0x0313 0x0A [] else
  ({ d with sec := { d.sec with tenants := mmod d.sec.tenants t (fun x => { x with quantum := q }) } }).mgmtDone 0x0313 0 []

end Sys2Proof.Machine
end

