-- ==== Sys2Proof/Machine/Links.lean ====
section
/-! DEFINITION. Ozsel link layer: flits, acknowledgement and replay, loss and training (R252 to R257). -/

namespace Sys2Proof.Machine

/-- A link that is DOWN with its map entry (R255). -/
def Link.reset (mkind mend mlink : Nat) : Link :=
  { state := 0, mkind := mkind, mend := mend, mlink := mlink, pkind := 0, pend := 0, plink := 0, lanes := 0, snr := 0,
    reversed := false, inverted := 0, retried := false, txseq := 0, rxlast := 0, rxany := false, rxack := 0, rxacked := false, replay := [],
    nak := false, rxbuf := [], rxlost := false, rxpkts := [], txbuf := [], starts := [], sent := [], subqs := [], clsDef := [], clsList := [], clsOn := false, zeroTurn := 4,
    green := [], yellow := [], tenOn := [], buckets := [] }

/-- A change of a link's state is written to OZL_STATUS and posted to the PF (R257). -/
def Dev.linkState (d : Dev) (n st : Nat) : Dev :=
  match mget d.links n with
  | none => d
  | some l => if l.state = st then d else (d.setLink n { l with state := st }).postEvent 0 1 n st

/-- Whether sequence a lies at or before b, modulo 4,096. -/
def seqLe (a b : Nat) : Bool := decide ((b + 4096 - a) % 4096 < 2048)

/-- An acknowledgement: flits up to ACKSEQ leave the replay buffer (R254). -/
def ackLink (ack : Nat) (l : Link) : Link :=
  { l with replay := l.replay.filter (fun e => !seqLe e.1 ack), sent := l.sent.filter (fun e => !seqLe e.2.1 ack) }

/-- A flit of the replay buffer as it is sent again: with the newest ACKSEQ, and LCRC over it (R254). -/
def reAck (l : Link) (f : Bytes) : Bytes :=
  let h := setFld (setFld (leAt f 0 6) 12 12 l.rxack) 24 1 (b2n l.rxacked)
  let b := leBytes 6 h ++ sliceB f 6 242
  b ++ leBytes 8 (crc64 0 b)

/-- Whole packets at the front of a stream of packet bytes (R261), and what is left: the bytes of a packet not yet whole, and whether the
place of packets is lost. A header whose HCRC fails goes on to check 1, which counts it; since its PLEN says nothing, the rest of the
flit is passed over (log entry 115, DEDUCED). Fuel: number of packets. -/
def splitPkts : (fuel : Nat) → Bytes → List (W512 × Bytes) × Bytes × Bool
  | 0, b => ([], b, false)
  | k + 1, b =>
    if b.length < 64 then ([], b, false) else
    let h := w512 (b.take 64)
    if crc32c (leBytes 60 (h.toNat % 2 ^ 480)) ≠ wf h 480 32 then ([(h, [])], [], true) else
    let n := 64 + wf h 216 13 + 24 * wf h 12 1
    if b.length < n then ([], b, false) else
    let (ps, r, bad) := splitPkts k (b.drop n)
    ((h, sliceB b 64 (n - 64)) :: ps, r, bad)

/-- The payload of a data flit that was taken joins the stream; after a lost place it starts at PSTART (R253). -/
def takeFlit (pstart : Nat) (pay : Bytes) (l : Link) : Link :=
  if l.rxlost ∧ pstart = 0xFF then l else
  let (ps, r, bad) := splitPkts 4 (if l.rxlost then pay.drop pstart else l.rxbuf ++ pay)
  { l with rxbuf := r, rxlost := bad, rxpkts := l.rxpkts ++ ps }

/-- The packets and QPs that a link's loss takes: RESYNC is sent on each QP with flits or packets lost (R274, R287). -/
def Dev.lossQps (d : Dev) (qs : List Nat) : Dev :=
  qs.foldl (fun d n =>
    match mget d.trn.qps n with
    | none => d
    | some q => (d.bump (rk 0x00E00040 0) 64 1).sendMsg n ⟨9, 0, 0, 0, 0, 0, 0, leBytes 8 q.txmsn, .none⟩) d

/-- An UP link is lost (R256, R287): replay buffer and egress store discarded, one retrain started. -/
def lossStep (n : Nat) (d : Dev) : Dev :=
  match mget d.links n with
  | none => d
  | some l =>
    if l.state ≠ 2 then d else
    let pk := l.subqs.flatMap (·.pkts)
    let qs := (l.sent.map Prod.fst ++ pk.map (fun p => wf p.hdr 84 20)).eraseDups
    let d := d.bump (rk (0x00C00030 + 0x4000 * n) 0) 16 1
    let d := d.bump (rk (0x00C00030 + 0x4000 * n) 16) 16 1
    let d := d.bump (rk (0x00C00030 + 0x4000 * n) 32) 16 l.replay.length
    let d := d.bump (rk (0x00F01018 + 0x20 * n) 0) 64 pk.length
    let d := d.setLink n { (Link.reset l.mkind l.mend l.mlink) with
      state := 2, pkind := l.pkind, pend := l.pend, plink := l.plink, retried := true, buckets := l.buckets, rxpkts := l.rxpkts }
    let d := pk.foldl (fun d p => (d.txGone p).departed p.tag) d
    (d.lossQps qs).linkState n 1

/-- What was taken is acknowledged. -/
def Link.ackNow (l : Link) : Link := { l with rxack := l.rxlast, rxacked := l.rxany }

/-- Whether a link's receive buffer, whose size the spec does not give, is full of flits taken and not handed on. -/
def Link.rxFull (l : Link) : Bool :=
  decide (242 * Config.rxFlits ≤ sumN (l.rxpkts.map (fun p => 64 + p.2.length)) + l.rxbuf.length)

/-- The acknowledgement that a chip reset kept back is sent (R371). -/
def Dev.ackAgain (d : Dev) (n : Nat) : Dev :=
  match mget d.links n with
  | none => d
  | some l => if l.state ≠ 2 ∨ (l.rxack = l.rxlast ∧ l.rxacked = l.rxany) then d else
    (d.setLink n l.ackNow).flitOut n (mkFlit l.ackNow 1 0 0xFF false [])

/-- FLIT_RECEIVE (R253, R254). `fecOk`: the flit lies in no uncorrectable codeword; `corr` and `unc` are the codewords that came in since
the flit before and were corrected, and were not. -/
def flitStep (n : Nat) (f : Bytes) (fecOk : Bool) (corr unc : Nat) (d : Dev) : Dev :=
  match mget d.links n with
  | none => d
  | some l =>
    if l.state ≠ 2 ∨ f.length ≠ 256 then d else
    let d := (d.bump (rk (0x00C00028 + 0x4000 * n) 0) 32 corr).bump (rk (0x00C00028 + 0x4000 * n) 32) 32 unc
    let h := leAt f 0 6
    let ftype := fld h 26 2
    let good := fecOk && decide (leAt f 248 8 = crc64 0 (f.take 248)) && decide (fld h 36 12 = 0) && decide (ftype ≠ 3)
    let sendNak (d : Dev) (l : Link) : Dev :=
      if l.nak then d else
      ((d.setLink n { l.ackNow with nak := true }).bump (rk (0x00C00020 + 0x4000 * n) 0) 32 1).flitOut n (mkFlit l.ackNow 1 0 0xFF true [])
    if !good then sendNak d l else
    let l := if fld h 24 1 = 1 then ackLink (fld h 12 12) l else l
    -- a NAK: every flit after ACKSEQ is sent again in order; the 8th replay of one flit loses the link
    let again := fld h 25 1 = 1 ∧ !l.replay.isEmpty
    let l := if again then { l with replay := l.replay.map (fun e => (e.1, reAck l e.2.1, e.2.2 + 1)) } else l
    let d := d.setLink n l
    let d := if again then
        l.replay.foldl (fun d e => d.flitOut n e.2.1) (d.bump (rk (0x00C00020 + 0x4000 * n) 32) 32 1)
      else d
    if again ∧ l.replay.any (fun e => decide (8 ≤ e.2.2)) then lossStep n d else
    let d := d.pump n 512
    match mget d.links n with
    | none => d
    | some l =>
      if ftype = 1 then d.bump (rk (0x00C00018 + 0x4000 * n) 0) 64 1 else
      let want := if l.rxany then (l.rxlast + 1) % 4096 else 0
      if fld h 0 12 ≠ want then sendNak d l else
      let l := { l with rxlast := want, rxany := true, nak := false }
      let l := if ftype = 0 then takeFlit (fld h 28 8) (sliceB f 6 242) l else l
      let d' := d.bump (rk (0x00C00018 + 0x4000 * n) 0) 64 1
      -- during a chip reset the link keeps what it takes, and stops acknowledging when its receive buffer is full (R371)
      if d.chipReset && l.rxFull then d'.setLink n l else (d'.setLink n l.ackNow).flitOut n (mkFlit l.ackNow 1 0 0xFF false [])

/-- Whether IDENT equals the link map and the fabric identifier (Table 10.3 step 4; log entry 16, DEDUCED). -/
def identOk (l : Link) (fabric : Nat) (i : Ident) : Bool :=
  decide (i.pkind = l.mkind ∧ i.pend = l.mend ∧ i.plink = l.mlink ∧ i.fabric = fabric)

/-- LINK_TRAINING_COMPLETE (R255, R256, Table 10.3). -/
def trainedStep (n : Nat) (r : Option Ident) (d : Dev) : Dev :=
  match mget d.links n with
  | none => d
  | some l =>
    if l.state ≠ 1 then d else
    match r with
    | none =>
      if l.retried then d.linkState n 4 else (d.setLink n { l with retried := true }).bump (rk (0x00C00030 + 0x4000 * n) 16) 16 1
    | some i =>
      let l := { l with pkind := i.pkind, pend := i.pend, plink := i.plink, lanes := 15, snr := i.snr, reversed := i.reversed, inverted := i.inverted }
      if identOk l (d.reg (rk 0x00E00000 32)) i then
        (d.setLink n (fillBuckets d.tsh { l with txseq := 0, rxlast := 0, rxany := false, rxack := 0, rxacked := false, replay := [], nak := false,
                                                  rxbuf := [], rxlost := false, txbuf := [], starts := [], sent := [], zeroTurn := 4 })).linkState n 2
      else (d.setLink n l).linkState n 5

/-- RETRAIN (Table 10.13): from DOWN, FAILED or MISMATCH; a link whose map entry is none stays DOWN (R255). -/
def retrainStep (n : Nat) (d : Dev) : Dev :=
  match mget d.links n with
  | none => d
  | some l =>
    if l.mkind = 0 ∨ !(l.state = 0 ∨ l.state = 4 ∨ l.state = 5) then d else
    ((d.setLink n { l with retried := false }).bump (rk (0x00C00030 + 0x4000 * n) 16) 16 1).linkState n 1

end Sys2Proof.Machine
end

