-- ==== Sys2Proof/Machine/QpCmds.lean ====
section
/-! DEFINITION. Transport management commands (Table 10.9, but for CANCEL_RIDGE, SET_FENCE and UNFENCE), the end of commands that wait
(R394). -/

namespace Sys2Proof.Machine

/-! ### Commands that wait -/

/-- A command's entry among those that wait leaves, and the command completes if it was there: a reset ends the command, not what it
has begun (R366). -/
def Dev.waitDone (d : Dev) (w : MWait) (opc : Nat) : Dev :=
  if d.pwr.waits.contains w then ({ d with pwr := { d.pwr with waits := d.pwr.waits.filter (· ≠ w) } }).mgmtDone opc 0 [] else d

/-- QP_DESTROY completes when nothing of R268's first two points remains: the context is freed, and the connection key slot
zeroized (R345). -/
def Dev.endDestroy (d : Dev) (n : Nat) : Dev :=
  match mget d.trn.qps n with
  | none => d
  | some q =>
    if !q.destroying || d.qpBusy n q || d.qpNamed n then d else
    let d := { d with trn := { d.trn with qps := mdel d.trn.qps n }
                      sec := { d.sec with ckeys := if q.enc then mdel d.sec.ckeys q.ckey else d.sec.ckeys } }
    (d.waitDone (.qpDestroy n) 0x0303).escapement

/-- UNLOAD_TABLE completes when no stored stream refers to the slot (R153, R154). -/
def Dev.endTable (d : Dev) (s : Nat) : Dev :=
  match mget d.cmp s with
  | none => d
  | some t =>
    if t.state ≠ 2 ∨ t.refs ≠ 0 then d else
    ((({ d with cmp := mdel d.cmp s }).mlog
      (pack [(0, 8, 5), (8, 6, s), (32, 8, fld (leAt t.image 0 16) 16 8), (40, 3, tblEfmtOf t.image), (120, 4, 1)]) t.digest)).waitDone (.unloadTable s) 0x0404
where
  /-- EFMT of a table image. -/
  tblEfmtOf (im : Bytes) : Nat := fld (leAt im 0 16) 11 3

/-- Contexts being destroyed and table slots that drain go when nothing keeps them; the commands that wait for it complete. -/
def Dev.settle (d : Dev) : Dev :=
  let d := ((d.trn.qps.filter (fun q => q.2.destroying)).map Prod.fst).foldl Dev.endDestroy d
  (d.cmp.map Prod.fst).foldl Dev.endTable d

/-- Start-up has completed, the node is not Dormant (R388, R397), and no reset of the whole node runs. -/
def Dev.awake (d : Dev) : Bool := decide (d.pwr.state = .ready) && !d.chipReset
/-- The node answers commands only then, and while its management core has not stopped (R360; log entry 22, DEDUCED). -/
def Dev.ready (d : Dev) : Bool := d.awake && !d.isStopped (14 * 4096)

/-- A command's outcome: its effect and ST_OK where its rule holds, else the status and no change. -/
def Dev.cmd (d : Dev) (opc : Nat) (ok : Bool) (st : St) (f : Dev → Dev) : Dev :=
  if !d.ready then d else if ok then (f d).mgmtDone opc 0 [] else d.mgmtDone opc (stCode st) []

/-- A state whose device has changed. -/
def State.upd (s : State) (f : Dev → Dev) : Host.Outcome State Fault Refusal := .next { s with dev := f s.dev }

/-! ### Queue pairs -/

/-- Whether a remote endpoint lies inside the trust domain (TRN_TRUST0–3, TRN_CFG.REQ_TRUSTED). -/
def Dev.trusted (d : Dev) (e : Nat) : Bool :=
  if 2 ^ 15 ≤ e then decide (d.reg (rk 0x00E00000 48) = 1) else
  (List.range 4).any (fun k => decide (d.reg (rk (0x00E00080 + 4 * k) 31) = 1 ∧ d.reg (rk (0x00E00080 + 4 * k) 0) ≤ e ∧
    e ≤ d.reg (rk (0x00E00080 + 4 * k) 16)))

/-- Whether every path in use names a link whose map entry is not none. -/
def Dev.pathsOk (d : Dev) (paths : List Nat) (pmask : Nat) : Bool :=
  decide (pmask < 2 ^ 16 ∧ paths.length = 16) && paths.all (fun l => decide (l < 32)) &&
  (List.range 16).all (fun p => decide (fld pmask p 1 = 0) || (match mget d.links (paths.getD p 32) with
    | none => false
    | some l => decide (l.mkind ≠ 0)))

/-- The rules of Table 10.7 on what QP_MODIFY can change. -/
def Dev.qpTune (d : Dev) (paths : List Nat) (pmask cwin swin txclass pmaxc : Nat) : Bool :=
  d.pathsOk paths pmask && decide (1 ≤ cwin ∧ cwin ≤ 255 ∧ swin ≤ 255 ∧ 2 ≤ txclass ∧ txclass ≤ 15 ∧ pmaxc ≤ 4)

/-- Whether a connection key slot may be bound (R345). -/
def Dev.ckeyOk (d : Dev) (a : QpArgs) : Bool :=
  match mget d.sec.ckeys a.ckey with
  | none => false
  | some k => decide (k.qpn = none) && (match k.ten with
    | none => true
    | some t => decide (t = a.ten))

/-- The rules of QP_CREATE other than the tenant's admission (Table 10.9, R317, R345). -/
def Dev.qpOk (d : Dev) (a : QpArgs) : Bool :=
  decide (a.qpn < 2 ^ 20 ∧ a.type < 3 ∧ a.rqpn < 2 ^ 20 ∧ a.ten < 2 ^ 12 ∧ a.part < 16 ∧ a.remote < 2 ^ 16 ∧ a.rbase < 2 ^ 64 ∧
    a.rakidx < 2 ^ 24 ∧ a.raktag < 2 ^ 16) &&
  (mget d.trn.qps a.qpn).isNone && epOk a.remote && d.qpTune a.paths a.pmask a.cwin a.swin a.txclass a.pmaxc &&
  (decide (a.type ≠ 1) || decide (a.ten = 0 ∧ a.part = 0)) &&
  (decide (a.type ≠ 2) || decide (a.ridge < 1024)) &&
  (a.enc || d.trusted a.remote) && (!a.enc || d.ckeyOk a) &&
  (match d.cqHome a.cq with
   | none => false
   | some (f, _) => decide (f = if a.type = 1 then 0 else a.part + 1))

/-- A new context (R265). -/
def newQp (a : QpArgs) (clock : Nat) : Qp :=
  { (default : Qp) with
      state := 1, type := a.type, enc := a.enc, ten := a.ten, part := a.part, remote := a.remote, rqpn := a.rqpn,
      txclass := a.txclass, pmaxc := a.pmaxc, paths := a.paths, pmask := a.pmask, cwin := a.cwin, swin := a.swin, rbase := a.rbase,
      rakidx := a.rakidx, raktag := a.raktag, cq := a.cq, ckey := a.ckey, salt := a.salt, ridge := a.ridge, cached := true,
      used := clock }

/-- QP_CREATE. More contexts than the die caches need the host QP table (R266). -/
def qpCreateStep (a : QpArgs) (d : Dev) : Dev :=
  if !d.ready then d else
  if a.type ≠ 1 ∧ !d.admitted a.ten a.part then d.mgmtDone 0x0301 (stCode .keyRevoked) [] else
  if !d.qpOk a then d.mgmtDone 0x0301 (stCode .shape) [] else
  match d.qpRoom with
  | none => d.noQpRoom.mgmtDone 0x0301 (stCode .refusedCapacity) []
  | some d =>
    let d := { d with trn := { d.trn with clock := d.trn.clock + 1 } }
    let d := d.setQp a.qpn (newQp a d.trn.clock)
    let d := if a.enc then { d with sec := { d.sec with ckeys := mmod d.sec.ckeys a.ckey (fun k => { k with qpn := some a.qpn }) } } else d
    (d.mgmtDone 0x0301 0 []).escapement

/-- QP_MODIFY. -/
def qpModifyStep (qpn : Nat) (paths : List Nat) (pmask cwin swin txclass pmaxc : Nat) (d : Dev) : Dev :=
  d.cmd 0x0302 ((mget d.trn.qps qpn).isSome && d.qpTune paths pmask cwin swin txclass pmaxc) .shape (fun d =>
    { d with trn := { d.trn with qps := mmod d.trn.qps qpn (fun q =>
      { q with paths := paths, pmask := pmask, cwin := cwin, swin := swin, txclass := txclass, pmaxc := pmaxc, changed := !q.cached }) } })

/-- QP_DESTROY: the QP takes no new message from now on. -/
def qpDestroyStep (qpn : Nat) (d : Dev) : Dev :=
  if !d.ready then d else
  match mget d.trn.qps qpn with
  | none => d.mgmtDone 0x0303 (stCode .shape) []
  | some q =>
    let d := d.setQp qpn { q with destroying := true }
    ({ d with pwr := { d.pwr with waits := d.pwr.waits ++ [MWait.qpDestroy qpn] } }).endDestroy qpn

/-- QP_CLEAR: an error QP returns to ready with credits and MSNs 0; what it held is gone. -/
def clearQp (q : Qp) : Qp :=
  { q with state := 1, errc := 0, exp := 0, txmsn := 0, rxcl := 0, rxret := 0, txcl := 0, txused := 0, rxsl := 0, rxsret := 0, txsl := 0,
           txsused := 0, rexp := 0, retAt := 0, subTaken := 0, pktTaken := 0, msgs := [], ctl := [], txPart := [], changed := !q.cached }

def qpClearStep (qpn : Nat) (d : Dev) : Dev :=
  d.cmd 0x0304 (match mget d.trn.qps qpn with
    | none => false
    | some q => decide (q.state = 2)) .shape (fun d =>
    ({ d with trn := { d.trn with qps := mmod d.trn.qps qpn clearQp } }).escapement)

/-! ### Access keys (R270) -/

/-- An entry's fields (Table 10.8). -/
def keyOf (e : BitVec 256) : AKey :=
  let n := e.toNat
  ⟨fld n 1 3, fld n 4 4, fld n 8 16, fld n 24 12, fld n 36 4, decide (fld n 40 1 = 1), fld n 64 20, fld n 128 64, fld n 192 64, false⟩

/-- The rules of KEY_CREATE. -/
def Dev.keyOkCreate (d : Dev) (idx : Nat) (e : BitVec 256) : Bool :=
  let k := keyOf e
  let n := e.toNat
  decide (idx < 2 ^ d.reg (rk 0x00E00000 16)) && (mget d.trn.keys idx).isNone &&
  decide (fld n 0 1 = 1 ∧ k.kind < 4 ∧ fld n 41 23 = 0 ∧ fld n 84 44 = 0) &&
  (decide (k.kind ≠ 3) || decide (k.ten = 0 ∧ k.part = 0)) &&
  (k.qpb || decide (k.qpn = 0)) &&
  (decide (k.kind ≠ 0) || decide (d.shareBase k.part ≤ k.base ∧ k.limit ≤ d.shareBase k.part + d.shareSize k.part))

def keyCreateStep (idx : Nat) (e : BitVec 256) (d : Dev) : Dev :=
  -- a key of KIND 3 names no tenant
  if d.ready && decide ((keyOf e).kind ≠ 3) && !d.active (keyOf e).ten then d.mgmtDone 0x0305 (stCode .keyRevoked) [] else
  d.cmd 0x0305 (d.keyOkCreate idx e) .shape (fun d => { d with trn := { d.trn with keys := mset d.trn.keys idx (keyOf e) } })

def keyDestroyStep (idx : Nat) (d : Dev) : Dev :=
  d.cmd 0x0306 (decide (idx < 2 ^ d.reg (rk 0x00E00000 16)) && (mget d.trn.keys idx).isSome) .shape (fun d =>
    { d with trn := { d.trn with keys := mdel d.trn.keys idx } })

/-! ### Ridge table (R279) -/

def setRidgeStep (idx intake onward : Nat) (cs : List Nat) (d : Dev) : Dev :=
  d.cmd 0x0307 (decide (idx < 1024 ∧ d.qpType intake = some 2 ∧ d.qpType onward = some 0 ∧ cs.length ≤ 64 ∧ 1 ≤ cs.length) &&
      cs.all (fun c => decide (c < 2 ^ 12)) && decide cs.Nodup) .shape (fun d =>
    { d with trn := { d.trn with ridges := mset d.trn.ridges idx ⟨intake, onward, cs⟩
                                 qps := mmod d.trn.qps intake (fun q => { q with ridge := idx, changed := !q.cached }) } })

end Sys2Proof.Machine
end

