-- ==== Sys2Proof/Machine/Dir.lean ====
section
/-! DEFINITION. The directory CAM (chapter 9): searches (R236, R237), the node's own writes and removals (R245 to R247), the
runtime's commands (R248) and the query registers (R251). -/

namespace Sys2Proof.Machine

/-- The class of a bank: 0 home, 1 prefix, 2 off (R238). -/
def Dev.bankClass (d : Dev) (b : Nat) : Nat := fld (d.reg (rk 0x00A00000 0)) (2 * b) 2

/-- CLASS of a key. -/
def keyClass (k : BitVec 112) : Nat := fld k.toNat 0 2
/-- TENANT of a key. -/
def keyTen (k : BitVec 112) : Nat := fld k.toNat 2 12

/-- A home key of an identity (Table 9.2). -/
def homeKey (r : RunId) : BitVec 112 :=
  BitVec.ofNat 112 (pack [(2, 12, r.ten), (14, 48, r.seq), (62, 10, r.layer), (72, 6, r.hgrp), (78, 32, r.page)])

/-- Whether an entry matches a full search key (R236). -/
def dirMatch (k : BitVec 112) (e : DirEnt) : Bool := (e.key ^^^ k) &&& e.mask = 0

/-- The match order: priority highest first, then index lowest first. -/
def dirBefore (a b : Nat × DirEnt) : Bool := decide (b.2.prio < a.2.prio ∨ (a.2.prio = b.2.prio ∧ a.1 < b.1))

/-- The first of a list in match order. -/
def dirFirst : List (Nat × DirEnt) → Option (Nat × DirEnt)
  | [] => none
  | a :: r => match dirFirst r with
    | none => some a
    | some b => if dirBefore a b then some a else some b

/-- Whether an entry follows a cursor (PRIO, INDEX) in match order (R237). -/
def afterCursor (c : Nat) (e : Nat × DirEnt) : Bool :=
  decide (fld c 24 1 = 0 ∨ e.2.prio < fld c 16 8 ∨ (e.2.prio = fld c 16 8 ∧ fld c 0 16 < e.1))

/-- One search: the match returned and MULTI (R237). -/
def dirSearch (m : NMap DirEnt) (key : BitVec 112) (cursor : Nat) : Option (Nat × DirEnt) × Bool :=
  let ms := m.filter (fun e => dirMatch key e.2 && afterCursor cursor e)
  (dirFirst ms, decide (1 < ms.length))

/-- A search counted by its class (Table 9.10); one of a reserved class finds nothing and counts in neither. -/
def Dev.search (d : Dev) (key : BitVec 112) (cursor : Nat) : (Option (Nat × DirEnt) × Bool) × Dev :=
  if 2 ≤ keyClass key then ((none, false), d) else
  let r := dirSearch (d.dir.filter (fun e => e.2.valid)) key cursor
  (r, (d.bump (rk 0x00A00010 (if keyClass key = 0 then 0 else 32)) 32 1).bump (rk 0x00A00020 0) 64 (b2n r.2))

/-- The cursor that names a match (Table 9.5). -/
def dirCursor : Option (Nat × DirEnt) → Nat
  | none => 0
  | some (i, e) => pack [(0, 16, i), (16, 8, e.prio), (24, 1, 1)]

/-- HOME and EPOCH of a home result (Table 9.4). -/
def resHome (e : DirEnt) : Nat := fld e.result.toNat 0 12
def resEpoch (e : DirEnt) : Nat := fld e.result.toNat 12 32

/-- The valid entries. -/
def Dev.dirLive (d : Dev) : NMap DirEnt := d.dir.filter (fun e => e.2.valid)

/-- Entries that pass a test are removed: VALID becomes 0, and the fields stay (R240). -/
def Dev.dirClear (d : Dev) (p : DirEnt → Bool) : Dev :=
  { d with dir := mmap d.dir (fun _ e => if p e then { e with valid := false } else e) }

/-- The home that a directory search gives for an identity: the HOME of the first match, if it names another node. -/
def Dev.dirHome (d : Dev) (r : RunId) : Option Nat × Dev :=
  let ((m, _), d) := d.search (homeKey r) 0
  (match m with
   | none => none
   | some (_, e) => if resHome e = d.pwr.node then none else some (resHome e), d)

/-! ### The node's own entries -/

/-- Entries of the home class: the class's size, those the node wrote, those the runtime wrote. -/
def Dev.homeSize (d : Dev) : Nat := 4096 * ((List.range 16).filter (fun b => decide (d.bankClass b = 0))).length
def Dev.nodeHome (d : Dev) : Nat := (d.dirLive.filter (fun e => !e.2.runtime)).length
def Dev.rtHome (d : Dev) : Nat := (d.dirLive.filter (fun e => e.2.runtime && decide (keyClass e.2.key = 0))).length
def Dev.prefixUse (d : Dev) : Nat := (d.dirLive.filter (fun e => decide (keyClass e.2.key = 1))).length

/-- The lowest free index of a bank from an entry on (fuel: entries left). -/
def freeInBank (m : NMap DirEnt) : (fuel i : Nat) → Option Nat
  | 0, _ => none
  | n + 1, i => if (mget m i).isNone then some i else freeInBank m n (i + 1)

/-- The lowest free index of a class. -/
def Dev.dirFree (d : Dev) (cls : Nat) : Option Nat :=
  (List.range 16).findSome? (fun b => if d.bankClass b = cls then freeInBank d.dirLive 4096 (4096 * b) else none)

/-- The node-written entry of an identity. -/
def Dev.dirNode (d : Dev) (r : RunId) : Option (Nat × DirEnt) := d.dirLive.find? (fun e => !e.2.runtime && decide (e.2.key = homeKey r))

/-- Removes the node-written entry of an identity (R245). -/
def Dev.dirDrop (d : Dev) (r : RunId) : Dev :=
  d.dirClear (fun e => e.valid && !e.runtime && decide (e.key = homeKey r))

/-- Writes the node's entry for an identity: HOME = PEER, EPOCH, MV 0, PRIO 0x80, every mask bit 1 (R245). An older EPOCH
is dropped and counted (R246); without space outside the runtime's allowance nothing is written (R247). -/
def Dev.dirWrite (d : Dev) (r : RunId) (home epoch : Nat) : Dev :=
  if (match d.dirNode r with
      | none => false
      | some (_, e) => decide (epoch < resEpoch e)) then d.bump (rk 0x00A00018 32) 32 1 else
  if d.homeSize ≤ d.nodeHome + d.reg (rk 0x00A00000 32) then d.bump (rk 0x00A00018 0) 32 1 else
  match d.dirFree 0 with
  | none => d.bump (rk 0x00A00018 0) 32 1
  | some i =>
    let e : DirEnt := ⟨true, homeKey r, BitVec.allOnes 112, 0x80, BitVec.ofNat 96 (pack [(0, 12, home), (12, 32, epoch)]), false⟩
    let d := d.dirDrop r
    { d with dir := mset d.dir i e }

/-! ### Runtime commands -/

/-- The rules of R235 on an entry image. -/
def dirOk (w : W512) : Bool :=
  let key := wf w 0 112
  let mask := wf w 128 112
  let res := wf w 288 96
  decide (wf w 112 16 = 0 ∧ wf w 240 16 = 0 ∧ wf w 264 24 = 0 ∧ wf w 401 111 = 0) &&
  decide (fld key 0 2 < 2 ∧ fld mask 0 14 = 2 ^ 14 - 1) &&
  (if fld key 0 2 = 0 then decide (fld mask 110 2 = 3 ∧ fld key 110 2 = 0 ∧ fld res 57 39 = 0)
   else decide (fld mask 14 4 = 15 ∧ fld mask 82 30 = 2 ^ 30 - 1 ∧ fld key 82 30 = 0 ∧ fld res 84 12 = 0 ∧ fld res 48 36 % 16 = 0)) &&
  decide (key &&& mask = key)

/-- The image of an entry with VALID in bit 511 (Table 9.1, DIR_READ). -/
def dirImage (m : NMap DirEnt) (i : Nat) : W512 :=
  match mget m i with
  | none => BitVec.ofNat 512 (pack [(384, 16, i)])
  | some e => BitVec.ofNat 512 (pack [(0, 112, e.key.toNat), (128, 112, e.mask.toNat), (256, 8, e.prio), (288, 96, e.result.toNat),
      (384, 16, i), (400, 1, b2n e.runtime), (511, 1, b2n e.valid)])

/-- DIR_PUT (Table 9.6). -/
def dirPutStep (w : W512) (d : Dev) : Dev :=
  if !d.ready then d else
  let key := BitVec.ofNat 112 (wf w 0 112)
  if !d.active (keyTen key) then d.mgmtDone 0x0221 (stCode .keyRevoked) [] else
  if !dirOk w || !d.mgmtRoom 0x0221 8 then d.mgmtDone 0x0221 (stCode .shape) [] else
  if keyClass key = 0 ∧ d.reg (rk 0x00A00000 32) ≤ d.rtHome then d.mgmtDone 0x0221 (stCode .refusedCapacity) [] else
  match d.dirFree (keyClass key) with
  | none => d.mgmtDone 0x0221 (stCode .refusedCapacity) []
  | some i =>
    let e : DirEnt := ⟨true, key, BitVec.ofNat 112 (wf w 128 112), wf w 256 8, BitVec.ofNat 96 (wf w 288 96), true⟩
    ({ d with dir := mset d.dir i e }).mgmtDone 0x0221 0 (leBytes 2 i)

/-- DIR_REMOVE of a valid entry that the runtime wrote: VALID becomes 0 (R240). -/
def dirRemoveStep (i : Nat) (d : Dev) : Dev :=
  d.cmd 0x0222 (match mget d.dir i with
    | none => false
    | some e => e.valid && e.runtime) .shape (fun d => { d with dir := mmod d.dir i (fun e => { e with valid := false }) })

/-- DIR_FIND: HIT, MULTI, RESULT, PRIO, INDEX and the cursor. -/
def dirFindStep (key : BitVec 112) (cursor : W32) (d : Dev) : Dev :=
  if !d.ready then d else
  if !d.mgmtRoom 0x0223 24 then d.mgmtDone 0x0223 (stCode .shape) [] else
  let ((m, multi), d) := d.search key cursor.toNat
  let (hit, res, prio, idx) := match m with
    | none => (0, 0, 0, 0)
    | some (i, e) => (1, e.result.toNat, e.prio, i)
  d.mgmtDone 0x0223 0 (leBytes 1 hit ++ leBytes 1 (b2n multi) ++ leBytes 12 res ++ leBytes 1 prio ++ leBytes 2 idx ++ leBytes 4 (dirCursor m))

/-- DIR_READ: the entry image. -/
def dirReadStep (i : Nat) (d : Dev) : Dev :=
  if !d.ready then d else
  if 65536 ≤ i ∨ !d.mgmtRoom 0x0224 64 then d.mgmtDone 0x0224 (stCode .shape) [] else
  d.mgmtDone 0x0224 0 (wBytes (dirImage d.dir i))

/-- DIR_QCMD.GO (R237, Table 9.11). -/
def dirQcmdStep (d : Dev) : Dev :=
  let key := BitVec.ofNat 112 (d.reg (rk 0x00A00100 0) + d.reg (rk 0x00A00108 0) * 2 ^ 64)
  let ((m, multi), d) := d.search key (d.reg (rk 0x00A00110 0))
  let res := match m with
    | none => 0
    | some (_, e) => e.result.toNat
  d.setRegs [(rk 0x00A00120 0, fld res 0 64), (rk 0x00A00128 0, fld res 64 32), (rk 0x00A00128 32, dirCursor m),
    (rk 0x00A00128 61, b2n m.isSome), (rk 0x00A00128 62, b2n multi), (rk 0x00A00128 63, 1)]

end Sys2Proof.Machine
end

