-- ==== Sys2Proof/Machine/Frames.lean ====
section
/-! DEFINITION. Frames and tiles: row sizes and frame classes (R111, R112), where a frame's rows lie (R113 to R116), tile checks
and seals (R117 to R119, R334 to R336), the frame allocator (R179, R180), and usage (R181). Where the manual leaves
the place of a region open, the choice is log entry 23, DESIGN CHOICE. -/

namespace Sys2Proof.Machine

/-! ### Row sizes and frame classes -/

/-- Bytes of a vector of n elements of a KV format, with its shared scales (R111). -/
def kvVec (f n : Nat) : Nat := n * kvBits f / 8 + (if kvMx f then n / 32 else 0)

/-- The bytes that a row holds, before padding (R111). -/
def rowHeld (shape f : Nat) : Nat := if shKind shape = 0 then 2 * kvVec f (dimOf (shD shape)) else kvVec f (kLenOf shape)

/-- The row size W (R111). -/
def rowW (shape f : Nat) : Nat := cdiv (rowHeld shape f) 64 * 64

/-- KiB of a frame class (Table 4.4). -/
def fKib (c : Nat) : Nat := 2 ^ (c + 1)

/-- The frame class of a geometry (R112): none where no class is large enough. -/
def frameClass (shape f h : Nat) : Option Nat :=
  (List.range 6).find? (fun c => decide (32 * ((h + 1) / 2) * rowW shape f ≤ 1024 * fKib c))

def Geom.heads (g : Geom) : Nat := g.hpm1 + 1
def Geom.w (g : Geom) : Nat := rowW g.shape g.kvfmt
/-- Rows of one head in a sub-frame, ρ of R115. -/
def Geom.rho (g : Geom) : Nat := min 16 (4096 / g.w)

/-! ### Tiles -/

/-- The address of a T1 tile as its tweak names it (R334). -/
def tileAddr (stack die bg byte : Nat) : Nat := byte / 64 + bg * 2 ^ 21 + die * 2 ^ 26 + stack * 2 ^ 30

/-- The key of tile i of row (t, h) of a frame: its T1 address, or 2^33 plus its T0 tile index (R113, R116). -/
def rowTile (g : Geom) (loc : Loc) (t h i : Nat) : Nat :=
  match loc with
  | .t1 stack die foff =>
    let r := t * g.heads + h
    tileAddr stack die (r % 32) (64 * foff + r / 32 * g.w + 64 * i)
  | .t0 f => 2 ^ 33 + (2048 * f + (16 * h + t) * g.w) / 64 + i
  | _ => 0

/-- LOC of a frame tile (R117). -/
def frameLoc (layer page tno : Nat) : Nat := (layer % 2 ^ 10 * 2 ^ 22 + page % 4096 * 2 ^ 10 + tno) % 2 ^ 32

/-- The tile's number in its frame's logical layout (R115). -/
def tileNo (g : Geom) (t h i : Nat) : Nat := (16 * h + t) * g.w / 64 + i

/-- The check of a tile (R117). -/
def tileChk (data : Bytes) (loc : Nat) : Nat := crc32c data ^^^ loc

/-- A stored tile, of either tier. -/
def Dev.tile (d : Dev) (a : Nat) : Option Tile := if a < 2 ^ 33 then mget d.bnk.t1 a else mget d.bnk.t0 (a - 2 ^ 33)

/-- Writes a tile with its check; the generation is the tenant's current one. -/
def Dev.putTile (d : Dev) (a loc ten ver : Nat) (data : Bytes) : Dev :=
  let t : Tile := ⟨w512 data, BitVec.ofNat 32 (tileChk data loc), ten, d.gen ten, ver⟩
  if a < 2 ^ 33 then { d with bnk := { d.bnk with t1 := mset d.bnk.t1 a t } }
  else { d with bnk := { d.bnk with t0 := mset d.bnk.t0 (a - 2 ^ 33) t } }

/-- The keys of a tenant's tiles in T1, at a generation that its slot's root key still has. -/
def Dev.tileKeys (d : Dev) (ten gen : Nat) : TileKeys := tenantKeys (d.tenant ten).trk ten gen

/-- A T1 tile's ciphertext (R334). -/
def Dev.cipher (d : Dev) (a : Nat) (t : Tile) : Bytes :=
  ((d.tileKeys t.ten t.gen).store a t.ver (wBytes t.data) t.chk.toNat).1

/-- What a read of a tile gives when stored bits differ: in T1 the ciphertext differs, so that the data decrypts otherwise. -/
def Dev.garbled (d : Dev) (a : Nat) (t : Tile) (mask : W512) : Bytes :=
  if a < 2 ^ 33 then
    let k := d.tileKeys t.ten t.gen
    (k.load a t.ver (flipBits mask (k.store a t.ver (wBytes t.data) t.chk.toNat))).1
  else xorB (wBytes t.data) (wBytes mask)

/-- The column fault of a tile among those given. -/
def faultAt (fs : List ColFault) (a : Nat) : Option ColKind := (fs.find? (fun f => decide (f.tile = a))).map (·.kind)

/-- The stored bits that a fault changes. -/
def flipped : Option ColKind → W512
  | some (.flipped m) => m
  | _ => 0

/-- A tile read and verified under the reader's tenant, generation and VER (R118): its bytes, or the failure: 1 its check fails, 2 its column is
uncorrectable (in T0 a failed check, Table 14.2). In T1 the reader removes its own mask and decrypts with its own keys what the writer stored with its
own (R334, R335); under the writer's keys and VER and with no bit changed, that is the tile as it was written. -/
def Dev.readTile (d : Dev) (fs : List ColFault) (a loc ten ver : Nat) : Except Nat Bytes :=
  match d.tile a with
  | none => .error 1
  | some t =>
    let f := faultAt fs a
    if f = some .uncorrectable then .error (if a < 2 ^ 33 then 2 else 1) else
    let m := flipped f
    let (b, c) :=
      if m = 0 ∧ (2 ^ 33 ≤ a ∨ (t.ten = ten ∧ t.gen = d.gen ten ∧ t.ver = ver)) then (wBytes t.data, t.chk.toNat)
      else if 2 ^ 33 ≤ a then (xorB (wBytes t.data) (wBytes m), t.chk.toNat)
      else (d.tileKeys ten (d.gen ten)).load a ver (flipBits m ((d.tileKeys t.ten t.gen).store a t.ver (wBytes t.data) t.chk.toNat))
    if tileChk b loc = c then .ok b else .error 1

/-- Column events of a read in the ECC counters of its stack (Table 4.12). -/
def Dev.eccCount (d : Dev) (f : ColFault) : Dev :=
  if 2 ^ 33 ≤ f.tile then d else
  match f.kind with
  | .corrected => d.bump (rk (0x00400030 + 0x100 * (f.tile / 2 ^ 30)) 0) 32 1
  | .uncorrectable => d.bump (rk (0x00400030 + 0x100 * (f.tile / 2 ^ 30)) 32) 32 1
  | .flipped _ => d

/-- All the column events given with a command. -/
def Dev.eccAll (d : Dev) (fs : List ColFault) : Dev := fs.foldl Dev.eccCount d

/-! ### Rows and seals -/

/-- Tiles of one row read in order. -/
def Dev.readTiles (d : Dev) (fs : List ColFault) (g : Geom) (loc : Loc) (layer page ten ver t h : Nat) : (n i : Nat) → Except (Nat × Nat) Bytes
  | 0, _ => .ok []
  | n + 1, i =>
    let a := rowTile g loc t h i
    match d.readTile fs a (frameLoc layer page (tileNo g t h i)) ten ver with
    | .error e => .error (e, a)
    | .ok b => match d.readTiles fs g loc layer page ten ver t h n (i + 1) with
      | .error e => .error e
      | .ok r => .ok (b ++ r)

/-- One row (t, h), or the failure and its tile. -/
def Dev.readRow (d : Dev) (fs : List ColFault) (g : Geom) (loc : Loc) (layer page ten ver t h : Nat) : Except (Nat × Nat) Bytes :=
  d.readTiles fs g loc layer page ten ver t h (g.w / 64) 0

/-- A frame in use. -/
def Dev.frame (d : Dev) (loc : Loc) : Option Frame := d.plc.frames.find? (fun f => decide (f.loc = loc))

/-- The pad P and the hash key H of a sub-frame (R336). -/
def sealPad (km : Bytes) (stack die foff h j t ver : Nat) : Nat := aes64 km (sealBlk foff die stack h j t ver 1)
def sealHash (km : Bytes) (stack die foff h j ver : Nat) : Nat := aes64 km (sealBlk foff die stack h j 0 ver 0)

/-- The contribution u of a row whose bytes are given (R336). -/
def Dev.rowU (d : Dev) (g : Geom) (stack die foff ten ver t h : Nat) (bs : Bytes) : Nat :=
  let hk := sealHash (d.tkey ten "MAC") stack die foff h (t / g.rho) ver
  ((chunksB (g.w / 64) 64 bs).zipIdx).foldl (fun acc (b, i) =>
    let a := rowTile g (.t1 stack die foff) t h i
    let ct := xtsEncrypt (d.tkey ten "XTS1") (d.tkey ten "XTS2") (tweak a ver) b
    acc ^^^ sealTile hk (t % g.rho * (g.w / 64) + i) ct) 0

/-- The seal of line t for head h after the row is written: the sub-frame's earlier seal goes on (R336). -/
def Dev.newSeal (d : Dev) (g : Geom) (f : Frame) (stack die foff ver t h : Nat) (bs : Bytes) : W64 :=
  let km := d.tkey f.ten "MAC"
  let j := t / g.rho
  let u := d.rowU g stack die foff f.ten ver t h bs
  let p := sealPad km stack die foff h j t ver
  let prev := if t % g.rho = 0 then none else (f.seals.find? (fun s => decide (s.1 = (t - 1, h)))).map Prod.snd
  match prev with
  | none => BitVec.ofNat 64 (u ^^^ p)
  | some s => BitVec.ofNat 64 (s.toNat ^^^ sealPad km stack die foff h j (t - 1) ver ^^^ u ^^^ p)

/-- One row written with its checks, its padding as zero (R111), and in T1 its seal word (R113, R118, R119). -/
def Dev.putRow (d : Dev) (g : Geom) (loc : Loc) (layer page ten ver t h : Nat) (bs : Bytes) : Dev :=
  let bs := sliceB (sliceB bs 0 (rowHeld g.shape g.kvfmt)) 0 g.w
  let d' := ((chunksB (g.w / 64) 64 bs).zipIdx).foldl (fun d (b, i) =>
    d.putTile (rowTile g loc t h i) (frameLoc layer page (tileNo g t h i)) ten ver b) d
  match loc with
  | .t1 stack die foff =>
    { d' with plc := { d'.plc with frames := updFirst (fun f => decide (f.loc = loc)) (fun f =>
        { f with seals := f.seals ++ [((t, h), d.newSeal g f stack die foff ver t h bs)] }) d'.plc.frames } }
  | _ => d'

/-- Whether the MAC of the sub-frames of head h holds over held rows [lo, hi) (R99): the seals are those of the rows as
written, so a comparison is made where a fault changed stored bits. -/
def Dev.macOk (d : Dev) (fs : List ColFault) (g : Geom) (loc : Loc) (ten ver lo hi h : Nat) : Bool :=
  match loc with
  | .t1 stack die foff =>
    let km := d.tkey ten "MAC"
    (List.range (cdiv 16 g.rho)).all (fun j =>
      let a := max lo (j * g.rho)
      let b := min hi ((j + 1) * g.rho)
      if b ≤ a then true else
      let rows := (List.range (b - a)).map (a + ·)
      let flips := rows.any (fun t => (List.range (g.w / 64)).any (fun i => match faultAt fs (rowTile g loc t h i) with
        | some (.flipped m) => decide (m ≠ 0)
        | _ => false))
      if !flips then true else
      let hk := sealHash km stack die foff h j ver
      let u := rows.foldl (fun acc t => (List.range (g.w / 64)).foldl (fun acc i =>
        let ad := rowTile g loc t h i
        let ct := match d.tile ad with
          | none => []
          | some tl => match faultAt fs ad with
            | some (.flipped m) => xorB (d.cipher ad tl) (wBytes m)
            | _ => d.cipher ad tl
        acc ^^^ sealTile hk (t % g.rho * (g.w / 64) + i) ct) acc) 0
      match d.frame loc with
      | none => false
      | some f => decide ((f.seals.find? (fun s => decide (s.1 = (b - 1, h)))).map (·.2.toNat) =
          some (u ^^^ sealPad km stack die foff h j (b - 1) ver)))
  | _ => true

/-! ### Ledger blocks (R123, R166) -/

/-- The T1 address of ledger block number n: block numbers go round the stacks, dies and bank groups, from the top of each
bank group down (log entry 23, DESIGN CHOICE). -/
def blkAddr (n : Nat) : Nat :=
  pack [(0, 3, n % 8), (3, 4, n / 8 % 16), (7, 5, n / 128 % 32), (12, 17, 131071 - n / 4096)]

/-- A new ledger or seal block's address in T1. -/
def Dev.newBlk (d : Dev) : Nat × Dev :=
  match d.pgm.blkFree with
  | b :: r => (b, { d with pgm := { d.pgm with blkFree := r } })
  | [] => (blkAddr d.pgm.blkNext, { d with pgm := { d.pgm with blkNext := d.pgm.blkNext + 1 } })

/-- Leaf blocks in T0 lie in its frame space, from the top down (log entry 23, DESIGN CHOICE). In the model's state bit 29 of an address marks
a block of T0, where the ledger has a tier bit beside the 29-bit address; below it stands the index of R123. -/
def Dev.newBlk0 (d : Dev) : Nat × Dev :=
  match d.pgm.t0Free with
  | b :: r => (b, { d with pgm := { d.pgm with t0Free := r } })
  | [] => (2 ^ 29 + (d.reg (rk 0x00800000 0) - 1 - d.pgm.t0Next) % 2 ^ 18, { d with pgm := { d.pgm with t0Next := d.pgm.t0Next + 1 } })

/-- Seal blocks in use: one for each T1 frame. -/
def Dev.sealBlks (d : Dev) : Nat := (d.plc.frames.filter (fun f => decide (f.sblk ≠ 0))).length

/-- Whether the ledger region has room for n more blocks (R166). -/
def Dev.blkRoom (d : Dev) (n : Nat) : Bool :=
  decide (d.pgm.blkNext - d.pgm.blkFree.length - d.sealBlks + n ≤ d.reg (rk 0x01300020 0) * 2 ^ 20)

/-! ### Space (R178, R181, Table 7.14) -/

/-- Whether a place is in T0, in T1. -/
def Loc.isT0 : Loc → Bool
  | .t0 _ => true
  | _ => false
def Loc.isT1 : Loc → Bool
  | .t1 _ _ _ => true
  | _ => false

/-- KiB that a frame takes: F in T0, F and a seal block in T1. -/
def Frame.kib (f : Frame) : Nat := fKib f.fcls + (if f.sblk ≠ 0 then 1 else 0)

def Dev.t0Total (d : Dev) : Nat := d.reg (rk 0x00800000 0)
def Dev.t1Total (d : Dev) : Nat := d.reg (rk 0x00800008 0)

/-- Pool units in a tier. -/
def Dev.poolIn (d : Dev) (t0 : Bool) : Nat := (d.shp.units.filter (fun u => u.2.loc.isT0 == t0)).length

/-- The unit-map blocks of the live versions, each shared block once (R211, R214): 64 entries to a block (log entry 25, DESIGN CHOICE). -/
def mapBlocks (v : Version) : List (Nat × List (Nat × Nat)) :=
  ((v.units.map (·.1 / 64)).eraseDups).map (fun b => (b, v.units.filter (fun u => decide (u.1 / 64 = b))))
def Dev.poolBlocks (d : Dev) : Nat := sumN (d.shp.regions.map (fun r => ((r.2.versions.flatMap mapBlocks).eraseDups).length))

/-- SEC_ZERO_PEND: KiB that the background fill has not zeroed (R352). -/
def Dev.zeroPend (d : Dev) : Nat := sumN (d.sec.zero.map Zero.kib)

/-- KiB of pool space (SHP_SPACE.USED_KIB). -/
def Dev.poolKib (d : Dev) : Nat := 4 * d.shp.units.length + d.poolBlocks

/-- Leaf blocks in T0 (R125). -/
def Dev.t0Leaves (d : Dev) : Nat := d.pgm.t0Next - d.pgm.t0Free.length

def Dev.t0Used (d : Dev) : Nat := sumN ((d.plc.frames.filter (·.loc.isT0)).map Frame.kib) + 4 * d.poolIn true + d.t0Leaves
def Dev.t1Used (d : Dev) : Nat := sumN ((d.plc.frames.filter (fun f => f.loc.isT1 && decide (f.ten ≠ noTenant))).map Frame.kib) + 4 * d.poolIn false + d.poolBlocks + sumN ((d.sec.zero ++ d.sec.zeroHold).map Zero.space)

/-- KiB of retired granules that nothing occupies any more: no free space (R180). -/
def Dev.goneKib (d : Dev) : Nat :=
  let inG (g : Nat) : Loc → Bool
    | .t1 s c f => decide ((16 * s + c) * 65536 + f / 32 = g)
    | _ => false
  sumN (d.plc.retGran.eraseDups.map (fun g => 64 - (sumN ((d.plc.frames.filter (fun f => inG g f.loc)).map (fun f => fKib f.fcls)) +
    4 * (d.shp.units.filter (fun u => inG g u.2.loc)).length)))

/-- Free frame space. -/
def Dev.t0Free (d : Dev) : Nat := d.t0Total - d.t0Used
def Dev.t1Free (d : Dev) : Nat := d.t1Total - d.t1Used - d.goneKib

/-- KiB of a sequence's unconsumed reservation. -/
def Seq.resvKib (q : Seq) : Nat := q.resv * (fKib q.geo.fcls + 1)
def Dev.reserved (d : Dev) : Nat := sumN (d.pgm.seqs.map (fun e => e.2.resvKib))

/-- Unreserved free T1 space. -/
def Dev.t1Open (d : Dev) : Nat := d.t1Free - d.reserved

/-- Whether a frame holds no page-run any more, or is being replaced: a version that a pin keeps names it, a share that no ledger names, or
an edit under way has made another frame for its page-run. -/
def Dev.superseded (d : Dev) (loc : Loc) : Bool :=
  d.pgm.seqs.any (fun q => q.2.retired.any (fun r => r.frames.contains loc) || q.2.edits.any (fun e => match e.prep with
    | none => false
    | some p => p.retire.frames.contains loc && p.lanes.any (fun l => (q.2.now l.1).pages.any (fun x => decide (x.2.loc = loc) &&
        (match mget l.2.pages x.1 with
         | none => false
         | some y => p.made.contains y.loc))))) ||
  d.pgm.shares.any (fun s => decide (s.2.refs = 0 ∧ s.2.ent.loc = loc))

/-- A tenant's usage in KiB (R181): each page-run that the node holds once, by its frame, and the unconsumed reservations. Log entry 47,
DEDUCED. -/
def Dev.usage (d : Dev) (t : Nat) : Nat :=
  sumN ((d.plc.frames.filter (fun f => decide (f.ten = t) && !d.superseded f.loc)).map Frame.kib) +
  sumN ((d.pgm.seqs.filter (fun e => decide (e.2.ten = t))).map (fun e => e.2.resvKib))

/-- T3 images of a tenant, in KiB. -/
def Dev.t3Usage (d : Dev) (t : Nat) : Nat :=
  sumN (((d.plc.runs.filterMap Run.image ++ d.oldImages).filter (fun i => decide (i.id.ten = t))).map (fun i => cdiv i.bytes 4096 * 4))

/-! ### The frame allocator (R179, R180) -/

/-- Shares in use on a core die: offset and length in 64-byte units. -/
def Dev.shares (d : Dev) (stack die : Nat) : List (Nat × Nat) :=
  let on : Loc → Option Nat
    | .t1 s c f => if s = stack ∧ c = die then some f else none
    | _ => none
  d.plc.frames.filterMap (fun f => (on f.loc).map (fun o => (o, 2 ^ f.fcls))) ++
    d.shp.units.filterMap (fun u => (on u.2.loc).map (fun o => (o, 2)))

/-- The least of several numbers that passes a test. -/
def leastOf (p : Nat → Bool) (l : List Nat) : Option Nat :=
  (l.filter p).foldl (fun b x => match b with
    | none => some x
    | some y => some (min x y)) none

/-- The lowest free share of a class on a die. -/
def Dev.freeShare (d : Dev) (stack die c : Nat) : Option Nat :=
  let sz := 2 ^ c
  let used := d.shares stack die
  let top := d.t1Total / 256
  let gone := d.plc.retGran.filter (fun x => decide (x / 65536 = 16 * stack + die))
  let ends := 0 :: used.map (fun s => cdiv (s.1 + s.2) sz * sz) ++ gone.map (fun x => (x % 65536 + 1) * 32)
  leastOf (fun o => decide (o + sz ≤ top) && !used.any (overlaps o sz) && !gone.contains (granule stack die o)) ends

/-- A die with a free share, from index i upward, modulo 128 (fuel: dies left). -/
def Dev.pickDie (d : Dev) (c : Nat) : (fuel i : Nat) → Option (Nat × Nat × Nat)
  | 0, _ => none
  | n + 1, i =>
    let i := i % 128
    match d.freeShare (i / 16) (i % 16) c with
    | some f => some (i / 16, i % 16, f)
    | none => d.pickDie c n (i + 1)

/-- The next write version of a granule, which takes it; at the largest value the granule is retired (R180). Log entry 62, DEDUCED. -/
def Dev.takeVer (d : Dev) (gr : Nat) : Nat × Dev :=
  let v := mgetD d.plc.vermap gr 0 + 1
  (v, { d with plc := { d.plc with vermap := mset d.plc.vermap gr v
                                   retGran := if v = 0xFFFFFFFF then d.plc.retGran ++ [gr] else d.plc.retGran } })

/-- A new T1 frame on the preferred die or the next with room: its place, VER and seal block. -/
def Dev.allocT1 (d : Dev) (ten c pref : Nat) : Option (Frame × Dev) :=
  match d.pickDie c 128 pref with
  | none => none
  | some (s, di, f) =>
    let (v, d) := d.takeVer (granule s di f)
    let (b, d) := d.newBlk
    let fr : Frame := ⟨.t1 s di f, c, v, ten, b, []⟩
    some (fr, { d with plc := { d.plc with frames := d.plc.frames ++ [fr] } })

/-- T0 space in use: start and length in 2 KiB units. -/
def Dev.t0Spans (d : Dev) : List (Nat × Nat) :=
  let on : Loc → Option Nat
    | .t0 f => some f
    | _ => none
  d.plc.frames.filterMap (fun f => (on f.loc).map (fun o => (o, 2 ^ f.fcls))) ++
    d.shp.units.filterMap (fun u => (on u.2.loc).map (fun o => (o, 2)))

/-- The lowest free T0 frame of a class. -/
def Dev.freeT0 (d : Dev) (c : Nat) : Option Nat :=
  let sz := 2 ^ c
  let used := d.t0Spans
  leastOf (fun o => decide ((o + sz) * 2 ≤ d.t0Total - d.pgm.t0Next) && !used.any (overlaps o sz)) (0 :: used.map (fun s => cdiv (s.1 + s.2) sz * sz))

/-- A new T0 frame. -/
def Dev.allocT0 (d : Dev) (ten c : Nat) : Option (Frame × Dev) :=
  match d.freeT0 c with
  | none => none
  | some f =>
    let v := d.plc.lastVer + 1
    let fr : Frame := ⟨.t0 f, c, v, ten, 0, []⟩
    some (fr, { d with plc := { d.plc with frames := d.plc.frames ++ [fr], lastVer := v } })

/-- Gives a frame back with its seal block. -/
def Dev.dropFrame (d : Dev) (loc : Loc) : Dev :=
  let bs := (d.plc.frames.filter (fun f => decide (f.loc = loc ∧ f.sblk ≠ 0))).map (·.sblk)
  { d with plc := { d.plc with frames := d.plc.frames.filter (fun f => decide (f.loc ≠ loc)) }
           pgm := { d.pgm with blkFree := d.pgm.blkFree ++ bs } }

/-- Refusals of an allocation outside a reservation (R184), each counted (Table 7.17). -/
def Dev.allocRefusal (d : Dev) (ten kib : Nat) : Option St :=
  if (d.tenant ten).quota < d.usage ten + kib then some .quota
  else if d.t1Open < kib then some .refusedCapacity else none

/-- Counts an allocation refusal. -/
def Dev.countRefusal (d : Dev) : St → Dev
  | .quota => d.bump (rk 0x00800040 32) 32 1
  | .refusedCapacity => d.bump (rk 0x00800040 0) 32 1
  | _ => d

/-! ### Banks and their claims (R86 to R91, R106) -/

/-- The key of a bank: stack, core die, bank group and bank; bits [10:9] of a byte offset in the bank group name the bank. -/
def bankKey (stack die bg bank : Nat) : Nat := stack * 2048 + die * 128 + bg * 4 + bank

/-- A bank at reset. The manual says nothing of the slots granted before the first refresh: the count starts at 0, so that a first refresh
waits for two slots while a claim is pending (R91, log entry 121, DESIGN CHOICE). -/
def Bank.empty : Bank := ⟨none, false, 0, 0, 0, [], []⟩
def Dev.bank (d : Dev) (k : Nat) : Bank := mgetD d.bnk.banks k Bank.empty
def Dev.setBank (d : Dev) (k : Nat) (b : Bank) : Dev := { d with bnk := { d.bnk with banks := mset d.bnk.banks k b } }
def Stack.empty : Stack := ⟨false, [], [], [], [], [], [], []⟩
def Dev.stack (d : Dev) (n : Nat) : Stack := mgetD d.bnk.stks n Stack.empty
def Dev.setStack (d : Dev) (n : Nat) (s : Stack) : Dev := { d with bnk := { d.bnk with stks := mset d.bnk.stks n s } }

/-- Unit number of an engine (R107). -/
def engUnit (stack die e : Nat) : Nat := 512 * stack + 32 * die + e

/-- The bank engines of a die that hold rows of an order, with the rows of each (R17). -/
def engineRows (heads : Nat) (rows : List (Nat × Nat)) : List (Nat × List (Nat × Nat)) :=
  ((List.range 32).map (fun e => (e, rows.filter (fun x => decide ((x.1 * heads + x.2) % 32 = e))))).filter (fun x => !x.2.isEmpty)

/-- The tiles of some rows in their bank group. -/
def rowTiles (g : Geom) (foff : Nat) (rows : List (Nat × Nat)) : List Nat :=
  rows.flatMap (fun (t, h) => (List.range (g.w / 64)).map (foff + (t * g.heads + h) / 32 * (g.w / 64) + ·))

/-- The 512-byte pieces of some rows in their bank group: each is one stroke (R87). -/
def rowPieces (g : Geom) (foff : Nat) (rows : List (Nat × Nat)) : List Nat := ((rowTiles g foff rows).map (· / 8)).eraseDups

/-- The node's ordinary claim on a bank (R90); `stage`: the tenon whose page it stages. -/
def Dev.claimBank (d : Dev) (key cols : Nat) (write : Bool) (stage : Option Nat := none) : Dev :=
  let b := d.bank key
  d.setBank key { b with ords := b.ords ++ [⟨⟨cols, write⟩, false, stage⟩] }

/-- Ordinary claims for rows of a T1 frame, at most 512 bytes each (R90). The work that makes them does not wait for their slots (log
entry 122, DESIGN CHOICE). -/
def Dev.claimRows (d : Dev) (g : Geom) (loc : Loc) (rows : List (Nat × Nat)) (write : Bool) (stage : Option Nat := none) : Dev :=
  match loc with
  | .t1 stack die foff => (engineRows g.heads rows).foldl (fun d x =>
      let ts := rowTiles g foff x.2
      ((ts.map (· / 8)).eraseDups).foldl (fun d p =>
        d.claimBank (bankKey stack die x.1 (p % 4)) (ts.filter (fun t => decide (t / 8 = p))).length write stage) d) d
  | _ => d

/-- Ordinary claims for positions [lo, hi) of a page. -/
def Dev.claimPage (d : Dev) (g : Geom) (loc : Loc) (lo hi : Nat) (write : Bool) (stage : Option Nat := none) : Dev :=
  d.claimRows g loc ((List.range (hi - lo)).flatMap (fun i => (List.range g.heads).map (fun h => (lo + i, h)))) write stage

/-- Ordinary claims for a 1 KiB block of a ledger in T1. -/
def Dev.claimBlk (d : Dev) (a : Nat) (write : Bool) : Dev :=
  if 2 ^ 29 ≤ a then d else
  [0, 1].foldl (fun d i => d.claimBank (bankKey (fld a 0 3) (fld a 3 4) (fld a 7 5) ((2 * fld a 12 17 + i) % 4)) 8 write) d

/-- Whether staging reads of a tenon's pages wait for a slot or hold one (R421). -/
def Dev.staging (d : Dev) (i : Nat) : Bool := d.bnk.banks.any (fun b => b.2.ords.any (fun c => decide (c.stage = some i)) || (match b.2.held with
  | some (.ordinary c) => decide (c.stage = some i)
  | _ => false))

/-- The staging reads of a tenon that has ended stage for no tenon. -/
def Dev.unstage (d : Dev) (i : Nat) : Dev :=
  if !d.staging i then d else
  let drop (c : OrdClaim) : OrdClaim := if c.stage = some i then { c with stage := none } else c
  { d with bnk := { d.bnk with banks := mmap d.bnk.banks (fun _ b => { b with
      ords := b.ords.map drop
      held := match b.held with
        | some (.ordinary c) => some (.ordinary (drop c))
        | h => h }) } }

/-- Ordinary claims for the whole of a frame's T1 space, at most 512 bytes each (R90, R113): in every bank group, the pages that its share touches. -/
def Dev.claimFrame (d : Dev) (stack die foff fcls : Nat) (write : Bool) : Dev :=
  let ps := (List.range ((foff + 2 ^ fcls - 1) / 8 - foff / 8 + 1)).map (foff / 8 + ·)
  (List.range 32).foldl (fun d g => ps.foldl (fun d p =>
    d.claimBank (bankKey stack die g (p % 4)) (min (foff + 2 ^ fcls) (8 * p + 8) - max foff (8 * p)) write) d) d

/-- An ordinary claim for one 64-byte column of a block in T1: a lane entry or a seal line. -/
def Dev.claimCol (d : Dev) (a i : Nat) (write : Bool) : Dev :=
  if 2 ^ 29 ≤ a then d else d.claimBank (bankKey (fld a 0 3) (fld a 3 4) (fld a 7 5) ((2 * fld a 12 17 + i / 8) % 4)) 1 write

/-- Ordinary claims for a pool unit in T1: two tiles of each bank group of its die. -/
def Dev.claimUnit (d : Dev) (loc : Loc) (write : Bool) : Dev :=
  match loc with
  | .t1 stack die foff => (List.range 32).foldl (fun d e => d.claimBank (bankKey stack die e (foff / 8 % 4)) 2 write) d
  | _ => d

/-- Whether a die has reached its activity cap (R106); 0xFFFF is no cap. -/
def Dev.capped (d : Dev) (stack die : Nat) : Bool :=
  let cap := d.reg (rk (0x00400008 + 0x100 * stack) 0)
  decide (cap ≠ 0xFFFF ∧ cap ≤ mgetD (d.stack stack).win die 0)

/-- Marks the strokes that wait while the cap holds their die, and counts each once (Table 4.11). -/
def Dev.capMark (d : Dev) (stack die : Nat) : Dev :=
  if !d.capped stack die then d else
  let on (k : Nat) : Bool := decide (k / 128 = 16 * stack + die)
  let n := sumN ((d.bnk.banks.filter (fun b => on b.1)).map (fun b => (b.2.strokes.filter (fun s => !s.capped)).length))
  if n = 0 then d else
  let mark (k : Nat) (b : Bank) : Bank := if on k then { b with strokes := b.strokes.map (fun s => { s with capped := true }) } else b
  ({ d with bnk := { d.bnk with banks := mmap d.bnk.banks mark } }).bump (rk (0x00400038 + 0x100 * stack) 0) 64 n

/-- Queues the strokes of an order on the banks of its engines (R87, R100). -/
def Dev.pushStrokes (d : Dev) (s : Stroke) (stack die : Nat) (g : Geom) (foff : Nat) (es : List (Nat × List (Nat × Nat))) : Dev :=
  (es.foldl (fun d x => (rowPieces g foff x.2).foldl (fun d p =>
    let k := bankKey stack die x.1 (p % 4)
    let b := d.bank k
    d.setBank k { b with strokes := b.strokes ++ [s] }) d) d).capMark stack die

/-- Whether a bank holds a stroke of an order, queued or granted. -/
def Bank.has (b : Bank) (ord : Nat) : Bool := b.strokes.any (fun s => decide (s.ord = ord)) || (match b.held with
  | some (.stroke s) => decide (s.ord = ord)
  | _ => false)

/-- The orders of a stack whose strokes have all ended: each that no fault stopped is complete and counts (R107), and a query store lets go
of a context all of whose orders for the die have been worked (R96). -/
def Dev.closeOrds (d : Dev) (s : Nat) : Dev :=
  let k := d.stack s
  let (stay, go) := k.opens.partition (fun o => d.bnk.banks.any (fun b => decide (b.1 / 2048 = s) && b.2.has o.ord))
  if go.isEmpty then d else
  let used (c : CtxCopy) : Bool := k.orders.any (fun o => decide (o.opc = 0 ∧ o.tidx = c.tidx ∧ o.die = c.die)) ||
    stay.any (fun o => !o.app && !o.dead && decide (o.tidx = c.tidx ∧ o.die = c.die))
  (d.setStack s { k with opens := stay, copies := k.copies.filter used }).bump (rk (0x00400010 + 0x100 * s) 0) 64
    (go.filter (fun o => !o.stopped)).length

/-- Ends the work of some delivered orders (`mine`): undelivered ones that pass `und` are dropped, delivered ones are dead, so that their results are
discarded while strokes queued or granted end normally (R93); `cut`: strokes that are not granted go too (R77, R102). -/
def Dev.endOrds (d : Dev) (s : Nat) (und : FOrder → Bool) (mine : OpenOrd → Bool) (cut dead : Bool) : Dev :=
  let k := d.stack s
  let gone := k.opens.filter mine
  if gone.isEmpty && !k.orders.any und then d else
  let d := d.setStack s { k with
    orders := k.orders.filter (fun o => !und o)
    opens := k.opens.map (fun o => if mine o then { o with dead := o.dead || dead, stopped := o.stopped || cut } else o) }
  let d := if !cut then d else
    { d with bnk := { d.bnk with banks := mmap d.bnk.banks (fun n b => if n / 2048 = s then
        { b with strokes := b.strokes.filter (fun x => !gone.any (fun o => decide (o.ord = x.ord))) } else b) } }
  d.closeOrds s

/-! ### Tallies (R172 to R174) -/

/-- The effective count at a moment. -/
def effCount (now stamp count : Nat) : Nat := count >>> min (now - stamp) 8

/-- COUNT and STAMP after a touch. -/
def touchTally (now stamp count : Nat) : Nat := min 255 (effCount now stamp count + 1)

end Sys2Proof.Machine
end

