-- ==== Sys2Proof/Machine/Rest.lean ====
section
/-! DEFINITION. Ledger blocks, seal blocks, share entries and arbors as their tiers store them (chapter 5): the trees of lanes (R121 to R124), the bytes of
each block, its tiles' checks with LOC 0 (R117), and the encryption and masks of those in T1 (R125, R334, R335, R337). -/

namespace Sys2Proof.Machine

/-! ### Geometry -/

def Geom.nhg (g : Geom) : Nat := g.nhgm1 + 1
def Geom.lanes (g : Geom) : Nat := (g.nlm1 + 1) * g.nhg
/-- The lane of a layer and head group. -/
def Geom.lane (g : Geom) (layer hgrp : Nat) : Nat := layer * g.nhg + hgrp
/-- Pages per leaf (R124). -/
def Geom.perLeaf (g : Geom) : Nat := if g.kvfmt = 4 then 32 else 64

/-! ### Page trees and blocks (R123 to R125) -/

/-- The index at a level of the block above page i: level 1 is the leaves. -/
def treeIdx (per lv i : Nat) : Nat := i / (per * 64 ^ (lv - 1))

/-- The height of a slot's tree. -/
def LSlot.height (s : LSlot) : Nat := (s.blocks.map (·.1.1)).foldl Nat.max 0

/-- The address of a block of the tree. -/
def LSlot.blk (s : LSlot) (lv i : Nat) : Option Nat := (s.blocks.find? (fun b => decide (b.1 = (lv, i)))).map Prod.snd

/-- The blocks read for page i, from the root down. -/
def LSlot.path (s : LSlot) (per i : Nat) : List Nat :=
  ((List.range s.height).map (fun k => s.height - k)).filterMap (fun lv => s.blk lv (treeIdx per lv i))

/-- The lane-directory blocks above a lane: the root is last in `ldroot` (fuel: levels). -/
def ldPathGo (ld : List Nat) : (fuel base n i : Nat) → List Nat
  | 0, _, _, _ => []
  | k + 1, base, n, i => (ld.drop (base + i)).take 1 ++ (if n ≤ 1 then [] else ldPathGo ld k (base + n) (cdiv n 64) (i / 64))

def Seq.ldPath (q : Seq) (lane : Nat) : List Nat := ldPathGo q.ldroot 4 0 (cdiv q.geo.lanes 16) (lane / 16)

/-! ### Entries as bits (Tables 5.3 to 5.5) -/

/-- A page entry of a frame class, KIND 1; a SHARED one leaves to the share table what that holds. -/
def PageEnt.bits (fcls : Nat) (e : PageEnt) : Nat :=
  let own (tier loc : Nat) (sealed : Bool) : Nat := pack [(0, 2, 1), (2, 2, tier), (4, 3, fcls), (7, 4, e.first), (12, 1, b2n e.failed), (13, 3, e.fcause),
    (16, 32, loc), (48, 32, e.ver), (80, 1, b2n sealed), (81, 29, e.sblk)]
  match e.loc with
  | .t0 f => own 0 f false
  | .t1 s c f => own 1 (pack [(0, 3, s), (3, 4, c), (7, 21, f)]) true
  | .away n => own 2 n false
  | .t3 u => own 3 u false
  | .share i => pack [(0, 2, 1), (11, 1, 1), (12, 1, b2n e.failed), (13, 3, e.fcause), (16, 20, i)]

/-- A pointer entry, KIND 2: bit 29 of an address of the model marks a block of T0 (log entry 23, DESIGN CHOICE). -/
def ptrBits (a : Nat) : Nat := pack [(0, 2, 2), (2, 1, if 2 ^ 29 ≤ a then 0 else 1), (4, 29, a)]

/-- A scale entry, KIND 3. -/
def PageEnt.scaleBits (e : PageEnt) : Nat := pack [(0, 2, 3), (64, 32, e.kscale.toNat), (96, 32, e.vscale.toNat)]

/-- A lane slot (Table 5.4). -/
def LSlot.bits (s : LSlot) : Nat :=
  let root := s.blk s.height 0
  pack [(0, 48, s.sver), (48, 36, s.endp), (84, 1, b2n s.valid), (85, 1, match root with
    | none => 0
    | some a => if 2 ^ 29 ≤ a then 0 else 1), (86, 3, s.height), (89, 29, root.getD 0)]

/-- A lane entry (R122). -/
def Lane.bits (l : Lane) : Nat := pack [(0, 128, l.a.bits), (128, 128, l.b.bits), (256, 36, l.wend)]

/-- Levels of a lane directory (R121). -/
def ldHeight (lanes : Nat) : Nat := if lanes ≤ 16 then 1 else if lanes ≤ 1024 then 2 else 3

/-- An arbor (Table 5.3). -/
def Seq.arbor (q : Seq) : Bytes := leBytes 64 (pack [(0, 12, q.ten), (12, 4, q.part), (16, 14, q.sgen), (30, 2, if q.closing then 2 else 1), (32, 48, q.lver),
  (80, 8, q.geo.shape), (88, 4, q.geo.kvfmt), (92, 3, q.geo.hpm1), (96, 6, q.geo.nhgm1), (102, 10, q.geo.nlm1), (112, 3, q.geo.fcls),
  (115, 2, ldHeight q.geo.lanes), (117, 1, 1), (118, 29, q.ldroot.getLast?.getD 0)])

/-- A share-table entry (R140): the fields of its page entry from bit 2 to bit 109, REFS, TENANT and PART, in that order from bit 0 (log entry 167, DESIGN
CHOICE). -/
def Share.bytes (s : Share) (fcls : Nat) : Bytes := leBytes 32 (pack [(0, 108, s.ent.bits fcls / 4), (108, 24, s.refs), (132, 12, s.ten), (144, 4, s.part)])

/-! ### Blocks as bytes (R119, R122, R124) -/

/-- Entries of 16 bytes each. -/
def entBytes (n : Nat) (f : Nat → Nat) : Bytes := (List.range n).flatMap (fun k => leBytes 16 (f k))

/-- A leaf block: page entries, each with its scale entry in a lane of KVFMT 4. -/
def leafBytes (g : Geom) (pages : NMap PageEnt) (i : Nat) : Bytes :=
  if g.kvfmt = 4 then entBytes 64 (fun k => match mget pages (32 * i + k / 2) with
    | none => 0
    | some e => if k % 2 = 0 then e.bits g.fcls else e.scaleBits)
  else entBytes 64 (fun k => match mget pages (64 * i + k) with
    | none => 0
    | some e => e.bits g.fcls)

/-- A block of a lane slot's tree. -/
def LSlot.bytes (g : Geom) (s : LSlot) (k : Nat × Nat) : Bytes :=
  if k.1 ≤ 1 then leafBytes g s.pages k.2 else entBytes 64 (fun i => match s.blk (k.1 - 1) (64 * k.2 + i) with
    | none => 0
    | some a => ptrBits a)

/-- Block i of a lane directory, whose blocks of one level follow those of the level below (fuel: levels; `base`: blocks before this level). -/
def ldBytesGo (q : Seq) : (fuel base n i : Nat) → Bytes
  | 0, _, _, _ => []
  | k + 1, base, n, i =>
    if n ≤ i then ldBytesGo q k (base + n) (cdiv n 64) (i - n) else
    if base = 0 then (List.range 16).flatMap (fun l => leBytes 64 ((mgetD q.lanes (16 * i + l) ⟨LSlot.empty, LSlot.empty, 0⟩).bits))
    else entBytes 64 (fun j => match (q.ldroot.take base).drop (base - 64 * n + 64 * i + j) with
      | [] => 0
      | a :: _ => ptrBits a)

/-- A seal block: 16 lines of 8 words (R119). -/
def Frame.sealBytes (f : Frame) : Bytes := (List.range 16).flatMap (fun t => (List.range 8).flatMap (fun h =>
  leBytes 8 (((f.seals.find? (fun s => decide (s.1 = (t, h)))).map (·.2.toNat)).getD 0)))

/-- The 1 KiB of a block of a sequence's ledger at an address. -/
def Seq.blkBytes (q : Seq) (a : Nat) : Option Bytes :=
  match q.ldroot.findIdx? (fun x => decide (x = a)) with
  | some i => some (ldBytesGo q 4 0 (cdiv q.geo.lanes 16) i)
  | none => (q.lanes.flatMap (fun l => [l.2.a, l.2.b])).findSome? (fun s =>
      if !s.valid then none else (s.blocks.find? (fun b => decide (b.2 = a))).map (fun b => s.bytes q.geo b.1))

/-- The tenant and the bytes of a ledger or seal block. -/
def Dev.blkBytes (d : Dev) (a : Nat) : Option (Nat × Bytes) :=
  match d.plc.frames.find? (fun f => decide (f.sblk = a ∧ a ≠ 0)) with
  | some f => some (f.ten, f.sealBytes)
  | none => d.pgm.seqs.findSome? (fun q => (q.2.blkBytes a).map (fun b => (q.2.ten, b)))

/-! ### Their tiles (R117, R118, R337) -/

/-- The tiles of a block, in T1 or in T0. -/
def blkTiles (a : Nat) : List Nat :=
  (List.range 16).map (fun i => if 2 ^ 29 ≤ a then 2 ^ 33 + 16 * (a % 2 ^ 18) + i
    else tileAddr (fld a 0 3) (fld a 3 4) (fld a 7 5) (1024 * fld a 12 17 + 64 * i))

/-- Whether a tile of metadata fails when it is read, and the cause: an uncorrectable column, or a check, with LOC 0, that no longer fits the data. In T1
the data is stored encrypted and the check masked, under the keys given. -/
def metaFault (k : TileKeys) (fs : List ColFault) (a : Nat) (b : Bytes) : Option (Nat × Nat) :=
  let f := faultAt fs a
  if f = some .uncorrectable then some (if a < 2 ^ 33 then 2 else 1, a) else
  let m := flipped f
  if m = 0 then none else
  let chk := tileChk b 0
  let (b', c) := if 2 ^ 33 ≤ a then (xorB b (wBytes m), chk) else k.load a 0 (flipBits m (k.store a 0 b chk))
  if tileChk b' 0 = c then none else some (1, a)

/-- The first tile of a block that fails when it is read, and the cause (R98, R118). A block whose content is not in the state any more reads as zeros. -/
def Dev.blkFault (d : Dev) (fs : List ColFault) (a : Nat) : Option (Nat × Nat) :=
  let (ten, b) := (d.blkBytes a).getD (0, [])
  ((blkTiles a).zipIdx).findSome? (fun t => metaFault (d.tileKeys ten (d.gen ten)) fs t.1 (sliceB b (64 * t.2) 64))

/-- The first arbor that fails when it is read into the arbor cache (R131, R337): those of some slots that are not cached. -/
def Dev.arborFault (d : Dev) (fs : List ColFault) (slots : List Nat) : Option (Nat × Nat) := slots.findSome? (fun s => match mget d.pgm.seqs s with
  | none => none
  | some q => if q.cached then none else metaFault (metaKeys d.sec.nrk) fs (Config.arborTile s) q.arbor)

/-- The first share-table entry that fails when it is read (R140, R337): two entries share a tile. -/
def Dev.shareFault (d : Dev) (fs : List ColFault) (idx : List Nat) : Option (Nat × Nat) := idx.findSome? (fun i =>
  let ent (k : Nat) : Bytes := match mget d.pgm.shares k with
    | none => List.replicate 32 0
    | some s => s.bytes (match d.frame s.ent.loc with
      | none => 0
      | some f => f.fcls)
  match mget d.pgm.shares i with
  | none => none
  | some s => metaFault (d.tileKeys s.ten (d.gen s.ten)) fs (Config.shareTile (i / 2)) (ent (i / 2 * 2) ++ ent (i / 2 * 2 + 1)))

end Sys2Proof.Machine
end

