-- ==== Sys2Proof/Machine/Ledger.lean ====
section
/-! DEFINITION. Ledgers as they are read (chapter 5): lanes, versions and pins (R127 to R131), page trees and the ledger-leaf cache
(R20, R123 to R125), shared pages (R140, R142), and run records (R171, R172, R244). -/

namespace Sys2Proof.Machine

/-! ### Origin handles -/

/-- The node at a tray position (R168). -/
def Dev.tray (d : Dev) (p : Nat) : Nat := d.reg (rk (0x00800060 + 8 * (p / 4)) (16 * (p % 4)))

/-- The origin handle of a handle that a request gives (R242). -/
def Dev.originOf (d : Dev) (h : Nat) : Nat :=
  let p := fld h 19 3
  if p = d.myPos then h else setFld h 22 12 (d.tray p)

/-- The local sequence that a handle names, if R31 finds nothing against it. -/
def Dev.seqOf (d : Dev) (h ten part : Nat) : Option Seq :=
  match mget d.pgm.seqs (hSlot h) with
  | none => none
  | some q => if q.sgen = hGen h ∧ q.ten = ten ∧ q.part = part then some q else none

/-! ### Lanes and versions (R122, R127) -/

/-- The identity of a page of a sequence. -/
def Seq.runId (q : Seq) (layer hgrp page : Nat) : RunId := ⟨q.ten, q.origin, layer, hgrp, page⟩

/-- A page entry with what its share entry gives (Table 5.5, R140). -/
def Dev.resolve (d : Dev) (e : PageEnt) : PageEnt :=
  match e.loc with
  | .share i => match mget d.pgm.shares i with
    | none => e
    | some s => { s.ent with kscale := e.kscale, vscale := e.vscale }
  | _ => e

/-- The share index of an entry. -/
def PageEnt.shareIdx (e : PageEnt) : Option Nat := match e.loc with
  | .share i => some i
  | _ => none

/-- First and one past the last position of a page that a slot holds. -/
def heldLo (i : Nat) (e : PageEnt) : Nat := 16 * i + e.first
def heldHi (i endp : Nat) : Nat := min (16 * i + 16) endp

/-- The lane's first held position, or its END where it holds no page. -/
def Dev.firstHeld (d : Dev) (s : LSlot) : Nat := match s.pages with
  | [] => s.endp
  | (i, e) :: _ => heldLo i (d.resolve e)

/-! ### The ledger-leaf cache (R20) -/

def Dev.leafSets (d : Dev) : Nat := d.reg (rk 0x00600000 0) * 64

/-- Puts a block in the cache as most recently used; a full set loses its least recently used block. A block of T0 never enters. -/
def Dev.leafPut (d : Dev) (a : Nat) : Dev :=
  if 2 ^ 29 ≤ a then d else
  let set (x : Nat) : Nat := x % d.leafSets
  let l := d.pgm.leafc.filter (· ≠ a)
  let mine := l.filter (fun x => decide (set x = set a))
  let l := if 16 ≤ mine.length then l.filter (fun x => decide (some x ≠ mine.getLast?)) else l
  { d with pgm := { d.pgm with leafc := a :: l } }

/-- One block used by a walk, edit, move or seal-line read: hit or miss counted, a block of T0 read in place. The second
component says whether it must be read from T1. -/
def Dev.leafUse (d : Dev) (a : Nat) : Dev × Bool :=
  if 2 ^ 29 ≤ a then (d, false) else
  if d.pgm.leafc.contains a then ((d.leafPut a).bump (rk 0x00600028 0) 32 1, false)
  else ((d.claimBlk a false).bump (rk 0x00600028 32) 32 1, true)

/-- Blocks used by an edit or a move, which reads those it misses within its step; the first that fails ends the reading. -/
def Dev.leafTouch (fs : List ColFault) : List Nat → Dev → Option (Nat × Nat) × Dev
  | [], d => (none, d)
  | a :: r, d => match d.leafUse a with
    | (d, false) =>
      -- a block of T0 is read in place and verified (R20, R118)
      match if 2 ^ 29 ≤ a then d.blkFault fs a else none with
      | some x => (some x, d)
      | none => Dev.leafTouch fs r d
    | (d, true) =>
      let d := d.eccAll (fs.filter (fun f => (blkTiles a).contains f.tile))
      match d.blkFault fs a with
      | some x => (some x, d)
      | none => Dev.leafTouch fs r (d.leafPut a)

/-! ### The arbor cache and pins (R130, R131) -/

/-- Whether an arbor-cache entry is free: a move may take one of the 64 kept entries. -/
def Dev.arborRoom (d : Dev) (kept : Bool) : Bool :=
  let n := 2 ^ d.reg (rk 0x00600000 8)
  decide ((d.pgm.seqs.filter (fun e => e.2.cached && (e.2.kept == kept))).length < if kept then 64 else n - 64)

/-- The slots that a request of the ledger manager's queue, or a running FORK as its source, holds in the arbor cache (R121). -/
def Work.slots (w : Work) : List Nat :=
  if w.kind = 1 then hSlot (dwSeq w.desc) :: (if dwOp w.desc = 3 then [hSlot (dwArg w.desc % 2 ^ 48)] else []) else [hSlot (scSeq w.desc)]

def Dev.arborHeld (d : Dev) (slot : Nat) : Bool :=
  d.pgm.queue.any (fun w => w.slots.contains slot) || d.pgm.seqs.any (fun q => q.2.edits.any (fun e => e.move.isNone && e.work.slots.contains slot))

/-- The arbor whose entry is taken: of those that R131 lets be taken, with no pin and no queued edit, the least recently used (log entry 152,
DESIGN CHOICE). -/
def Dev.arborVictim (d : Dev) (kept : Bool) (named : List Nat) : Option Nat :=
  ((d.pgm.seqs.filter (fun e => e.2.cached && (kept || !e.2.kept) && e.2.pins.isEmpty && e.2.edits.isEmpty && !named.contains e.1 && !d.arborHeld e.1)).foldl
    (fun (b : Option (Nat × Seq)) e => match b with
    | none => some e
    | some x => if e.2.used < x.2.used then some e else some x) none).map Prod.fst

def Dev.modSeq (d : Dev) (slot : Nat) (f : Seq → Seq) : Dev := { d with pgm := { d.pgm with seqs := mmod d.pgm.seqs slot f } }

/-- A sequence's arbor in the cache, none where no entry can be taken; `kept` for a move, which may take the kept entries; `named`: the sequences whose
arbors are taken together. -/
def Dev.takeArbor (d : Dev) (slot : Nat) (kept : Bool) (named : List Nat) : Option Dev :=
  match mget d.pgm.seqs slot with
  | none => none
  | some q =>
    let t := d.pgm.clock + 1
    let use (k : Bool) (d : Dev) : Dev := ({ d with pgm := { d.pgm with clock := t } }).modSeq slot (fun q => { q with cached := true, used := t, kept := k })
    if q.cached then some (use q.kept d) else
    if d.arborRoom false then some (use false d) else
    if kept && d.arborRoom true then some (use true d) else
    match d.arborVictim kept named with
    | none => none
    | some v => some (use ((mget d.pgm.seqs v).map Seq.kept == some true) (d.modSeq v (fun q => { q with cached := false, kept := false })))

/-- The arbors of several sequences together, or none of them (R131). -/
def Dev.takeArbors (kept : Bool) (named : List Nat) : List Nat → Dev → Option Dev
  | [], d => some d
  | s :: r, d => (d.takeArbor s kept named).bind (Dev.takeArbors kept named r)

/-- Pins a sequence's current version, none where the pin table is full (R130). -/
def Dev.takePin (d : Dev) (slot : Nat) : Option (Nat × Dev) :=
  match mget d.pgm.seqs slot with
  | none => none
  | some q =>
    let n := mgetD q.pins q.lver 0
    if (n = 0 ∧ 8 ≤ q.pins.length) ∨ 65536 ≤ n then none
    else some (q.lver, d.modSeq slot (fun q => { q with pins := mset q.pins q.lver (n + 1) }))

/-- Counts a wait for a pin-table or an arbor-cache entry, or for a lane slot. -/
def Dev.pinWait (d : Dev) (slots : Bool) : Dev := d.bump (rk 0x00600020 (if slots then 32 else 0)) 32 1

/-- A move waits: its wait counts once, however often it is tried again. -/
def Dev.moveWait (d : Dev) (id : RunId) (slots : Bool) : Dev :=
  if d.plc.moveWaits.contains (id, slots) then d else
  ({ d with plc := { d.plc with moveWaits := d.plc.moveWaits ++ [(id, slots)] } }).pinWait slots

/-- A move waits no more. -/
def Dev.moveGoes (d : Dev) (id : RunId) : Dev := { d with plc := { d.plc with moveWaits := d.plc.moveWaits.filter (fun x => decide (x.1 ≠ id)) } }

/-! ### Run records (R171, R172, R244) -/

def Dev.run (d : Dev) (id : RunId) : Option Run := d.plc.runs.find? (fun r => decide (r.id = id))
/-- A record that begins: no T3 image, no move due. -/
def freshRun (id : RunId) (hs : HState) (peer epoch count stamp : Nat) (copy : Option Copy) : Run :=
  ⟨id, hs, peer, epoch, count, stamp, copy, 0, 0, none, false, none⟩
def Dev.modRun (d : Dev) (id : RunId) (f : Run → Run) : Dev :=
  { d with plc := { d.plc with runs := updFirst (fun r => decide (r.id = id)) f d.plc.runs } }

def Dev.promoteAt (d : Dev) : Nat := d.reg (rk 0x00800018 8)

/-- A touch (R172); one that leaves the effective count at PROMOTE or above asks for a move (R175). Log entry 48, DEDUCED. -/
def Dev.touchRun (d : Dev) (id : RunId) : Dev :=
  let n := d.plc.tnow
  let k := d.promoteAt
  let d := d.modRun id (fun r =>
    let c := touchTally n r.stamp r.count
    { r with count := c, stamp := n, due := decide (k ≠ 0 ∧ k ≤ c) })
  { d with plc := { d.plc with touches := d.plc.touches + 1 } }

/-- The hint of R244: the directory's HOME, the entry's hint node, PEER of the run record. -/
def Dev.hint (d : Dev) (id : RunId) (e : PageEnt) : Nat × Dev :=
  let (h, d) := d.dirHome id
  (match h, e.loc with
   | some n, _ => n
   | none, .away n => n
   | none, _ => match d.run id with
     | none => 0
     | some r => r.peer, d)

/-- Whether the node is the home of a page-run (R26): HOME or OFFERED, and where it keeps no record. -/
def Dev.isHome (d : Dev) (id : RunId) : Bool := match d.run id with
  | none => true
  | some r => decide (r.hstate = .home ∨ r.hstate = .offered)

/-- Whether its record says ORPHANED (R197). -/
def Dev.isOrphan (d : Dev) (id : RunId) : Bool := match d.run id with
  | none => false
  | some r => decide (r.hstate = .orphaned)

/-! ### Reading held rows -/

/-- Row (t, h) of a page entry. -/
def Dev.entRow (d : Dev) (fs : List ColFault) (q : Seq) (id : RunId) (e : PageEnt) (t h : Nat) : Except (Nat × Nat) Bytes :=
  d.readRow fs q.geo e.loc id.layer id.page q.ten e.ver t h

/-- All rows of positions [lo, hi) of a page, checks and MACs verified: bytes by (t, h), or the failure. -/
def Dev.rowsAt (d : Dev) (fs : List ColFault) (g : Geom) (id : RunId) (ten : Nat) (e : PageEnt) (lo hi : Nat) :
    Except (Nat × Nat) (List ((Nat × Nat) × Bytes)) :=
  let want := (List.range (hi - lo)).flatMap (fun i => (List.range g.heads).map (fun h => (lo + i, h)))
  let rec go : List (Nat × Nat) → Except (Nat × Nat) (List ((Nat × Nat) × Bytes))
    | [] => .ok []
    | (t, h) :: r => match d.readRow fs g e.loc id.layer id.page ten e.ver t h with
      | .error x => .error x
      | .ok b => match go r with
        | .error x => .error x
        | .ok l => .ok (((t, h), b) :: l)
  match go want with
  | .error x => .error x
  | .ok l =>
    match (List.range g.heads).find? (fun h => !d.macOk fs g e.loc ten e.ver lo hi h) with
    | some h => .error (3, rowTile g e.loc lo h 0)
    | none => .ok l

/-- Rows of a page of a sequence. -/
def Dev.entRows (d : Dev) (fs : List ColFault) (q : Seq) (id : RunId) (e : PageEnt) (lo hi : Nat) : Except (Nat × Nat) (List ((Nat × Nat) × Bytes)) :=
  d.rowsAt fs q.geo id q.ten e lo hi

/-- Column events among those given that lie in a frame, counted once (Table 4.12). -/
def frameFaults (fs : List ColFault) (g : Geom) (loc : Loc) : List ColFault :=
  let tiles := (List.range 16).flatMap (fun t => (List.range g.heads).flatMap (fun h => (List.range (g.w / 64)).map (fun i => rowTile g loc t h i)))
  fs.filter (fun f => tiles.contains f.tile)

end Sys2Proof.Machine
end

