-- ==== Sys2Proof/Machine/Merge.lean ====
section
/-! DEFINITION. Segments and merges of flash-decoding partials (R51, R54 to R56, R60). A fault is (INSN, CAUSE) of R75. -/

namespace Sys2Proof.Machine

/-- The presented score s of R51. -/
def presented (int8 : Bool) (d kscale sscale : Nat) : Nat :=
  if int8 then fMul (fMul d kscale) sscale else fMul d sscale

/-- The partial of no key. -/
def emptyPart (d : Nat) : Partial := ⟨BitVec.ofNat 32 fNegInf, 0, List.replicate d 0, 0⟩

/-- All of a list finite (R52). -/
def allFin (l : List Nat) : Bool := l.all fFinite

/-- The second pass of R54 over (s′, value vector) in ascending position. -/
def segGo (int8 : Bool) (vscale ms : Nat) : List (Nat × List Nat) → Nat → List Nat → Nat × List Nat
  | [], l, o => (l, o)
  | (s, v) :: r, l, o =>
    if s = fNegInf then segGo int8 vscale ms r l o else
    let p := fE (fSub s ms)
    let pv := if int8 then fMul p vscale else p
    segGo int8 vscale ms r (fAdd l p) (List.zipWith (fun e ve => fFma pv ve e) o v)

/-- A segment's partial (R54), or a fault of CAUSE 4 where l or o is not finite (R52). -/
def segPart (int8 : Bool) (vscale d : Nat) (ks : List (Nat × List Nat)) : Except (Nat × Nat) Partial :=
  let ms := (ks.map Prod.fst).foldl fMax fNegInf
  if ks.isEmpty ∨ ms = fNegInf then .ok { emptyPart d with keys := ks.length } else
  let (l, o) := segGo int8 vscale ms ks 0 (List.replicate d 0)
  if fFinite l && allFin o then .ok ⟨BitVec.ofNat 32 ms, BitVec.ofNat 32 l, o.map (BitVec.ofNat 32), ks.length⟩
  else .error (63, 4)

/-- KEYS saturates (Table 2.8). -/
def satKeys (n : Nat) : Nat := min n 0xFFFFFFFF

/-- The merge of R55, or a fault of CAUSE 4 (R52). -/
def mergePart (a b : Partial) : Except (Nat × Nat) Partial :=
  let m := fMax a.m.toNat b.m.toNat
  let keys := satKeys (a.keys + b.keys)
  if m = fNegInf then .ok { emptyPart a.o.length with keys := keys } else
  let x := fE (fSub a.m.toNat m)
  let y := fE (fSub b.m.toNat m)
  let l := fAdd (fMul a.l.toNat x) (fMul b.l.toNat y)
  let o := List.zipWith (fun (p q : W32) => fAdd (fMul p.toNat x) (fMul q.toNat y)) a.o b.o
  if fFinite l && allFin o then .ok ⟨BitVec.ofNat 32 m, BitVec.ofNat 32 l, o.map (BitVec.ofNat 32), keys⟩
  else .error (63, 4)

/-- The left fold of R56 from the first segment. -/
def foldPart : Partial → List Partial → Except (Nat × Nat) Partial
  | a, [] => .ok a
  | a, b :: r => match mergePart a b with
    | .error e => .error e
    | .ok c => foldPart c r

/-- One level of a merge tree: pairs merged, an odd last passes up (R56). -/
def treeLevel : List Partial → Except (Nat × Nat) (List Partial)
  | a :: b :: r => match mergePart a b, treeLevel r with
    | .error e, _ => .error e
    | _, .error e => .error e
    | .ok c, .ok l => .ok (c :: l)
  | l => .ok l

/-- A merge tree by levels (fuel: the number of levels). -/
def mergeTree : (levels : Nat) → List Partial → Except (Nat × Nat) (List Partial)
  | 0, l => .ok l
  | n + 1, l => if l.length ≤ 1 then .ok l else match treeLevel l with
    | .error e => .error e
    | .ok l' => mergeTree n l'

/-- The merge tree over an ordered list; none for no partial. -/
def mergeAll (l : List Partial) : Except (Nat × Nat) (Option Partial) :=
  match mergeTree (clog2 l.length) l with
  | .error e => .error e
  | .ok r => .ok r.head?

end Sys2Proof.Machine
end

