-- ==== Sys2Proof/Machine/Codec.lean ====
section
/-! DEFINITION. Exponent coding (chapter 6): table images (R150 to R152), ECX blocks and streams (R146 to R149, R158) and
FRX (R161, R162). Elements are bit patterns. A failure is (CAUSE, SLOT, GEN) of Table 6.12. -/

namespace Sys2Proof.Machine

/-- Exponent bits of an EFMT (Table 6.2). -/
def efExp (e : Nat) : Nat := if e ≤ 1 then 8 else if e = 3 then 4 else 5
/-- Mantissa bits of an EFMT. -/
def efMan (e : Nat) : Nat := if e = 0 then 23 else if e = 1 then 7 else if e = 2 then 10 else if e = 3 then 3 else 2
/-- Element size in bytes. -/
def efSize (e : Nat) : Nat := if e = 0 then 4 else if e ≤ 2 then 2 else 1
/-- The exponent field of an element. -/
def efE (e p : Nat) : Nat := fld p (efMan e) (efExp e)
/-- Sign then mantissa, as one number of 1 + M bits. -/
def efSM (e p : Nat) : Nat := fld p (efExp e + efMan e) 1 * 2 ^ efMan e + fld p 0 (efMan e)
/-- An element from its exponent and its sign and mantissa. -/
def efMk (e x sm : Nat) : Nat := sm / 2 ^ efMan e * 2 ^ (efExp e + efMan e) + x * 2 ^ efMan e + sm % 2 ^ efMan e

/-- Raw bytes as elements. -/
def elemsOf (e : Nat) (bs : Bytes) : List Nat := (chunksB (bs.length / efSize e) (efSize e) bs).map leNat
/-- Elements as raw bytes. -/
def elemBytes (e : Nat) (l : List Nat) : Bytes := l.flatMap (leBytes (efSize e))
/-- Elements in blocks of 64. -/
def blocks64 : (fuel : Nat) → List Nat → List (List Nat)
  | 0, _ => []
  | _ + 1, [] => []
  | k + 1, l => l.take 64 :: blocks64 k (l.drop 64)

/-! ### Bit streams, most significant bit first (R147) -/

/-- `n` bits of a number, most significant first. -/
def msb : (n v : Nat) → List Bool
  | 0, _ => []
  | n + 1, v => decide (v / 2 ^ n % 2 = 1) :: msb n v

/-- The number that bits give, most significant first. -/
def ofMsb (l : List Bool) : Nat := l.foldl (fun a b => 2 * a + b2n b) 0

/-- Bytes as bits. -/
def bitsOf (bs : Bytes) : List Bool := bs.flatMap (fun b => msb 8 b.toNat)

/-- Bits as bytes, padded with zeros (fuel: number of bytes). -/
def packBits : (fuel : Nat) → List Bool → Bytes
  | 0, _ => []
  | _ + 1, [] => []
  | k + 1, l =>
    let h := l.take 8
    BitVec.ofNat 8 (ofMsb (h ++ List.replicate (8 - h.length) false)) :: packBits k (l.drop 8)

/-! ### Tables -/

/-- COUNT[l] of a table image. -/
def tblCount (im : Bytes) (l : Nat) : Nat := leAt im (16 + l) 1
/-- SYM[n] of a table image. -/
def tblSym (im : Bytes) (n : Nat) : Nat := leAt im (32 + 2 * n) 2
def tblEfmt (im : Bytes) : Nat := fld (leAt im 0 16) 11 3
def tblGen (im : Bytes) : Nat := fld (leAt im 0 16) 16 8
/-- The symbol of an entry; its upper bits are reserved (R150). -/
def tblSymVal (im : Bytes) (n : Nat) : Nat := tblSym im n % 512
def tblNsym (im : Bytes) : Nat := fld (leAt im 0 16) 24 9

/-- Codes of one length: (length, code, symbol), from symbol n. -/
def codesOf (im : Bytes) (len : Nat) : (k n code : Nat) → List (Nat × Nat × Nat)
  | 0, _, _ => []
  | k + 1, n, code => (len, code, tblSym im n) :: codesOf im len k (n + 1) (code + 1)

/-- The canonical codes of R151 for lengths from `len` on. -/
def codesFrom (im : Bytes) : (fuel len n code : Nat) → List (Nat × Nat × Nat)
  | 0, _, _, _ => []
  | f + 1, len, n, code =>
    let k := tblCount im len
    codesOf im len k n code ++ codesFrom im f (len + 1) (n + k) (2 * (code + k))

/-- All codes of a table. -/
def tblCodes (im : Bytes) : List (Nat × Nat × Nat) := codesFrom im 15 1 0 0

/-- The code of a symbol, if the table lists it. -/
def codeFor (cs : List (Nat × Nat × Nat)) (sym : Nat) : Option (List Bool) :=
  (cs.find? (fun c => c.2.2 = sym)).map (fun c => msb c.1 c.2.1)

/-- The validation of R152 but for its last case; `encBusy` says whether another loaded slot that is not draining codes
an EFMT. The REASON and SLOT of the first case that applies. COUNT[0] and entries past NSYM that are not 0 count as reserved bits, and an
image of another length names slot 0 (log entry 134, DESIGN CHOICE). -/
def tblCheck (im : Bytes) (encBusy : Nat → Nat → Bool) : Option (Nat × Nat) :=
  let h := leAt im 0 16
  let slot := fld h 8 3
  let ef := fld h 11 3
  let nsym := tblNsym im
  let lens := (List.range 15).map (· + 1)
  let syms := (List.range nsym).map (tblSymVal im)
  let exps := syms.filter (· < 2 ^ efExp ef)
  if im.length ≠ 560 then some (11, 0) else
  if fld h 0 8 ≠ 1 then some (2, slot) else
  if 4 < ef then some (3, slot) else
  if fld h 16 8 = 0 then some (8, slot) else
  if nsym < 2 ∨ 2 ^ efExp ef + 2 < nsym ∨ sumN (lens.map (tblCount im)) ≠ nsym then some (4, slot) else
  if sumN (lens.map (fun l => tblCount im l * 2 ^ (15 - l))) ≠ 2 ^ 15 then some (5, slot) else
  if syms.any (fun s => !(s < 2 ^ efExp ef ∨ s = 0x100 ∨ s = 0x101)) ∨ syms.eraseDups.length ≠ nsym ∨
      ((0x101 ∈ syms) ↔ exps.length = 2 ^ efExp ef) then some (6, slot) else
  if fld h 14 1 = 1 ∧ encBusy slot ef then some (7, slot) else
  if fld h 15 1 ≠ 0 ∨ h / 2 ^ 33 ≠ 0 ∨ (List.range nsym).any (fun i => tblSym im i ≠ tblSymVal im i) ∨ tblCount im 0 ≠ 0 ∨ (sliceB im 548 12).any (· ≠ 0) ∨
      ((List.range (258 - nsym)).any (fun i => tblSym im (nsym + i) ≠ 0)) then some (9, slot) else none

/-! ### ECX -/

/-- The code bits of one element: Z, its exponent's code, or ESC and the exponent (R148). -/
def ecxCode (cs : List (Nat × Nat × Nat)) (ef p : Nat) : Bool × List Bool :=
  match (if p = 0 then codeFor cs 0x100 else none) with
  | some z => (true, z)
  | none => match codeFor cs (efE ef p) with
    | some c => (false, c)
    | none => (false, (codeFor cs 0x101).getD [] ++ msb (efExp ef) (efE ef p))

/-- A block header (Table 6.3). -/
def ecxHdr (mode slot gen lenb : Nat) : Bytes := leBytes 3 (pack [(0, 2, mode), (2, 3, slot), (5, 8, gen), (13, 9, lenb)])

/-- One block of 64 elements; `cs` are the coding slot's slot number, generation and codes, if the stream has one (R148). -/
def ecxEncBlock (ef : Nat) (slot : Option (Nat × Nat × List (Nat × Nat × Nat))) (l : List Nat) : Bytes :=
  let raw := ecxHdr 0 0 0 (3 + 64 * efSize ef) ++ elemBytes ef l
  if l.all (· = 0) then ecxHdr 2 0 0 3 else
  match slot with
  | none => raw
  | some (s, g, cs) =>
    let es := l.map (fun p => (ecxCode cs ef p, p))
    let xb := es.flatMap (fun e => e.1.2)
    let sb := es.flatMap (fun e => if e.1.1 then [] else msb (1 + efMan ef) (efSM ef e.2))
    let body := packBits (cdiv xb.length 8) xb ++ packBits (cdiv sb.length 8) sb
    if 3 + body.length < 3 + 64 * efSize ef then ecxHdr 1 s g (3 + body.length) ++ body else raw

/-- Reads one code (fuel: 15 bits): the symbol and the bits left. -/
def readCode (cs : List (Nat × Nat × Nat)) : (fuel len v : Nat) → List Bool → Option (Nat × List Bool)
  | 0, _, _, _ => none
  | _ + 1, _, _, [] => none
  | f + 1, len, v, b :: r =>
    let v' := 2 * v + b2n b
    match cs.find? (fun c => c.1 = len + 1 ∧ c.2.1 = v') with
    | some c => some (c.2.2, r)
    | none => readCode cs f (len + 1) v' r

/-- Reads the exponents of `n` elements (none for Z): the cause of a failure, or the exponents and the bits used. -/
def readExps (cs : List (Nat × Nat × Nat)) (ef : Nat) : (n : Nat) → List Bool → Except Nat (List (Option Nat) × List Bool)
  | 0, b => .ok ([], b)
  | n + 1, b =>
    match readCode cs 15 0 0 b with
    | none => .error 5
    | some (s, r) =>
      let next (x : Option Nat) (r : List Bool) := match readExps cs ef n r with
        | .error c => .error c
        | .ok (xs, r') => .ok (x :: xs, r')
      if s = 0x100 then next none r else
      if s = 0x101 then
        (let x := ofMsb (r.take (efExp ef))
         if r.length < efExp ef then .error 5 else
         if (codeFor cs x).isSome then .error 4 else next (some x) (r.drop (efExp ef)))
      else next (some s) r

/-- Reads signs and mantissas. -/
def readSM (ef : Nat) : List (Option Nat) → List Bool → Except Nat (List Nat × List Bool)
  | [], b => .ok ([], b)
  | none :: r, b => match readSM ef r b with
    | .error c => .error c
    | .ok (l, b') => .ok (0 :: l, b')
  | some x :: r, b =>
    if b.length < 1 + efMan ef then .error 5 else
    match readSM ef r (b.drop (1 + efMan ef)) with
    | .error c => .error c
    | .ok (l, b') => .ok (efMk ef x (ofMsb (b.take (1 + efMan ef))) :: l, b')

/-- Decodes one block at the front of a byte string: the elements and LENB. `look` gives a slot's image while loaded or
draining. Where several checks fail, the CAUSE is that of the first in the order of the definition: length of the header, MODE and reserved bits,
length of the block, slot and generation, format, codes, then padding and LENB (log entry 135, DESIGN CHOICE). -/
def ecxDecBlock (look : Nat → Option Bytes) (ef : Nat) (bs : Bytes) : Except (Nat × Nat × Nat) (List Nat × Nat) :=
  let h := leAt bs 0 3
  let mode := fld h 0 2
  let slot := fld h 2 3
  let gen := fld h 5 8
  let lenb := fld h 13 9
  let fail (c : Nat) : Except (Nat × Nat × Nat) (List Nat × Nat) := .error (c, slot, gen)
  if bs.length < 3 then fail 5 else
  if mode = 3 ∨ fld h 22 2 ≠ 0 ∨ (mode ≠ 1 ∧ (slot ≠ 0 ∨ gen ≠ 0)) then fail 1 else
  if bs.length < lenb then fail 5 else
  if mode = 0 then (if lenb = 3 + 64 * efSize ef then .ok (elemsOf ef ((bs.drop 3).take (64 * efSize ef)), lenb) else fail 5) else
  if mode = 2 then (if lenb = 3 then .ok (List.replicate 64 0, 3) else fail 5) else
  match look slot with
  | none => fail 2
  | some im =>
    if tblGen im ≠ gen then fail 2 else if tblEfmt im ≠ ef then fail 3 else
    let body := (bs.take lenb).drop 3
    let xb := bitsOf body
    match readExps (tblCodes im) ef 64 xb with
    | .error c => fail c
    | .ok (xs, rest) =>
      let used := cdiv (xb.length - rest.length) 8
      let sb := bitsOf (body.drop used)
      match readSM ef xs sb with
      | .error c => fail c
      | .ok (l, rest') =>
        let used' := cdiv (sb.length - rest'.length) 8
        if ((rest.take (8 * used - (xb.length - rest.length))).any id) ∨
           ((rest'.take (8 * used' - (sb.length - rest'.length))).any id) ∨ lenb ≠ 3 + used + used' then fail 5
        else .ok (l, lenb)

/-- A coded stream (R158) of elements. -/
def ecxEncode (ef : Nat) (slot : Option (Nat × Nat × Bytes)) (els : List Nat) : Bytes :=
  let bl := blocks64 (els.length / 64 + 1) els
  let st := slot.map (fun (s, g, im) => (s, g, tblCodes im))
  let body := bl.flatMap (ecxEncBlock ef st)
  let body := body ++ List.replicate ((8 - body.length % 8) % 8) 0
  let t := leBytes 8 (pack [(0, 32, crc32c (elemBytes ef els)), (32, 24, bl.length), (56, 3, ef)])
  let s := body ++ t
  s ++ List.replicate ((64 - s.length % 64) % 64) 0

/-- Decodes `n` blocks from index `i`: elements and bytes used, or the failing block's index and cause. -/
def ecxBlocks (look : Nat → Option Bytes) (ef : Nat) : (n i : Nat) → Bytes → Except (Nat × Nat × Nat × Nat) (List Nat × Nat)
  | 0, _, _ => .ok ([], 0)
  | n + 1, i, bs =>
    match ecxDecBlock look ef bs with
    | .error e => .error (i, e)
    | .ok (l, k) => match ecxBlocks look ef n (i + 1) (bs.drop k) with
      | .error e => .error e
      | .ok (l', k') => .ok (l ++ l', k + k')

/-- Decodes a stream of `n` blocks (R158): the elements, or (BLOCK, CAUSE, SLOT, GEN). A trailer that fails is reported with BLOCK n, SLOT 0 and GEN 0 (log
entry 154, DESIGN CHOICE). -/
def ecxDecode (look : Nat → Option Bytes) (ef n : Nat) (bs : Bytes) : Except (Nat × Nat × Nat × Nat) (List Nat) :=
  match ecxBlocks look ef n 0 bs with
  | .error e => .error e
  | .ok (els, k) =>
    let p := (8 - k % 8) % 8
    let t := leAt bs (k + p) 8
    let z := (64 - (k + p + 8) % 64) % 64
    if bs.length < k + p + 8 + z ∨ (sliceB bs k p).any (· ≠ 0) ∨ (sliceB bs (k + p + 8) z).any (· ≠ 0) then .error (n, 5, 0, 0) else
    if fld t 59 5 ≠ 0 ∨ 4 < fld t 56 3 then .error (n, 1, 0, 0) else
    if fld t 0 32 ≠ crc32c (elemBytes ef els) ∨ fld t 32 24 ≠ n ∨ fld t 56 3 ≠ ef then .error (n, 6, 0, 0) else .ok els

/-- Total bytes of the stream at the front of a byte string, given its elements' count (its padding included). -/
def ecxLen (k : Nat) : Nat := (k + (8 - k % 8) % 8 + 8 + 63) / 64 * 64

/-! ### FRX -/

/-- Bytes of one FRX block (R161). -/
def frxSB (ef k : Nat) : Nat := 8 * (1 + k + efMan ef)
/-- Offset of the base array for n elements. -/
def frxBase (ef k n : Nat) : Nat := (n / 64 * frxSB ef k + 63) / 64 * 64
/-- Bytes of an FRX region's data and base arrays. -/
def frxLen (ef k n : Nat) : Nat := frxBase ef k n + n / 64

/-- One block: data bytes and base exponent (R162). -/
def frxEncBlock (ef k : Nat) (l : List Nat) : Bytes × Nat :=
  let b := (l.map (efE ef)).foldl Nat.max 0
  let f (p : Nat) : Nat :=
    if b - efE ef p ≤ 2 ^ k - 2 then efSM ef p / 2 ^ efMan ef * 2 ^ (k + efMan ef) + (b - efE ef p) * 2 ^ efMan ef + efSM ef p % 2 ^ efMan ef
    else efSM ef p / 2 ^ efMan ef * 2 ^ (k + efMan ef) + (2 ^ k - 1) * 2 ^ efMan ef
  (packBits (frxSB ef k) (l.flatMap (fun p => msb (1 + k + efMan ef) (f p))), b)

/-- A region's FRX bytes. -/
def frxEncode (ef k : Nat) (els : List Nat) : Bytes :=
  let bl := (blocks64 (els.length / 64 + 1) els).map (frxEncBlock ef k)
  let d := bl.flatMap Prod.fst
  d ++ List.replicate (frxBase ef k els.length - d.length) 0 ++ bl.map (fun b => BitVec.ofNat 8 b.2)

/-- One block decoded from its data bytes and its base exponent. -/
def frxDecBlock (ef k b : Nat) (d : Bytes) : List Nat :=
  let bits := bitsOf d
  let w := 1 + k + efMan ef
  (List.range 64).map (fun j =>
    let v := ofMsb ((bits.drop (j * w)).take w)
    let s := v / 2 ^ (k + efMan ef)
    let o := v / 2 ^ efMan ef % 2 ^ k
    if o = 2 ^ k - 1 then efMk ef 0 (s * 2 ^ efMan ef) else efMk ef ((b + 2 ^ 8 - o) % 2 ^ efExp ef) (s * 2 ^ efMan ef + v % 2 ^ efMan ef))

/-- Elements of FRX bytes. -/
def frxDecode (ef k n : Nat) (bs : Bytes) : List Nat :=
  (List.range (n / 64)).flatMap (fun i =>
    frxDecBlock ef k (leAt bs (frxBase ef k n + i) 1) (sliceB bs (i * frxSB ef k) (frxSB ef k)))

end Sys2Proof.Machine
end

