-- ==== Sys2Proof/Machine/PoolCore.lean ====
section
/-! DEFINITION. The shared pool's storage (chapter 8): pool units and their checks (R211, R212, R232), storage spaces (R214), run
contents, digests (R348), liveness and freeing of versions (R213, R228), and the ends of drafts and readers (R225, R226). -/

namespace Sys2Proof.Machine

/-! ### Units (R211, R212) -/

/-- The tile address of line i of a unit (log entry 25, DESIGN CHOICE). -/
def PUnit.tile (u : PUnit) (i : Nat) : Nat :=
  match u.loc with
  | .t1 s c f => tileAddr s c (i % 32) (64 * f + i / 32 * 64)
  | .t0 f => 2 ^ 33 + 32 * f + i
  | _ => 0

/-- A line of a unit. -/
def PUnit.line (u : PUnit) (i : Nat) : W512 := mgetD u.lines i 0
/-- The 4,096 bytes of a unit. -/
def PUnit.bytes (u : PUnit) : Bytes := (List.range 64).flatMap (fun i => wBytes (u.line i))

/-- The lines of a unit's bytes, zero lines unlisted. -/
def unitLines (bs : Bytes) : NMap W512 := ((linesB bs).zipIdx.filter (fun l => decide (l.1 ≠ 0))).map (fun l => (l.2, l.1))

/-- LOC of a pool tile (R212). -/
def poolLoc (region byteOff : Nat) : Nat := (region * 2 ^ 22 + byteOff / 64 % 2 ^ 22) % 2 ^ 32

/-- The first tile of a unit that fails its check, with the cause: 1 check, 2 uncorrectable column (R212, R98). -/
def Dev.unitTiles (d : Dev) (ten : Nat) (fs : List ColFault) (u : PUnit) : Option (Nat × Nat) :=
  (List.range 64).findSome? (fun i =>
    let a := u.tile i
    match faultAt fs a with
    | some .uncorrectable => some (if a < 2 ^ 33 then 2 else 1, a)
    | some (.flipped m) =>
      let b := d.garbled a ⟨u.line i, 0, ten, d.gen ten, u.ver⟩ m
      if crc32c b = crc32c (wBytes (u.line i)) then none else some (1, a)
    | _ => none)

/-- The seal of a T1 unit over its 64 tiles as stored, some with changed bits (R336). -/
def Dev.unitSeal (d : Dev) (ten : Nat) (fs : List ColFault) (u : PUnit) : W64 :=
  match u.loc with
  | .t1 s c f =>
    let km := d.tkey ten "MAC"
    let k := d.tileKeys ten (d.gen ten)
    let h := sealHash km s c f 0 0 u.ver
    BitVec.ofNat 64 ((List.range 64).foldl (fun acc i =>
      let st := k.store (u.tile i) u.ver (wBytes (u.line i)) 0
      acc ^^^ sealTile h i (match faultAt fs (u.tile i) with
        | some (.flipped m) => flipBits m st
        | _ => st).1) (sealPad km s c f 0 0 63 u.ver))
  | _ => u.mac

/-- Whether the MAC of a T1 unit holds: it is compared where a fault changed stored bits. -/
def Dev.unitMac (d : Dev) (ten : Nat) (fs : List ColFault) (u : PUnit) : Bool :=
  let flips := (List.range 64).any (fun i => match faultAt fs (u.tile i) with
    | some (.flipped m) => decide (m ≠ 0)
    | _ => false)
  !flips || decide (d.unitSeal ten fs u = u.mac)

/-- A unit with the seal of what it holds. -/
def Dev.sealed (d : Dev) (ten : Nat) (u : PUnit) : PUnit := { u with mac := d.unitSeal ten [] u }

/-- A unit's failure, if a read of it fails. -/
def Dev.unitBad (d : Dev) (ten : Nat) (fs : List ColFault) (u : PUnit) : Option (Nat × Nat) :=
  match d.unitTiles ten fs u with
  | some e => some e
  | none => if d.unitMac ten fs u then none else some (3, u.tile 0)

/-- The tenant of a region. -/
def Dev.regionTen (d : Dev) (r : Nat) : Nat := match mget d.shp.regions r with
  | none => 0
  | some g => g.p.ten

/-- Reads a unit by ordinary claims for a request of a tag: the status of a failure, which is reported and re-read (R98, R206, R212, R232). -/
def Dev.useUnit (d : Dev) (fs : List ColFault) (tag id : Nat) : Option St × Dev :=
  match mget d.shp.units id with
  | none => (none, d)
  | some u =>
    if u.failed then (some .tierError, d) else
    let mine := fs.filter (fun f => (List.range 64).any (fun i => decide (u.tile i = f.tile)))
    let d := (d.eccAll mine).claimUnit u.loc false
    let ten := d.regionTen u.region
    match d.unitBad ten mine u with
    | none => (none, d)
    | some (c, a) =>
      let j : JInfo := { tenant := ten, part := d.partOf ten, tag := tag, arg := u.region }
      let d := d.readFault a c true (12 * 4096) j []
      let d := if (d.unitBad ten (rereadFaults [] mine) u).isNone then d else
        { d with shp := { d.shp with units := mset d.shp.units id { u with failed := true } } }
      (some (if c = 2 then .tierError else .integrity), d)

/-- Reads several units in order; the first failure ends it. With it the units that were read: a FAILED one is not (R232). -/
def Dev.useUnits (fs : List ColFault) (tag : Nat) : List Nat → Dev → (Option St × List Nat) × Dev
  | [], d => ((none, []), d)
  | id :: r, d =>
    let was := (match mget d.shp.units id with
      | none => []
      | some u => if u.failed then [] else [id])
    match d.useUnit fs tag id with
    | (some e, d) => ((some e, was), d)
    | (none, d) =>
      let (o, d) := Dev.useUnits fs tag r d
      ((o.1, was ++ o.2), d)

/-- Units sealed over what they now hold. -/
def Dev.seals (d : Dev) (p : Nat → PUnit → Bool) : Dev :=
  { d with shp := { d.shp with units := mmap d.shp.units (fun id u => if p id u then d.sealed (d.regionTen u.region) u else u) } }

/-! ### Space (R211) -/

/-- The pool's limit in KiB. -/
def Dev.poolLimit (d : Dev) : Nat := d.reg (rk 0x00900000 0) * 2 ^ 20

/-- Unit-map blocks of versions prepared for a publish: their storage is taken before the swap. -/
def Dev.prepBlocks (d : Dev) : Nat :=
  sumN (d.shp.drafts.map (fun e => match e.2.pub with
    | none => 0
    | some (_, v, _) =>
      let old := match mget d.shp.regions e.2.region with
        | none => []
        | some g => g.versions.flatMap mapBlocks
      ((mapBlocks v).filter (fun b => !old.contains b)).length))

/-- Whether the pool may take some KiB more. -/
def Dev.poolRoom (d : Dev) (kib : Nat) : Bool :=
  decide (d.poolKib + d.prepBlocks + kib ≤ d.poolLimit ∧ d.prepBlocks + kib ≤ d.t1Open)

/-- A new unit in T1 holding some bytes, on the first die with room from one that its place in the region gives. -/
def Dev.newUnit (d : Dev) (region off : Nat) (bs : Bytes) : Option (Nat × Dev) :=
  if !d.poolRoom 4 then none else
  match d.pickDie 1 128 (region + off) with
  | none => none
  | some (s, c, f) =>
    let (v, d) := d.takeVer (granule s c f)
    let id := d.shp.nextUnit
    let u := d.sealed (d.regionTen region) ⟨.t1 s c f, v, region, off, unitLines bs, 0, 0, d.shp.pnow, false⟩
    some (id, ({ d with shp := { d.shp with units := mset d.shp.units id u, nextUnit := id + 1 } }).claimUnit u.loc true)

/-- New units for several (storage unit, bytes). -/
def Dev.newUnits (region : Nat) : List (Nat × Bytes) → Dev → Option (List Nat × Dev)
  | [], d => some ([], d)
  | (o, b) :: r, d => match d.newUnit region o b with
    | none => none
    | some (i, d) => match Dev.newUnits region r d with
      | none => none
      | some (l, d) => some (i :: l, d)

/-! ### Storage spaces and runs (R158 to R162, R214) -/

/-- Raw bytes, elements of one run, and runs of a region. -/
def rpRaw (p : RegionProps) : Nat := p.n * efSize p.efmt
def rpRuns (p : RegionProps) : Nat := p.n / 4096
def rpRunBytes (p : RegionProps) : Nat := 4096 * efSize p.efmt
/-- Bytes of the run directory, in whole 4 KiB units (R214). -/
def rpDirBytes (p : RegionProps) : Nat := cdiv (8 * (rpRuns p)) 4096 * 4096

/-- Bytes of a version's storage space. -/
def Dev.stored (d : Dev) (v : Version) (off len : Nat) : Bytes :=
  let u0 := off / 4096
  let bs := (List.range (cdiv (off + len) 4096 - u0)).flatMap (fun i =>
    match (mget v.units (u0 + i)).bind (mget d.shp.units) with
    | none => List.replicate 4096 0
    | some u => u.bytes)
  sliceB bs (off % 4096) len

/-- The storage units that hold a range. -/
def spanUnits (off len : Nat) : List Nat := if len = 0 then [] else (List.range ((off + len - 1) / 4096 - off / 4096 + 1)).map (off / 4096 + ·)

/-- The pool units that a version names for storage units. -/
def Version.ids (v : Version) (us : List Nat) : List Nat := us.filterMap (mget v.units)

/-- The directory entry of a run: byte offset and length of its stream in the storage space (R160). -/
def Dev.runStream (d : Dev) (p : RegionProps) (v : Version) (r : Nat) : Nat × Nat :=
  let e := leNat (d.stored v (8 * r) 8)
  ((rpDirBytes p) + 64 * fld e 0 33, 64 * fld e 33 9)

/-- The parts of the storage space that elements from `e0`, `n` of them, are read from: (offset, length). -/
def Dev.elemSpans (d : Dev) (p : RegionProps) (v : Version) (e0 n : Nat) : List (Nat × Nat) :=
  match p.coding with
  | 0 => [(e0 * efSize p.efmt, n * efSize p.efmt)]
  | 2 => [(e0 / 64 * frxSB p.efmt p.k, n / 64 * frxSB p.efmt p.k), (frxBase p.efmt p.k p.n + e0 / 64, n / 64)]
  | _ =>
    let rs := (List.range (cdiv (e0 + n) 4096 - e0 / 4096)).map (e0 / 4096 + ·)
    rs.flatMap (fun r => [(8 * r, 8), d.runStream p v r])

/-- A loaded or draining table slot's image. -/
def Dev.tblLook (d : Dev) (s : Nat) : Option Bytes := (mget d.cmp s).map (·.image)

/-- The coding slot of an EFMT: loaded, not draining, with ENC (R155). -/
def Dev.encSlot (d : Dev) (ef : Nat) : Option (Nat × Nat × Bytes) :=
  (d.cmp.find? (fun e => decide (e.2.state = 1 ∧ fld (leAt e.2.image 0 16) 14 1 = 1) && decide (tblEfmt e.2.image = ef ∧ e.2.refs < 0xFFFFFFFF))).map
    (fun e => (e.1, tblGen e.2.image, e.2.image))

/-- A coded stream failed (R149): counted, recorded and reported. USE is 0 stage-back, 1 received image, 2 pool read. -/
def Dev.streamFail (d : Dev) (e : Nat × Nat × Nat × Nat) (use ten : Nat) (j : JInfo) : Dev :=
  let (blk, cause, slot, g) := e
  let fields := [(rk 0x00700038 0, cause), (rk 0x00700038 4, slot), (rk 0x00700038 8, g),
    (rk 0x00700038 16, use), (rk 0x00700038 20, ten), (rk 0x00700038 32, min blk 0xFFFFFFFF)]
  (d.bump (rk 0x00700030 0) 64 1).fault { j with code := 4, sub := cause, engine := 4 * 4096, tenant := ten, part := d.partOf ten } true
    (fields.map (fun f => .field f.1 f.2))

/-- Raw bytes of elements, a multiple of 64 from a multiple of 64, or the failure of a run's stream with the blocks decoded before it
(R164). -/
def Dev.elems (d : Dev) (p : RegionProps) (v : Version) (e0 n : Nat) : Except ((Nat × Nat × Nat × Nat) × Nat) Bytes :=
  match p.coding with
  | 0 => .ok (d.stored v (e0 * efSize p.efmt) (n * efSize p.efmt))
  | 2 =>
    let sb := frxSB p.efmt p.k
    .ok ((List.range (n / 64)).flatMap (fun i =>
      let b := e0 / 64 + i
      elemBytes p.efmt (frxDecBlock p.efmt p.k (leNat (d.stored v (frxBase p.efmt p.k p.n + b) 1)) (d.stored v (b * sb) sb))))
  | _ =>
    let r0 := e0 / 4096
    let rec go : Nat → Nat → Except ((Nat × Nat × Nat × Nat) × Nat) Bytes
      | 0, _ => .ok []
      | k + 1, r =>
        let (o, l) := d.runStream p v r
        match ecxDecode d.tblLook p.efmt 64 (d.stored v o l) with
        | .error e => .error (e, 64 * (r - r0) + e.1)
        | .ok els => match go k (r + 1) with
          | .error e => .error e
          | .ok bs => .ok (elemBytes p.efmt els ++ bs)
    match go (cdiv (e0 + n) 4096 - r0) r0 with
    | .error e => .error e
    | .ok bs => .ok (sliceB bs ((e0 - 4096 * r0) * efSize p.efmt) (n * efSize p.efmt))

/-- Blocks that decoding some elements takes. -/
def rpDecBlocks (p : RegionProps) (e0 n : Nat) : Nat :=
  match p.coding with
  | 0 => 0
  | 2 => n / 64
  | _ => 64 * (cdiv (e0 + n) 4096 - e0 / 4096)

/-! ### Digests (R348) -/

/-- The digest of a run of zero elements. -/
def rpZeroDig (p : RegionProps) : Bytes := shake256 64 (List.replicate (rpRunBytes p) 0)

/-- The version digest. -/
def versionDigest (region : Nat) (p : RegionProps) (num : Nat) (dig : NMap Bytes) : Bytes :=
  shake256 64 (leBytes 2 region ++ leBytes 1 p.efmt ++ leBytes 1 p.coding ++ leBytes 1 p.k ++ leBytes 3 p.rowlen ++ leBytes 5 p.n ++
    leBytes 3 0 ++ leBytes 4 num ++ leBytes 4 0 ++ (List.range (rpRuns p)).flatMap (fun r => mgetD dig r (rpZeroDig p)))

/-- The log event of a region (Table 13.10): EVT 0 publish or creation, 1 deletion. -/
def Dev.poolEvent (d : Dev) (region : Nat) (p : RegionProps) (v : Version) (evt : Nat) : Dev :=
  d.mlog (pack [(0, 8, 6), (16, 4, p.part), (20, 12, p.ten), (40, 3, p.efmt), (43, 2, p.coding), (48, 10, region), (64, 32, v.num),
    (120, 4, evt)]) v.digest

/-! ### Liveness and freeing (R213, R228) -/

/-- Whether a version of a region is live. -/
def Dev.verLive (d : Dev) (region : Nat) (g : Region) (n : Nat) : Bool :=
  decide (g.current = n) || d.shp.readers.any (fun r => decide (r.2.region = region ∧ r.2.ver = n)) ||
  d.shp.drafts.any (fun x => decide (x.2.region = region ∧ x.2.base = n))

/-- Slots that a version's streams name. -/
def Version.slots (v : Version) : List Nat := (v.runSlot.map Prod.snd).eraseDups

/-- Adds to the stored references of table slots (R154), or takes one from each. -/
def Dev.tblRef (d : Dev) (add : Bool) (ss : List Nat) : Dev :=
  { d with cmp := ss.foldl (fun m s => mmod m s (fun t => { t with refs := if add then t.refs + 1 else t.refs - 1 })) d.cmp }

/-- Frees the versions of a region that are no longer live; a deleting region without an open handle goes. -/
def Dev.reapRegion (d : Dev) (i : Nat) : Dev :=
  match mget d.shp.regions i with
  | none => d
  | some g =>
    let gone := g.deleting && !d.shp.readers.any (fun r => decide (r.2.region = i))
    let dead := if gone then g.versions else g.versions.filter (fun v => !d.verLive i g v.num)
    let d := dead.foldl (fun d v => d.tblRef false v.slots) d
    if gone then { d with shp := { d.shp with regions := mdel d.shp.regions i } }
    else { d with shp := { d.shp with regions := mset d.shp.regions i { g with versions := g.versions.filter (fun v => d.verLive i g v.num) } } }

/-- Frees units that no live version, no draft and no prepared version names. -/
def Dev.reapUnits (d : Dev) : Dev :=
  let named := d.shp.regions.flatMap (fun g => g.2.versions.flatMap (fun v => v.units.map Prod.snd)) ++
    d.shp.drafts.flatMap (fun x => x.2.units ++ (match x.2.pub with
      | none => []
      | some (_, _, us) => us))
  { d with shp := { d.shp with units := mfilter d.shp.units (fun i _ => named.contains i) } }

/-- The beat in which holders release: versions, then units. -/
def Dev.poolReap (d : Dev) : Dev := ((d.shp.regions.map Prod.fst).foldl Dev.reapRegion d).reapUnits

/-! ### Ends of readers and drafts (R218, R225, R226) -/

/-- Closes a reader handle; its slot's generation advances (R218). -/
def Dev.closeReader (d : Dev) (slot : Nat) : Dev :=
  { d with shp := { d.shp with readers := mdel d.shp.readers slot, readerGen := mset d.shp.readerGen slot (mgetD d.shp.readerGen slot 0 + 1) } }

/-- The fields of SHP_LASTERR for a status (R233). -/
def poolLastFields (w : Work) (st : St) : List (Nat × Nat) :=
  if st = .ok then [] else
  [(rk 0x00900040 0, stCode st), (rk 0x00900040 8, plOp w.desc), (rk 0x00900040 12, plRegion w.desc), (rk 0x00900040 22, plTen w.desc)]

/-- VERSION and HANDLE of a request that ends without its effect (R217): the base of the draft that its handle names, and for PUBLISH the
region's current version; 0 where the request's tenant has no such region or draft. Log entry 141, DESIGN CHOICE. -/
def Dev.plLast (d : Dev) (w : Work) : Nat × Nat :=
  let x := w.desc
  match mget d.shp.regions (plRegion x) with
  | none => (0, 0)
  | some g =>
    if g.p.ten ≠ plTen x ∨ g.p.part ≠ plPart x then (0, 0) else
    if plOp x = 5 then (0, g.current) else
    if plOp x ≠ 3 ∧ plOp x ≠ 4 then (0, 0) else
    match mget d.shp.drafts (fld (plHandle x) 0 8) with
    | none => (0, 0)
    | some y => (if y.gen = fld (plHandle x) 8 24 ∧ y.region = plRegion x then y.base else 0, 0)

/-- The answer to a pool request other than GATHER (R217), recorded when its status is not ST_OK (R233); `d0` is the node before a
fault that the work met (R378). -/
def Dev.poolAnswerAfter (d0 d : Dev) (w : Work) (st : St) (conflict : Bool) (version handle : Nat) : Dev :=
  Dev.answerAfter d0 (Dev.fieldsAfter d0 d (poolLastFields w st)) w.src (plRqp w.desc) (plRoff w.desc) (plTag w.desc) (plTen w.desc) 3
    (stCode st) 0 [(0, plRecord w.desc st conflict version handle)]

def Dev.poolAnswer (d : Dev) (w : Work) (st : St) (conflict : Bool) (version handle : Nat) : Dev :=
  Dev.poolAnswerAfter d d w st conflict version handle

/-- The references that a prepared version holds on table slots from its coding on (R154, R155) end. -/
def Dev.unrefPub (d : Dev) (slot : Nat) : Dev :=
  match (mget d.shp.drafts slot).bind Draft.pub with
  | none => d
  | some (_, v, _) => d.tblRef false v.slots

/-- Frees a draft's slot. -/
def Dev.dropDraft (d : Dev) (slot : Nat) : Dev :=
  let d := d.unrefPub slot
  { d with shp := { d.shp with drafts := mdel d.shp.drafts slot, draftGen := mset d.shp.draftGen slot (mgetD d.shp.draftGen slot 0 + 1) } }

/-- Ends a draft unpublished: an accepted publish ends with a status, and ABORTED counts (R225, Table 8.9). -/
def Dev.abortDraft (d : Dev) (st : St) (slot : Nat) : Dev :=
  match mget d.shp.drafts slot with
  | none => d
  | some x =>
    let d := (d.dropDraft slot).bump (rk 0x00900030 32) 32 1
    match x.pub with
    | none => d
    | some (w, _, _) => d.poolAnswer w st false 0 (d.plLast w).2

/-- Ends every draft that passes a test. -/
def Dev.abortDrafts (d : Dev) (st : St) (p : Draft → Bool) : Dev :=
  ((d.shp.drafts.filter (fun x => p x.2)).map Prod.fst).foldl (fun d s => d.abortDraft st s) d

/-- Closes every reader that passes a test. -/
def Dev.closeReaders (d : Dev) (p : Reader → Bool) : Dev :=
  ((d.shp.readers.filter (fun x => p x.2)).map Prod.fst).foldl Dev.closeReader d

/-- The end of everything that functions own (R226, Table 8.5): `own` tests (node, function). -/
def Dev.abortOwner (d : Dev) (own : Nat → Nat → Bool) : Dev :=
  ((d.abortDrafts .orphaned (fun x => own x.node x.fn)).closeReaders (fun x => own x.node x.fn)).poolReap

end Sys2Proof.Machine
end

