-- ==== Sys2Proof/Machine/Pool.lean ====
section
/-! DEFINITION. Pool requests (R215 to R232) and pool management commands (Table 8.5). -/

namespace Sys2Proof.Machine

/-! ### Refusals (Table 8.3) -/

/-- The owner that a request names: node and function; 31 where no function asked (R219, R226). -/
def Dev.owner (d : Dev) (w : Work) : Nat × Nat :=
  match w.src with
  | .host f _ _ _ => (d.pwr.node, f)
  | .node => (d.pwr.node, 31)
  | .qp n => match mget d.trn.qps n with
    | none => (0, 31)
    | some q => (q.remote, if q.type = 1 then Config.forwardFn w.desc % 17 else 31)

/-- Whether a request came by the host submission path, here or at the node that forwarded it. -/
def Dev.hostPath (d : Dev) (w : Work) : Bool :=
  match w.src with
  | .host _ _ _ _ => true
  | .node => false
  | .qp n => match mget d.trn.qps n with
    | none => false
    | some q => decide (q.type = 1)

/-- Bytes of one row. -/
def rpRow (p : RegionProps) : Nat := p.rowlen * efSize p.efmt

/-- The index list's place in the query buffer, or its rows when consecutive. -/
def Dev.gatherRows (d : Dev) (qb : QBuf) (w : Work) : List Nat :=
  let n := plNrm1 w.desc + 1
  if plGmode w.desc = 1 then (List.range n).map (plFirst w.desc + ·)
  else
    let bs := qb.read (d.shareBase (plPart w.desc) + 64 * plFirst w.desc) (4 * n)
    (List.range n).map (fun i => leAt bs (4 * i) 4)

/-- The conditions of Table 8.3 that lines, rows and the index list break (R38, R215, R229). -/
def Dev.poolBounds (d : Dev) (qb : QBuf) (w : Work) (g : Option Region) : List (St × Nat) :=
  let x := w.desc
  let p := plPart x
  let n := plNrm1 x + 1
  let list := decide (plOp x = 6 ∧ plGmode x = 0)
  let inShare := decide (64 * plFirst x + 4 * n ≤ d.shareSize p)
  cond (list && !inShare) .shape ++
  cond (list && inShare && !qb.owned (d.shareBase p + 64 * plFirst x) (4 * n) (plTen x) w.keygen) .keyRevoked ++
  (match g with
   | none => []
   | some g =>
     cond (decide (plOp x = 3 ∧ rpRaw g.p < 64 * (plLine x + plNlm1 x + 1))) .shape ++
     cond (decide (plOp x = 6) && (decide (2 ^ 24 < n * rpRow g.p) ||
       ((!list || inShare) && (d.gatherRows qb w).any (fun r => decide (g.p.n / g.p.rowlen ≤ r))))) .shape)

/-- A reader handle's slot, when the handle is open and names the region. -/
def Dev.readerOf (d : Dev) (h region : Nat) : Option (Nat × Reader) :=
  match mget d.shp.readers (fld h 0 14) with
  | none => none
  | some r => if r.gen = fld h 14 18 ∧ r.region = region then some (fld h 0 14, r) else none

/-- A draft handle's slot, when the handle is open and names the region. -/
def Dev.draftOf (d : Dev) (h region : Nat) : Option (Nat × Draft) :=
  match mget d.shp.drafts (fld h 0 8) with
  | none => none
  | some r => if r.gen = fld h 8 24 ∧ r.region = region then some (fld h 0 8, r) else none

/-- The version that VERSION names: 0 is the current one. -/
def wantVer (g : Region) (v : Nat) : Nat := if v = 0 then g.current else v

/-- Whether what a request names exists and is its own (Table 8.3, R221). Log entry 161, DESIGN CHOICE: OPEN_DRAFT of a base that is not
live. -/
def Dev.poolNames (d : Dev) (w : Work) (g : Region) : Bool :=
  let x := w.desc
  let own (y : Draft) : Bool := decide (d.owner w = (y.node, y.fn))
  decide (g.p.ten = plTen x ∧ g.p.part = plPart x) &&
  (match plOp x with
   | 0 => !g.deleting && g.versions.any (fun v => decide (v.num = wantVer g (plVersion x)))
   | 1 => (d.readerOf (plHandle x) (plRegion x)).isSome
   | 2 => !g.deleting && g.versions.any (fun v => decide (v.num = wantVer g (plVersion x)))
   | 6 => (d.readerOf (plHandle x) (plRegion x)).isSome
   | _ => !g.deleting && (match d.draftOf (plHandle x) (plRegion x) with
     | none => false
     | some (_, y) => own y && y.pub.isNone))

/-- The lowest slot below `n` that holds nothing and whose generation is below `lim` (fuel: slots left). -/
def freeSlot {α : Type} (m : NMap α) (gens : NMap Nat) (lim : Nat) : (fuel i : Nat) → Option Nat
  | 0, _ => none
  | k + 1, i => if (mget m i).isNone ∧ mgetD gens i 0 < lim then some i else freeSlot m gens lim k (i + 1)

def Dev.readerSlot (d : Dev) : Option Nat := freeSlot d.shp.readers d.shp.readerGen (2 ^ 18) 16384 0
def Dev.draftSlot (d : Dev) : Option Nat := freeSlot d.shp.drafts d.shp.draftGen (2 ^ 24) 256 0

/-- A PUBLISH of an open draft on the current version, which no version can follow (R213). -/
def Dev.lastVer (d : Dev) (w : Work) : Bool :=
  match mget d.shp.regions (plRegion w.desc), d.draftOf (plHandle w.desc) (plRegion w.desc) with
  | some g, some (_, x) => decide (plOp w.desc = 5 ∧ g.current = 0xFFFFFFFF ∧ x.base = g.current)
  | _, _ => false

/-- Every condition of Table 8.3 for a request. -/
def Dev.poolConds (d : Dev) (qb : QBuf) (w : Work) : List (St × Nat) :=
  let x := w.desc
  let op := plOp x
  let g := mget d.shp.regions (plRegion x)
  cond d.trn.fenced .fenced ++
  cond (!d.keyOk (plTen x) w.keygen) .keyRevoked ++
  cond (!plOk x || decide (w.extra.length ≠ if op = 3 then 64 * (plNlm1 x + 1) else 0) ||
    (decide (2 ≤ op ∧ op ≤ 5) && !d.hostPath w)) .shape ++
  d.poolBounds qb w g ++
  cond (match g with
    | none => true
    | some g => !d.poolNames w g) .orphaned ++
  cond ((decide (op = 0) && d.readerSlot.isNone) || (decide (op = 2) && d.draftSlot.isNone) ||
    (decide (op = 5) && (d.lastVer w || (match g with
      | none => false
      | some g => decide (16 ≤ g.versions.length))))) .refusedCapacity

/-- A GATHER's completion record (R229). -/
def gatherRecord (x : W512) (st : St) (rows info : Nat) : Bytes :=
  leBytes 16 (pack [(0, 32, plTag x), (32, 8, stCode st), (40, 4, 6), (64, 32, rows), (96, 32, info)])

/-- A refusal, recorded in SHP_LASTERR; a GATHER's record lies where its rows would end, at ROFF when the region is absent. -/
def Dev.poolRefuse (d : Dev) (w : Work) (st : St) : Dev :=
  let x := w.desc
  let d := d.setRegs (poolLastFields w st)
  let d := if st = .refusedCapacity ∧ d.lastVer w then
    d.journal { type := 5, sub := 4, arg := plRegion x } [] else d
  let rb := match mget d.shp.regions (plRegion x) with
    | none => 0
    | some g => rpRow g.p
  let recd := if plOp x = 6 then ((plNrm1 x + 1) * rb, gatherRecord x st 0 0) else (0, plRecord x st false (d.plLast w).1 (d.plLast w).2)
  d.refuse w.src (plRqp x) (plRoff x) (plTag x) (plTen x) 3 (stCode st) 0 [recd]

/-- The request at the head of the pool controller's queue, when a row works it. A reserved OP is refused by the row of OP 0. -/
def Dev.takePool (d : Dev) (op : Nat) : Option (Work × Dev) :=
  match d.shp.queue with
  | [] => none
  | w :: r => if w.kind = 3 ∧ (plOp w.desc = op ∨ (op = 0 ∧ 7 ≤ plOp w.desc)) then
      some (w, { d with shp := { d.shp with queue := r } }) else none

/-- A pool row: discarded without a return QP (R420), refused (R216), or worked. Log entry 56, DEDUCED. -/
def poolRow (op : Nat) (f : Work → Region → Dev → Dev) (qb : QBuf) (d : Dev) : Dev :=
  match d.takePool op with
  | none => d
  | some (w, d') =>
    if d.rqpAway w.src (plRqp w.desc) then d.rqpFetch (plRqp w.desc) else
    let d := d'
    if !d.rqpOk w.src true (plRqp w.desc) (plTen w.desc) (plPart w.desc) then d.noAnswer w.src else
    match firstCond false (d.poolConds qb w), mget d.shp.regions (plRegion w.desc) with
    | some (st, _), _ => d.poolRefuse w st
    | none, none => d
    | none, some g => f w g d

/-! ### Readers and drafts -/

/-- OPEN_VERSION (R218). -/
def openVersionGo (w : Work) (g : Region) (d : Dev) : Dev :=
  match d.readerSlot with
  | none => d
  | some s =>
    let gen := mgetD d.shp.readerGen s 0
    let (n, f) := d.owner w
    let v := wantVer g (plVersion w.desc)
    let d := { d with shp := { d.shp with readers := mset d.shp.readers s ⟨gen, plRegion w.desc, v, n, f⟩ } }
    d.poolAnswer w .ok false v (s + gen * 2 ^ 14)

/-- CLOSE_VERSION (R218, R228). -/
def closeVersionGo (w : Work) (_ : Region) (d : Dev) : Dev :=
  match d.readerOf (plHandle w.desc) (plRegion w.desc) with
  | none => d
  | some (s, r) => ((d.closeReader s).poolReap).poolAnswer w .ok false r.ver 0

/-- OPEN_DRAFT (R219). -/
def openDraftGo (w : Work) (g : Region) (d : Dev) : Dev :=
  match d.draftSlot with
  | none => d
  | some s =>
    let gen := mgetD d.shp.draftGen s 0
    let (n, f) := d.owner w
    let v := wantVer g (plVersion w.desc)
    let d := { d with shp := { d.shp with drafts := mset d.shp.drafts s ⟨gen, plRegion w.desc, v, n, f, [], none⟩ } }
    d.poolAnswer w .ok false v (s + gen * 2 ^ 8)

/-- DISCARD (R225). -/
def discardGo (w : Work) (_ : Region) (d : Dev) : Dev :=
  match d.draftOf (plHandle w.desc) (plRegion w.desc) with
  | none => d
  | some (s, x) => (((d.dropDraft s).bump (rk 0x00900030 0) 32 1).poolReap).poolAnswer w .ok false x.base 0

/-! ### WRITE (R220) -/

/-- A version of a region by number. -/
def Region.ver (g : Region) (n : Nat) : Version := (g.versions.find? (fun v => decide (v.num = n))).getD ⟨0, [], 0, [], [], []⟩

/-- A draft's unit for a raw 4 KiB index. -/
def Dev.draftUnit (d : Dev) (x : Draft) (i : Nat) : Option Nat :=
  x.units.find? (fun id => match mget d.shp.units id with
    | none => false
    | some u => decide (u.off = i))

/-- What a WRITE's new draft units are made from: raw indices, base units to read, and their bytes; or a run that does not
decode. -/
def Dev.writeBase (d : Dev) (g : Region) (v : Version) (x : Draft) (line n : Nat) :
    Except ((Nat × Nat × Nat × Nat) × Nat) (List Nat × List (Nat × Bytes) × Nat) :=
  let touched := (List.range ((line + n - 1) / 64 - line / 64 + 1)).map (line / 64 + ·)
  if g.p.coding = 0 then
    let new := touched.filter (fun u => (d.draftUnit x u).isNone)
    let read := new.filter (fun u => !decide (line ≤ 64 * u ∧ 64 * u + 64 ≤ line + n))
    .ok (v.ids read, new.map (fun u => (u, if read.contains u then d.stored v (4096 * u) 4096 else List.replicate 4096 0)), 0)
  else
    let es := efSize g.p.efmt
    let runs := ((touched.map (· / es)).eraseDups).filter (fun r => (d.draftUnit x (r * es)).isNone)
    let ids := v.ids ((runs.flatMap (fun r => (d.elemSpans g.p v (4096 * r) 4096).flatMap (fun s => spanUnits s.1 s.2))).eraseDups)
    let rec go (done : Nat) : List Nat → Except ((Nat × Nat × Nat × Nat) × Nat) (List (Nat × Bytes))
      | [] => .ok []
      | r :: rest => match d.elems g.p v (4096 * r) 4096, go (done + 64) rest with
        | .error e, _ => .error (e.1, done + e.2)
        | _, .error e => .error e
        | .ok bs, .ok l => .ok ((List.range es).flatMap (fun i => [(r * es + i, sliceB bs (4096 * i) 4096), (r * es + i, [])]) ++ l)
    match go 0 runs with
    | .error e => .error e
    | .ok l => .ok (ids, l, 64 * runs.length)

/-- Places one line in a draft unit. -/
def Dev.setLine (d : Dev) (id i : Nat) (l : W512) : Dev :=
  { d with shp := { d.shp with units := mmod d.shp.units id (fun u =>
      { u with lines := if l = 0 then mdel u.lines i else mset u.lines i l }) } }

/-- Places the lines of a WRITE in its draft's units, whose seals follow (R336). -/
def Dev.putLines (d : Dev) (x : Draft) (line : Nat) (ls : List W512) : Dev :=
  let ids := ((List.range ls.length).filterMap (fun i => d.draftUnit x ((line + i) / 64))).eraseDups
  let d := ls.zipIdx.foldl (fun d (l, i) => match d.draftUnit x ((line + i) / 64) with
    | none => d
    | some id => d.setLine id ((line + i) % 64) l) d
  d.seals (fun id _ => ids.contains id)

/-- WRITE (R220): capacity, then the base's data, then the lines; a failure leaves the draft as it was. -/
def poolWriteGo (fs : List ColFault) (w : Work) (g : Region) (d : Dev) : Dev :=
  match d.draftOf (plHandle w.desc) (plRegion w.desc) with
  | none => d
  | some (s, x) =>
    let d0 := d
    let fail (st : St) (d : Dev) : Dev := Dev.poolAnswerAfter d0 d w st false x.base 0
    let line := plLine w.desc
    match d.writeBase g (g.ver x.base) x line (plNlm1 w.desc + 1) with
    | .error e => fail .integrity ((d.bump (rk 0x00700018 0) 64 e.2).streamFail e.1 2 g.p.ten { tag := plTag w.desc, arg := plRegion w.desc })
    | .ok (ids, new, blocks) =>
      if (Dev.newUnits (plRegion w.desc) new d).isNone then fail .refusedCapacity d else
      match Dev.useUnits fs (plTag w.desc) ids d with
      | ((some st, _), d) => fail st d
      | ((none, _), d) =>
        match Dev.newUnits (plRegion w.desc) new (d.bump (rk 0x00700018 0) 64 blocks) with
        | none => fail .refusedCapacity d
        | some (us, d) =>
          let x := { x with units := x.units ++ us }
          let d := { d with shp := { d.shp with drafts := mset d.shp.drafts s x } }
          (d.putLines x line (linesB w.extra)).poolAnswer w .ok false x.base 0

/-! ### PUBLISH (R222, R223) -/

/-- Bytes overlaid on others at an offset. -/
def overlay (bs : Bytes) (off : Nat) (p : Bytes) : Bytes := bs.take off ++ p ++ bs.drop (off + p.length)

/-- The parts of patches that lie in a storage unit: offset in the unit and bytes. -/
def patchIn (u : Nat) (ps : List (Nat × Bytes)) : List (Nat × Bytes) :=
  (ps.map (fun p =>
    let a := max p.1 (4096 * u)
    let b := min (p.1 + p.2.length) (4096 * u + 4096)
    (a - 4096 * u, (p.2.drop (a - p.1)).take (b - a)))).filter (fun p => !p.2.isEmpty)

/-- What a prepare reads and writes: units to read, of the draft and of the base, new units by storage unit, new size, runs with their slots,
changed runs, and encoder counts (blocks, raw bytes, stream bytes). -/
structure PrepPlan where
  reads : List Nat
  news : List (Nat × Bytes)
  size : Nat
  runSlot : NMap Nat
  changed : List Nat
  blocks : Nat
  rawIn : Nat
  out : Nat

/-- The raw bytes of a run in a draft. -/
def Dev.draftRun (d : Dev) (p : RegionProps) (x : Draft) (r : Nat) : Bytes :=
  (List.range (efSize p.efmt)).flatMap (fun i => match (d.draftUnit x (r * efSize p.efmt + i)).bind (mget d.shp.units) with
    | none => []
    | some u => u.bytes)

/-- Whether a stream of elements has a CODED block. -/
def anyCoded (ef : Nat) (slot : Option (Nat × Nat × Bytes)) (els : List Nat) : Bool :=
  (blocks64 (els.length / 64 + 1) els).any (fun b =>
    decide (leAt (ecxEncBlock ef (slot.map (fun (s, g, im) => (s, g, tblCodes im))) b) 0 1 % 4 = 1))

/-- Streams of the changed runs placed one after another from a byte position: patches and the end. -/
def Dev.ecxPatches (d : Dev) (p : RegionProps) (x : Draft) (slot : Option (Nat × Nat × Bytes)) : List Nat → Nat → List (Nat × Bytes) × Nat
  | [], pos => ([], pos)
  | r :: rest, pos =>
    let st := ecxEncode p.efmt slot (elemsOf p.efmt (d.draftRun p x r))
    let (ps, e) := d.ecxPatches p x slot rest (pos + st.length)
    ((pos, st) :: (8 * r, leBytes 8 (pack [(0, 33, (pos - rpDirBytes p) / 64), (33, 9, st.length / 64)])) :: ps, e)

/-- Step 2 of Table 8.4. -/
def Dev.prepPlan (d : Dev) (p : RegionProps) (v : Version) (x : Draft) : PrepPlan :=
  let es := efSize p.efmt
  let raws := (x.units.filterMap (mget d.shp.units)).map (·.off)
  let changed := (raws.map (· / es)).eraseDups
  -- the hash of a changed run reads all of it (R348), and the holes of step 4 are found in the directory (log entry 140, DEDUCED)
  if p.coding = 0 then ⟨x.units ++ v.ids ((changed.flatMap (fun r => (List.range es).map (r * es + ·))).filter (fun i => (d.draftUnit x i).isNone)),
    [], v.size, [], changed, 0, 0, 0⟩ else
  let slot := if p.coding = 1 then d.encSlot p.efmt else none
  let (ps, size) := if p.coding = 1 then d.ecxPatches p x slot changed v.size else
    (changed.flatMap (fun r =>
      let bl := (blocks64 65 (elemsOf p.efmt (d.draftRun p x r))).map (frxEncBlock p.efmt p.k)
      [(r * 64 * frxSB p.efmt p.k, bl.flatMap Prod.fst), (frxBase p.efmt p.k p.n + 64 * r, bl.map (fun b => BitVec.ofNat 8 b.2))]), v.size)
  let us := ((ps.flatMap (fun q => spanUnits q.1 q.2.length)).eraseDups)
  let whole (u : Nat) : Bool := decide (sumN ((patchIn u ps).map (·.2.length)) = 4096)
  let news := us.map (fun u => (u, (patchIn u ps).foldl (fun b q => overlay b q.1 q.2) (d.stored v (4096 * u) 4096)))
  let rs := changed.foldl (fun m r => match slot with
    | some (s, _, _) => if anyCoded p.efmt slot (elemsOf p.efmt (d.draftRun p x r)) then mset m r s else mdel m r
    | none => mdel m r) v.runSlot
  let dirs := if p.coding = 1 then List.range (rpDirBytes p / 4096) else []
  ⟨x.units ++ v.ids ((us.filter (fun u => !whole u) ++ dirs).eraseDups), news, size, if p.coding = 1 then rs else [], changed, 64 * changed.length,
    if p.coding = 1 then changed.length * rpRunBytes p else 0, if p.coding = 1 then size - v.size else 0⟩

/-- A version made from its base: the unit map, then the digests of the changed runs (R348). -/
def Dev.mkVersion (d : Dev) (region : Nat) (p : RegionProps) (v : Version) (x : Draft) (pl : PrepPlan) (us : List Nat) : Version :=
  let own := if p.coding = 0 then x.units.filterMap (fun id => (mget d.shp.units id).map (fun u => (u.off, id))) else (pl.news.map Prod.fst).zip us
  let m := own.foldl (fun m e => mset m e.1 e.2) v.units
  let w := { v with num := v.num + 1, units := m, size := pl.size, runSlot := pl.runSlot }
  let dig := pl.changed.foldl (fun m r => mset m r (shake256 64 (match d.elems p w (4096 * r) 4096 with
    | .ok bs => bs
    | .error _ => []))) v.runDig
  { w with runDig := dig, digest := versionDigest region p w.num dig }

/-- A conflict completes the PUBLISH and discards the draft (R223). -/
def Dev.conflict (d : Dev) (w : Work) (slot base current : Nat) : Dev :=
  let d := ((d.dropDraft slot).bump (rk 0x00900030 0) 32 1).bump (rk 0x00900028 0) 64 1
  d.poolReap.poolAnswer w .ok true (base + 1) current

/-- PUBLISH: accept and prepare (Table 8.4). -/
def publishGo (fs : List ColFault) (w : Work) (g : Region) (d : Dev) : Dev :=
  match d.draftOf (plHandle w.desc) (plRegion w.desc) with
  | none => d
  | some (s, x) =>
    if x.base ≠ g.current then d.conflict w s x.base g.current else
    let v := g.ver x.base
    let pl := d.prepPlan g.p v x
    -- the changed runs were coded, whether the version is made or has no room (R164)
    let coded (d : Dev) : Dev := ((d.bump (rk 0x00700010 0) 64 pl.blocks).bump (rk 0x00700020 0) 64 pl.rawIn).bump (rk 0x00700028 0) 64 pl.out
    let full (d : Dev) : Dev := (coded d).poolAnswer w .refusedCapacity false 0 g.current
    if (Dev.newUnits (plRegion w.desc) pl.news d).isNone then full d else
    match Dev.useUnits fs (plTag w.desc) pl.reads d with
    | ((some st, _), d') => Dev.poolAnswerAfter d d' w st false 0 g.current
    | ((none, _), d) =>
      match Dev.newUnits (plRegion w.desc) pl.news d with
      | none => full d
      | some (us, d') =>
        let nv := d'.mkVersion (plRegion w.desc) g.p v x pl us
        let d' := { d' with shp := { d'.shp with drafts := mset d'.shp.drafts s { x with pub := some (w, nv, us) } } }
        if !d'.poolRoom 0 then full d else coded (d'.tblRef true nv.slots)

/-- ECX base units that hold no run of the directory leave the map (Table 8.4 step 4). -/
def Dev.dropHoles (d : Dev) (p : RegionProps) (v : Version) : Version :=
  if p.coding ≠ 1 then v else
  let spans := (List.range (rpRuns p)).map (d.runStream p v)
  { v with units := mfilter v.units (fun u _ => decide (4096 * u < rpDirBytes p) || spans.any (fun s => overlaps s.1 s.2 (4096 * u, 4096))) }

/-- A prepared publish that does not swap: its prepared units are freed and its draft is kept (R224, R227). -/
def Dev.unprepare (d : Dev) (slot : Nat) (x : Draft) : Dev :=
  let d := d.unrefPub slot
  ({ d with shp := { d.shp with drafts := mset d.shp.drafts slot { x with pub := none } } }).reapUnits

/-- POOL_PUBLISH_SWAP (Table 8.4 steps 3 and 4). -/
def swapStep (slot : Nat) (d : Dev) : Dev :=
  match mget d.shp.drafts slot with
  | none => d
  | some x => match x.pub with
    | none => d
    | some (w, v, _) =>
      if d.trn.fenced then (d.unprepare slot x).poolAnswer w .fenced false 0 (d.plLast w).2 else
      match mget d.shp.regions x.region with
      | none => d
      | some g =>
        if x.base ≠ g.current then d.conflict w slot x.base g.current else
        if 16 < g.versions.length + 1 then (d.unprepare slot x).poolAnswer w .refusedCapacity false 0 g.current else
        let v := d.dropHoles g.p v
        let g := { g with current := v.num, versions := g.versions ++ [v] }
        let d := ({ d with shp := { d.shp with regions := mset d.shp.regions x.region g } }).tblRef true v.slots
        let d := (d.bump (rk 0x00900018 0) 64 1).poolEvent x.region g.p v 0
        ((d.dropDraft slot).poolReap).poolAnswer w .ok false v.num v.num

/-! ### GATHER (R229 to R231) -/

/-- A unit at its new place in T1, sealed there. -/
def Dev.unitTo (d : Dev) (id : Nat) (u : PUnit) : Dev :=
  ({ d with shp := { d.shp with units := mset d.shp.units id (d.sealed (d.regionTen u.region) u) } }).claimUnit u.loc true

/-- Moves a unit back to T1; one whose read fails stays, with the fault recorded (R212, R232). -/
def Dev.unitDown (d : Dev) (fs : List ColFault) (id : Nat) (u : PUnit) : Bool × Dev :=
  if u.failed ∨ d.t1Open < 4 then (false, d) else
  match d.useUnit fs 0 id with
  | (some _, d) => (false, d)
  | (none, d) => match d.pickDie 1 128 (u.region + u.off) with
    | none => (false, d)
    | some (s, c, f) =>
      let (v, d) := d.takeVer (granule s c f)
      (true, d.unitTo id { u with loc := .t1 s c f, ver := v })

/-- A FAILED unit leaves T0 unread: it stays FAILED in a T1 frame (R231). -/
def Dev.failedDown (d : Dev) (id : Nat) (u : PUnit) : Dev :=
  if d.t1Open < 4 then d else
  match d.pickDie 1 128 (u.region + u.off) with
  | none => d
  | some (s, c, f) =>
    let (v, d) := d.takeVer (granule s c f)
    d.unitTo id { u with loc := .t1 s c f, ver := v }

/-- Units of T0 whose region is deleting go back to T1; where it has no room they go when it has (R231; log entry 168, DEDUCED). -/
def Dev.deletedDown (d : Dev) : Dev :=
  (d.shp.units.filter (fun u => u.2.loc.isT0 && (match mget d.shp.regions u.2.region with
    | none => false
    | some g => g.deleting))).foldl (fun d u => if u.2.failed then d.failedDown u.1 u.2 else (d.unitDown [] u.1 u.2).2) d

/-- The oldest pool unit in T0 (R174). -/
def Dev.oldestT0 (d : Dev) : Option (Nat × PUnit) :=
  let f : PUnit → Nat := fun u => match u.loc with
    | .t0 f => f
    | _ => 0
  (d.shp.units.filter (fun e => e.2.loc.isT0)).foldl (fun (b : Option (Nat × PUnit)) e => match b with
    | none => some e
    | some y => if e.2.stamp < y.2.stamp ∨ (e.2.stamp = y.2.stamp ∧ f e.2 < f y.2) then some e else some y) none

/-- Moves a unit into T0 if the pool's share has room, or can make it (R231). -/
def Dev.unitUp (d : Dev) (fs : List ColFault) (id : Nat) : Dev :=
  let cap := d.reg (rk 0x00900000 16) * 1024
  let pro := d.reg (rk 0x00900000 32)
  let (room, d) : Bool × Dev :=
    if 4 * (d.poolIn true + 1) ≤ cap then (true, d) else
    match d.oldestT0 with
    | none => (false, d)
    | some (i, u) => if effCount d.shp.pnow u.stamp u.count < pro then d.unitDown fs i u else (false, d)
  if !room ∨ cap < 4 * (d.poolIn true + 1) then d else
    match d.freeT0 1 with
    | none => d
    | some f => { d with shp := { d.shp with units := mmod d.shp.units id (fun u => { u with loc := .t0 f }) } }

/-- A touch of a unit (R172, R231). -/
def Dev.touchUnit (fs : List ColFault) (d : Dev) (id : Nat) : Dev :=
  match mget d.shp.units id with
  | none => d
  | some u =>
    let c := touchTally d.shp.pnow u.stamp u.count
    let d := { d with shp := { d.shp with units := mset d.shp.units id { u with count := c, stamp := d.shp.pnow }, touches := d.shp.touches + 1 } }
    let pro := d.reg (rk 0x00900000 32)
    match mget d.shp.regions u.region with
    | none => d
    | some g => if pro ≠ 0 ∧ pro ≤ c ∧ u.loc.isT1 ∧ !u.failed ∧ g.p.t0ok ∧ !g.deleting then d.unitUp fs id else d

/-- Rows from one on: the rows sent, the status that ended them, and the units read so far. -/
def gatherGo (fs : List ColFault) (w : Work) (p : RegionProps) (v : Version) : List Nat → List Nat → Dev → List Bytes × Option St × List Nat × Dev
  | [], seen, d => ([], none, seen, d)
  | r :: rest, seen, d =>
    let ids := v.ids (((d.elemSpans p v (r * p.rowlen) p.rowlen).flatMap (fun s => spanUnits s.1 s.2)).eraseDups)
    let new := ids.filter (fun i => !seen.contains i)
    match Dev.useUnits fs (plTag w.desc) new d with
    | ((some st, was), d) => ([], some st, seen ++ was, d)
    | ((none, _), d) =>
      match d.elems p v (r * p.rowlen) p.rowlen with
      | .error e => ([], some .integrity, seen ++ new, (d.bump (rk 0x00700018 0) 64 e.2).streamFail e.1 2 p.ten { tag := plTag w.desc, arg := plRegion w.desc })
      | .ok bs =>
        let (rows, st, seen, d) := gatherGo fs w p v rest (seen ++ new) (d.bump (rk 0x00700018 0) 64 (rpDecBlocks p (r * p.rowlen) p.rowlen))
        (bs :: rows, st, seen, d)

/-- Whether a message that waits is one of a gather's. -/
def gatherMsg (x : W512) (n : Nat) (r : SendReq) : Bool :=
  decide (n = plRqp x ∧ r.op = 7 ∧ r.imm = plTag x) && (match r.tag with
    | .record _ _ => false
    | .none => true
    | .host _ _ _ k _ _ => decide (k = 3))

/-- A gather's rows whose messages wait: for their QP's context, or for a journal entry. -/
def Dev.rowsWait (d : Dev) (x : W512) : Nat :=
  let row (n : Nat) (r : SendReq) : Bool := gatherMsg x n r && decide (r.payload.length ≠ 16)
  (d.trn.sendWait.filter (fun m => row m.1 m.2.1)).length +
  sumN (d.rcv.jq.map (fun e => (e.held.filter (fun h => match h with
    | .send n r => row n r
    | _ => false)).length))

/-- GATHER. Each unit that it read is touched once (log entry 29, DEDUCED). -/
def gatherStep (fs : List ColFault) (qb : QBuf) (w : Work) (g : Region) (d : Dev) : Dev :=
  match d.readerOf (plHandle w.desc) (plRegion w.desc) with
  | none => d
  | some (_, r) =>
    let d0 := d
    let (rows, st, seen, d) := gatherGo fs w g.p (g.ver r.ver) (d.gatherRows qb w) [] d
    let d := seen.foldl (Dev.touchUnit fs) d
    let n := rows.length
    let st' := st.getD .ok
    let info := if st.isSome then n else 0
    let d := { d with shp := { d.shp with gathers := d.shp.gathers.filter (fun (g : W512 × Nat) => d.rowsWait g.1 ≠ 0) ++ (if n = 0 then [] else [(w.desc, n)]) } }
    let recs := rows.zipIdx.map (fun (b, j) => (j * rpRow g.p, b))
    let d := Dev.fieldsAfter d0 (d.bump (rk 0x00900020 0) 64 n) (poolLastFields w st')
    Dev.answerAfter d0 d w.src (plRqp w.desc) (plRoff w.desc) (plTag w.desc) (plTen w.desc) 3 (stCode st') info
      (recs ++ [((plNrm1 w.desc + 1) * rpRow g.p, gatherRecord w.desc st' n info)])

/-! ### DRAFT_ABORT, counters and the tally query -/

/-- DRAFT_ABORT (R226): bits [11:0] of its body name the node and [16:12] the function (log entry 28, DESIGN CHOICE); a fenced holder
changes nothing (R227). -/
def draftAbortStep (d : Dev) : Dev :=
  match d.shp.queue with
  | [] => d
  | w :: r =>
    if w.kind ≠ 5 then d else
    let d := { d with shp := { d.shp with queue := r } }
    if d.trn.fenced then d else d.abortOwner (fun n f => decide (n = wf w.desc 0 12 ∧ f = wf w.desc 12 5))

/-- PNOW after one advance: at the top it rebases, and every STAMP with it (R173, R231). -/
def pnowStep (d : Dev) : Dev :=
  let n := 2 ^ d.reg (rk 0x00900000 24)
  if d.shp.touches < n then d else
  let s := { d.shp with touches := d.shp.touches - n }
  if d.shp.pnow = 0xFFFFFFFF then
    { d with shp := { s with pnow := 0x80000000, units := mmap s.units (fun _ u => { u with stamp := u.stamp - 0x80000000 }) } }
  else { d with shp := { s with pnow := d.shp.pnow + 1 } }

/-- SHP_QCMD.GO (Table 8.10). -/
def shpQcmdStep (d : Dev) : Dev :=
  let u := (mget d.shp.regions (d.reg (rk 0x00900200 0))).bind (fun g =>
    (mget (g.ver g.current).units (d.reg (rk 0x00900200 10))).bind (mget d.shp.units))
  let (wh, c, s) := match u with
    | none => (0, 0, 0)
    | some u => (if u.failed then 3 else if u.loc.isT0 then 2 else 1, u.count, u.stamp)
  d.setRegs [(rk 0x00900210 0, wh), (rk 0x00900210 8, c), (rk 0x00900210 31, 1), (rk 0x00900210 32, s)]

/-! ### Management commands (Table 8.5) -/

/-- The rules of Table 8.1. -/
def rpOk (p : RegionProps) : Bool :=
  decide (p.ten < 2 ^ 12 ∧ p.part < 16 ∧ p.efmt < 5 ∧ p.coding < 3 ∧ p.n < 2 ^ 40 ∧ 64 ≤ p.rowlen ∧ p.rowlen ≤ 65536 ∧ p.rowlen % 64 = 0 ∧
    p.n % 4096 = 0 ∧ p.n % p.rowlen = 0) &&
  (if p.coding = 2 then decide (2 ≤ p.k ∧ p.k ≤ 4 ∧ p.k < efExp p.efmt) else decide (p.k = 0))

/-- Version 1 of a region (R213, R214), with the units that it needs. -/
def Dev.version1 (d : Dev) (i : Nat) (p : RegionProps) : Option (Version × Dev) :=
  let dig := versionDigest i p 1 []
  if p.coding = 0 then some (⟨1, [], rpRaw p, [], [], dig⟩, d) else
  if p.coding = 2 then some (⟨1, [], frxLen p.efmt p.k p.n, [], [], dig⟩, d) else
  let st := ecxEncode p.efmt none (List.replicate 4096 0)
  let dir := (List.range (rpRuns p)).flatMap (fun _ => leBytes 8 (pack [(0, 33, 0), (33, 9, 4)]))
  let us := (List.range (rpDirBytes p / 4096)).map (fun k => (k, sliceB dir (4096 * k) 4096)) ++ [(rpDirBytes p / 4096, sliceB st 0 4096)]
  (Dev.newUnits i us d).map (fun (ids, d) => (⟨1, (us.map Prod.fst).zip ids, rpDirBytes p + st.length, [], [], dig⟩, d))

/-- A pool command that would change drafts, handles or versions: under a fence it changes nothing (R227) and ends with ST_FENCED (log entry
142, DESIGN CHOICE). -/
def Dev.poolCmd (d : Dev) (opc : Nat) (f : Dev → Dev) : Dev :=
  if !d.ready then d else if d.trn.fenced then d.mgmtDone opc (stCode .fenced) [] else f d

/-- CREATE_REGION. -/
def createRegionStep (i : Nat) (p : RegionProps) (d : Dev) : Dev := d.poolCmd 0x0211 fun d =>
  let fin (st : St) : Dev := d.mgmtDone 0x0211 (stCode st) []
  let cs := cond (!d.admitted p.ten p.part) .keyRevoked ++ cond (!(decide (i < 1024) && rpOk p && (mget d.shp.regions i).isNone)) .shape
  match firstCond false cs with
  | some (st, _) => fin st
  | none =>
    if d.poolLimit = 0 then fin .refusedCapacity else
    match d.version1 i p with
    | none => fin .refusedCapacity
    | some (v, d') =>
      let d' := ({ d' with shp := { d'.shp with regions := mset d'.shp.regions i ⟨false, p, 1, [v]⟩ } } : Dev).seals (fun _ u => decide (u.region = i))
      if !d'.poolRoom 0 then fin .refusedCapacity else (d'.poolEvent i p v 0).mgmtDone 0x0211 0 []

/-- DELETE_REGION. -/
def deleteRegionStep (i : Nat) (d : Dev) : Dev := d.poolCmd 0x0212 fun d =>
  match mget d.shp.regions i with
  | none => d.mgmtDone 0x0212 (stCode .shape) []
  | some g =>
    if g.deleting then d.mgmtDone 0x0212 (stCode .shape) [] else
    let d := d.poolEvent i g.p (g.ver g.current) 1
    let d := { d with shp := { d.shp with regions := mset d.shp.regions i { g with deleting := true } } }
    ((d.abortDrafts .orphaned (fun x => decide (x.region = i))).poolReap).mgmtDone 0x0212 0 []

/-- A projection binding whose reader handle closed binds nothing (log entry 30, DEDUCED). -/
def Dev.pruneProjs (d : Dev) : Dev :=
  { d with shp := { d.shp with projs := d.shp.projs.filter (fun p => (mget d.shp.readers p.reader).isSome) } }

/-- CLOSE_READERS. -/
def closeReadersStep (i : Nat) (d : Dev) : Dev := d.poolCmd 0x0213 fun d =>
  d.cmd 0x0213 (mget d.shp.regions i).isSome .shape (fun d => ((d.closeReaders (fun r => decide (r.region = i))).pruneProjs).poolReap)

/-- ABORT_OWNER. -/
def abortOwnerStep (n : Nat) (d : Dev) : Dev := d.poolCmd 0x0214 fun d =>
  d.cmd 0x0214 (decide (n < 2 ^ 12)) .shape (fun d => d.abortOwner (fun m f => decide (m = n ∧ f < 17)))

end Sys2Proof.Machine
end

