-- ==== Sys2Proof/Machine/Ridge.lean ====
section
/-! DEFINITION. PARTIAL messages at this node: ridge intake and merge (R60 to R63, R279), and the answers to pool requests that it
forwarded (R315, R423). -/

namespace Sys2Proof.Machine

/-! ### Records -/

/-- A record's header (Table 2.8) from its fields. -/
def ridgeHdr (ofmt row m l keys st : Nat) : Bytes :=
  leBytes 16 (pack [(0, 32, m), (32, 32, l), (64, 32, keys), (96, 8, st), (104, 10, row), (114, 1, ofmt)])

/-- The layout of a contributor's records: o length, format, rows. -/
structure RidgeForm where
  dlen : Nat
  ofmt : Nat
  rows : Nat
  deriving DecidableEq, Repr, Inhabited

def RidgeForm.size (f : RidgeForm) : Nat := 16 + f.dlen * (if f.ofmt = 1 then 2 else 4)

/-- Whether the bytes at a place can be a record's header beside that of row 0 (Table 2.8, R49): the same STATUS and OFMT, reserved bits zero, and
L 0 exactly when M is −∞. -/
def ridgeHead (bs : Bytes) (at_ : Nat) : Bool :=
  let w := leAt bs (at_ + 12) 4
  decide (fld w 0 8 = fld (leAt bs 12 4) 0 8 ∧ fld w 18 1 = fld (leAt bs 12 4) 18 1 ∧ fld w 19 13 = 0) &&
  (decide (leAt bs at_ 4 = fNegInf) == decide (leAt bs (at_ + 4) 4 = 0))

/-- The form of a contributor's records. A message does not say how long a row's o is: it is the smallest o length of Table 2.4 at whose places the bytes
hold nothing but headers of one STATUS and OFMT; no o at all only where the status is not ST_OK (log entry 31, DEDUCED). -/
def ridgeForm (bs : Bytes) : Option RidgeForm :=
  let ofmt := fld (leAt bs 12 4) 18 1
  let ds := (if leAt bs 12 1 = 0 then [] else [0]) ++ [64, 96, 128, 192, 256, 384, 512, 640]
  (ds.map (fun n => (⟨n, ofmt, bs.length / RidgeForm.size ⟨n, ofmt, 0⟩⟩ : RidgeForm))).find? (fun f =>
    decide (0 < f.rows ∧ f.rows * f.size = bs.length) && (List.range f.rows).all (fun r => ridgeHead bs (r * f.size)))

/-- Whether every record's ROW matches its offset (R61). -/
def ridgeRowsOk (bs : Bytes) (f : RidgeForm) : Bool :=
  (List.range f.rows).all (fun r => decide (fld (leAt bs (r * f.size + 12) 4) 8 10 = r % 1024))

/-- Status and INFO of a contributor's records (R49: every record carries the same). -/
def ridgeStatus (bs : Bytes) : Nat × Nat := (leAt bs 12 1, leAt bs 8 4)

/-- Record r as a partial, BF16 o converted exactly (R61). -/
def ridgePart (f : RidgeForm) (bs : Bytes) (r : Nat) : Partial :=
  let b := sliceB bs (r * f.size) f.size
  ⟨BitVec.ofNat 32 (leAt b 0 4), BitVec.ofNat 32 (leAt b 4 4), (List.range f.dlen).map (fun i =>
    BitVec.ofNat 32 (if f.ofmt = 1 then fBf16 (leAt b (16 + 2 * i) 2) else leAt b (16 + 4 * i) 4)), leAt b 8 4⟩

/-- Every row with a status and no data. -/
def ridgeStatusRecs (f : RidgeForm) (st info : Nat) : Bytes :=
  (List.range f.rows).flatMap (fun r => ridgeHdr f.ofmt r fNegInf 0 info st ++ List.replicate (f.size - 16) 0)

/-- A merged record in the contributors' format. -/
def ridgeRec (f : RidgeForm) (r : Nat) (p : Partial) : Bytes :=
  ridgeHdr f.ofmt r p.m.toNat p.l.toNat p.keys 0 ++ p.o.flatMap (fun e => if f.ofmt = 1 then leBytes 2 (toBf16 e.toNat) else leBytes 4 e.toNat)

/-- Contributors in ascending node number (R60). -/
def ridgeOrder (l : List (Nat × Bytes)) : List (Nat × Bytes) := l.mergeSort (fun a b => decide (a.1 ≤ b.1))

/-- The form that an entry's answer takes: the first contributor's whose records have one. -/
def Merge.form (m : Merge) : RidgeForm := ((ridgeOrder m.got).findSome? (fun g => ridgeForm g.2)).getD ⟨0, 0, 1⟩

/-- The status that ends an entry without data: a contributor's, the first in the order of R14, or ST_SHAPE where forms differ or
a ROW does not match (R61, R62). A contributor's ST_PROGRAM_FAULT takes the place of a slot that is not loaded, since a record does not say which
of the two it was (log entry 137, DESIGN CHOICE). -/
def Merge.bar (m : Merge) : Option (St × Nat) :=
  let fs := (ridgeOrder m.got).map (fun g => ridgeForm g.2)
  firstCond false ((ridgeOrder m.got).flatMap (fun g =>
      let (s, i) := ridgeStatus g.2
      if s = 0 then [] else (stOf s, i) :: []) ++
    cond (fs.any (fun f => f.isNone || f ≠ fs.headD none) || m.got.any (fun g => match ridgeForm g.2 with
      | none => false
      | some f => !ridgeRowsOk g.2 f)) .shape)

/-- The rows of an entry merged (R60), or the fault of a merge. -/
def Merge.rows (m : Merge) (f : RidgeForm) : List Nat → Except (Nat × Nat) Bytes
  | [] => .ok []
  | r :: rest =>
    match mergeAll ((ridgeOrder m.got).map (fun g => ridgePart f g.2 r)) with
    | .error x => .error x
    | .ok p =>
      match m.rows f rest with
      | .error x => .error x
      | .ok bs =>
        let q := p.getD (emptyPart f.dlen)
        if f.ofmt = 1 ∧ q.o.any (fun e => !fFinite (fBf16 (toBf16 e.toNat))) then .error (63, 4) else .ok (ridgeRec f r q ++ bs)

/-! ### Entries -/

/-- Sends an entry's records on its onward QP and frees it, with the submit credit that opened it (R275, R279); a fenced node sends none
(R263). -/
def Dev.ridgeEmit (d : Dev) (m : Merge) (bs : Bytes) : Dev :=
  let d := { d with trn := { d.trn with merges := dropFirst (fun x => decide (x.intake = m.intake ∧ x.tag = m.tag)) d.trn.merges } }
  let d := match mget d.trn.ridges m.ridge with
    | none => d
    | some r => if d.trn.fenced then d else d.sendPartial r.onward m.addr m.tag bs .none
  match m.opener with
  | none => d
  | some n => (d.giveBack n 0 1).escapement

/-- The tenant and partition of an entry: its onward QP's. -/
def Dev.ridgeOwner (d : Dev) (m : Merge) : Nat × Nat :=
  match (mget d.trn.ridges m.ridge).bind (fun r => mget d.trn.qps r.onward) with
  | none => (0, 0)
  | some q => (q.ten, q.part)

/-- An entry all of whose contributors have delivered is merged and sent. A merge whose l or o is not finite freezes a record and
ends every row with ST_PROGRAM_FAULT (R52, R75; log entry 31, DEDUCED); it is no tenon that ended, so ATN_SP_LASTFAULT and ATN_FAULT_ENDED do
not show it (log entry 151, DESIGN CHOICE). A fenced node's entries wait (R263). -/
def Dev.ridgeTry (d : Dev) (m : Merge) : Dev :=
  match mget d.trn.ridges m.ridge with
  | none => d
  | some r =>
    if d.trn.fenced then d else
    if !r.contrib.all (fun c => m.got.any (fun g => decide (g.1 = c))) then d else
    match m.bar with
    | some (st, info) => d.ridgeEmit m (ridgeStatusRecs m.form (stCode st) info)
    | none =>
      match m.rows m.form (List.range m.form.rows) with
      | .ok bs => d.ridgeEmit m bs
      | .error (_, c) =>
        let (ten, part) := d.ridgeOwner m
        let j : JInfo := { code := stCode .programFault, sub := c, engine := 9 * 4096, tenant := ten, part := part, tag := m.tag }
        (d.fault j false []).ridgeEmit m (ridgeStatusRecs m.form (stCode .programFault) 0)

/-- The waiting entry of an intake QP and tag (R279). -/
def Dev.mergeOf (d : Dev) (intake tag : Nat) : Option Merge := d.trn.merges.find? (fun m => decide (m.intake = intake ∧ m.tag = tag))

/-- Records of a contributor join or open their entry; the second component says whether they opened it. A second delivery of
one contributor changes nothing (log entry 31, DEDUCED). -/
def Dev.ridgeJoin (d : Dev) (intake ridge node tag addr : Nat) (opener : Option Nat) (bs : Bytes) : Dev × Bool :=
  match d.mergeOf intake tag with
  | none =>
    let m : Merge := ⟨intake, ridge, tag, addr, opener, [(node, bs)]⟩
    (({ d with trn := { d.trn with merges := d.trn.merges ++ [m] } }).ridgeTry m, true)
  | some m =>
    let m := if m.got.any (fun g => decide (g.1 = node)) then m else { m with got := m.got ++ [(node, bs)] }
    (({ d with trn := { d.trn with merges := updFirst (fun x => decide (x.intake = intake ∧ x.tag = tag)) (fun _ => m) d.trn.merges } }).ridgeTry m, false)

/-- Whether a node is among a ridge's contributors. -/
def Dev.contributes (d : Dev) (ridge node : Nat) : Bool := match mget d.trn.ridges ridge with
  | none => false
  | some r => r.contrib.contains node

/-- This node's own records for a ridge that it runs (R63). -/
def Dev.ridgeOwn (d : Dev) (qpn tag addr : Nat) (bs : Bytes) : Dev :=
  match mget d.trn.qps qpn with
  | none => d
  | some q =>
    if !d.contributes q.ridge d.pwr.node then d.bump (rk 0x00E00058 32) 32 1 else (d.ridgeJoin qpn q.ridge d.pwr.node tag addr none bs).1

/-- CANCEL_RIDGE (R63): waiting entries of a ridge-table entry, of one tag or all, end with ST_FENCED. -/
def Dev.ridgeCancel (d : Dev) (idx : Nat) (tag : Option Nat) : Dev :=
  (d.trn.merges.filter (fun m => decide (m.ridge = idx ∧ (tag = none ∨ tag = some m.tag)))).foldl (fun d m =>
    d.ridgeEmit m (ridgeStatusRecs m.form (stCode .fenced) 0)) d

/-! ### Answers to forwarded pool requests (R423) -/

/-- Whether a message is the completion record of a forwarded request: of a GATHER, the one of 16 bytes with its TAG and OP. -/
def fwdLast (desc : W512) (pay : Bytes) : Bool :=
  decide (pay.length = 16 ∧ leAt pay 0 4 = wf desc 160 32 ∧ fld (leAt pay 5 1) 0 4 = wf desc 16 4)

/-- One PARTIAL message for a forwarded request is delivered as the node delivers its own (R315). -/
def Dev.fwdDeliver (d : Dev) (w : Fwd) (addr : Nat) (pay : Bytes) : Dev :=
  let op := wf w.desc 16 4
  -- a code of 0x0C or above is not passed on (R13; log entry 147, DESIGN CHOICE)
  let st := stCode (stOf (leAt pay 4 1))
  let pay := pay.set 4 (BitVec.ofNat 8 st)
  let last := fwdLast w.desc pay
  let d := if last then { d with shp := { d.shp with fwds := d.shp.fwds.filter (· ≠ w) } } else d
  match w.src with
  | .host f sq tag ret =>
    let d := if last && decide (st = 0 ∧ (op = 0 ∨ op = 2)) then
        (match mget d.trn.qps w.qpn with
         | none => d
         | some q => if d.shp.abroad.contains (q.remote, f) then d else { d with shp := { d.shp with abroad := d.shp.abroad ++ [(q.remote, f)] } })
      else d
    let info := if op = 6 then leAt pay 12 4 else 0
    if ret then
      (if last then d.hostAnswer f sq tag 3 st info [(addr, pay)] else d.pareaWrite f addr pay)
    else
      let rqp := wf w.desc 96 20
      let t : PktTag := if last then .host f sq tag 3 st info else .none
      if d.qpReady rqp then d.partialOn rqp (wf w.desc 0 12) addr (wf w.desc 160 32) pay t
      else if last then (d.bump (rk 0x00E00058 0) 32 1).hostAnswer f sq tag 3 st info [] else d.bump (rk 0x00E00058 0) 32 1
  | _ => d

/-- PARTIAL (R279, R423): a complete message at a ridge intake QP joins its merge entry; one on a peer QP answers a request that
this node forwarded, in MSN order. A fenced node acts on none, since its effect may be a record that leaves (R263). -/
def partialStep (qpn msn : Nat) (d : Dev) : Dev :=
  match d.theMsg qpn msn 7 with
  | none => d
  | some (q, m) =>
    if !m.complete || d.trn.fenced then d else
    let d' := d.modMsg qpn msn (fun m => { m with done := true })
    if q.type = 2 then
      if !d.contributes q.ridge (hSrc m.hdr) then (d'.dropPkt 6 m.hdr).settleCredit qpn m.data.length 1 else
      let (d', opened) := d'.ridgeJoin qpn q.ridge (hSrc m.hdr) (hImm m.hdr) m.addr (some qpn) m.payload
      d'.settleCredit qpn m.data.length (b2n !opened)
    else if !q.prior msn then d else
      let d' := match d'.shp.fwds.find? (fun w => decide (w.qpn = qpn ∧ wf w.desc 160 32 = hImm m.hdr)) with
        | none => d'.bump (rk 0x00E00058 0) 32 1
        | some w => d'.fwdDeliver w m.addr m.payload
      d'.settleCredit qpn m.data.length 0

end Sys2Proof.Machine
end

