-- ==== Sys2Proof/Machine/Score.lean ====
section
/-! DEFINITION. Score programs (chapter 3): the machine of R65 to R75 and the validation of an image (R70, R78). -/

namespace Sys2Proof.Machine

/-- Instruction word i of a program image (R78). -/
def spInsn (image : Bytes) (i : Nat) : Nat := leAt image (16 + 4 * i) 4
/-- Constant C[n] of a program image (R78). -/
def spConst (image : Bytes) (n : Nat) : Nat := leAt image (208 + 4 * n) 4

/-- A floating-point result: a NaN faults (R72). -/
def spF (r : Nat) : Option Nat := if fIsNan r then none else some r

/-- Operands of a floating-point instruction are read as FP32; a NaN pattern faults (R72). -/
def spF1 (a : Nat) (f : Nat → Nat) : Option Nat := if fIsNan a then none else spF (f a)
def spF2 (a b : Nat) (f : Nat → Nat → Nat) : Option Nat := if fIsNan a ∨ fIsNan b then none else spF (f a b)

/-- Sign extension of the 16-bit immediate. -/
def sx16 (i : Nat) : Int := if i < 2 ^ 15 then i else (i : Int) - (2 ^ 16 : Nat)

/-- The value one instruction writes (Table 3.3), none where it faults. `c` reads the constant table. -/
def spEval (c : Nat → Nat) (op a b d imm : Nat) : Option Nat :=
  match op with
  | 0x01 => spF2 a b fAdd
  | 0x02 => spF2 a b fSub
  | 0x03 => spF2 a b fMul
  | 0x04 => if fIsNan d then none else spF2 a b (fun x y => fFma x y d)
  | 0x05 => spF2 a b fMin
  | 0x06 => spF2 a b fMax
  | 0x07 => spF1 a fAbs
  | 0x08 => spF1 a fFlip
  | 0x09 => spF1 a fRcp
  | 0x0A => spF1 a fEx2
  | 0x0B => spF1 a fLg2
  | 0x0C => spF1 a fTanh
  | 0x0D => some (fOfInt a)
  | 0x0E => if fIsNan a then none else some (fToInt a)
  | 0x10 => if fIsNan a ∨ fIsNan b then none else some (b2n (decide (fVal a < fVal b)))
  | 0x11 => if fIsNan a ∨ fIsNan b then none else some (b2n (decide (fVal a ≤ fVal b)))
  | 0x12 => if fIsNan a ∨ fIsNan b then none else some (b2n (decide (fVal a = fVal b)))
  | 0x18 => some (sat32 (sx32 a + sx32 b))
  | 0x19 => some (sat32 (sx32 a - sx32 b))
  | 0x1A => some (sat32 (sx32 a * sx32 b))
  | 0x1B => some (ux32 (min (sx32 a) (sx32 b)))
  | 0x1C => some (ux32 (max (sx32 a) (sx32 b)))
  | 0x1D => some (a &&& b)
  | 0x1E => some (a ||| b)
  | 0x1F => some (a ^^^ b)
  | 0x20 => some ((a <<< (b % 32)) % 2 ^ 32)
  | 0x21 => some (a >>> (b % 32))
  | 0x22 => some (ux32 (sx32 a / (2 ^ (b % 32) : Nat)))
  | 0x23 => some (b2n (decide (sx32 a < sx32 b)))
  | 0x24 => some (b2n (decide (sx32 a ≤ sx32 b)))
  | 0x25 => some (b2n (decide (a = b)))
  | 0x26 => some (b2n (decide (a < b)))
  | 0x28 => some (if a ≠ 0 then b else d)
  | 0x29 => some a
  | 0x2A => some (c (a % 128))
  | 0x2B => some (if 0 ≤ sx32 a ∧ sx32 a ≤ 4095 then fld (c (a / 32)) (a % 32) 1 else 0)
  | 0x30 => some (c (imm % 128))
  | 0x31 => some (ux32 (sx16 imm))
  | 0x32 => some (imm <<< 16)
  | 0x33 => some (sat32 (sx32 a + sx16 imm))
  | 0x34 => some (a &&& imm)
  | 0x35 => some ((a <<< (imm % 32)) % 2 ^ 32)
  | 0x36 => some (a >>> (imm % 32))
  | _ => some 0

/-- Runs `n` instructions from index `i`; the registers, or the index of the faulting instruction. -/
def spRun (image : Bytes) : (n i : Nat) → List Nat → Except Nat (List Nat)
  | 0, _, r => .ok r
  | n + 1, i, r =>
    let w := spInsn image i
    let op := fld w 0 6
    if op = 0 then spRun image n (i + 1) r else
    match spEval (spConst image) op (r.getD (fld w 11 5) 0) (r.getD (fld w 16 5) 0) (r.getD (fld w 21 5) 0) (fld w 16 16) with
    | none => .error i
    | some v => spRun image n (i + 1) (r.set (fld w 6 5) v)

/-- The presented score through a program: s′, or (INSN, CAUSE) of the fault (R75). `len` 0 is the identity program. -/
def spScore (image : Bytes) (len : Nat) (inputs : List Nat) : Except (Nat × Nat) Nat :=
  let s := inputs.headD 0
  if fIsNan s ∨ s = fInf then .error (63, 3) else
  match spRun image len 0 (inputs ++ List.replicate (32 - inputs.length) 0) with
  | .error i => .error (i, 1)
  | .ok r =>
    let x := r.headD 0
    if fIsNan x ∨ x = fInf then .error (63, 2) else .ok x

/-! ### Loading (R70, R78) -/

/-- Formats of opcodes: 0 reserved, 1 no operand, 2 a, 3 a b, 4 a b c (format R); 5 imm, 6 a imm, 7 imm below 128,
8 a imm below 32 (format K). -/
def spForm (op : Nat) : Nat :=
  if op = 0 then 1 else
  if op ∈ [0x07, 0x08, 0x09, 0x0A, 0x0B, 0x0C, 0x0D, 0x0E, 0x29, 0x2A, 0x2B] then 2 else
  if op ∈ [0x04, 0x28] then 4 else
  if (1 ≤ op ∧ op ≤ 0x06) ∨ (0x10 ≤ op ∧ op ≤ 0x12) ∨ (0x18 ≤ op ∧ op ≤ 0x26) then 3 else
  if op = 0x30 then 7 else if op = 0x31 ∨ op = 0x32 then 5 else if op = 0x33 ∨ op = 0x34 then 6 else
  if op = 0x35 ∨ op = 0x36 then 8 else 0

/-- Whether a word's unused and reserved fields are 0 (R70, Table 3.3). -/
def spClean (w : Nat) : Bool :=
  match spForm (fld w 0 6) with
  | 1 => w / 64 = 0
  | 2 => fld w 16 16 = 0
  | 3 => fld w 21 11 = 0
  | 4 => fld w 26 6 = 0
  | 5 => fld w 11 5 = 0
  | 6 => true
  | 7 => fld w 11 5 = 0 ∧ fld w 23 9 = 0
  | _ => fld w 21 11 = 0

/-- The first offending instruction word from index `i`: (REASON, INSN). -/
def spBadInsn (image : Bytes) (len : Nat) : (n i : Nat) → Option (Nat × Nat)
  | 0, _ => none
  | n + 1, i =>
    let w := spInsn image i
    if i < len then
      (if spForm (fld w 0 6) = 0 then some (5, i) else if spClean w then spBadInsn image len n (i + 1) else some (6, i))
    else if w = 0 then spBadInsn image len n (i + 1)
    else some (if spForm (fld w 0 6) = 0 then 5 else 6, i)

/-- The checks of R78 but for the last: (REASON, SLOT, INSN) of the first that fails. `admitted` says whether a tenant
is admitted in a partition. -/
def spCheck (image : Bytes) (admitted : Nat → Nat → Bool) : Option (Nat × Nat × Nat) :=
  let h := leAt image 0 16
  let slot := fld h 8 6
  let scope := fld h 14 2
  let part := fld h 16 4
  let ten := fld h 20 12
  if image.length ≠ 720 then some (9, 0, 0) else
  if fld h 0 8 ≠ 1 then some (3, slot, 0) else
  if slot = 0 then some (1, 0, 0) else
  if fld h 32 6 < 1 ∨ 48 < fld h 32 6 then some (4, slot, 0) else
  if scope = 3 ∨ (scope = 2 ∧ (part ≠ 0 ∨ ten ≠ 0)) ∨ (scope = 1 ∧ ten ≠ 0) ∨ (scope = 0 ∧ !admitted ten part) then
    some (7, slot, 0) else
  if h / 2 ^ 38 ≠ 0 then some (6, slot, 63) else
  (spBadInsn image (fld h 32 6) 48 0).map (fun (r, i) => (r, slot, i))

/-- The image whose digest slot 0 has (R82). -/
def spIdentity : Bytes := leBytes 16 (1 + 2 * 2 ^ 14) ++ List.replicate 704 0

end Sys2Proof.Machine
end

