-- ==== Sys2Proof/Machine/Walk.lean ====
section
/-! DEFINITION. A tenon from its arrival to its orders: admission (R29 to R42, R76, R242, R346), the walk of its pinned version
(R44, R45, R127 to R131), and the orders built from it (R16, R43, R94, R424). -/

namespace Sys2Proof.Machine

/-! ### Ends -/

/-- Takes a tenon's orders, contexts, scratch and partials back: no further order of an ended tenon is delivered (R26). Strokes at an engine end
normally and their results are discarded (R93); `cut`: those not granted are discarded too (R102). -/
def Dev.dropOrders (d : Dev) (t : Nat) (cut : Bool) : Dev :=
  let d := { d with atn := { d.atn with clQ := d.atn.clQ.filter (fun o => decide (o.tidx ≠ t)), scratch := d.atn.scratch.filter (fun x => decide (x.tidx ≠ t)) } }
  let d := d.unstage t
  let d := (d.bnk.stks.map Prod.fst).foldl (fun d s =>
    d.endOrds s (fun o => decide (o.opc = 0 ∧ o.tidx = t)) (fun o => !o.app && !o.dead && decide (o.tidx = t)) cut true) d
  { d with bnk := { d.bnk with stks := mmap d.bnk.stks (fun _ s =>
      { s with ctxs := s.ctxs.filter (· ≠ t), ctxq := s.ctxq.filter (· ≠ t), copies := s.copies.filter (fun c => decide (c.tidx ≠ t)) }) } }

/-- A condition ends a tenon: the first to reach the dispatcher (R26). `wait`: its status is held until a journal entry
commits (R378). -/
def Dev.tenonEnds (d : Dev) (t : Nat) (st : St) (info : Nat) (wait : Bool) : Dev :=
  match mget d.atn.table t with
  | none => d
  | some e =>
    if e.phase = .ended ∨ e.phase = .departing then d else
    let d := d.dropOrders t (decide (st = .keyRevoked))
    let d := if st = .shape then d.bump (rk 0x00200010 0) 64 1 else if st = .programFault then d.bump (rk 0x00200018 0) 64 1 else d
    { d with atn := { d.atn with table := mset d.atn.table t { e with phase := .ended, result := if wait then none else some (st, info), parts := [], stackDone := [], left := [], clLeft := 0 } } }

/-- Sends a tenon's records: to the partial area with its CQ entry, on its return QP, or nowhere when that QP is in error
(R48, R315, R420). -/
def Dev.sendRecords (d : Dev) (t : Nat) (bs : Bytes) (st : St) (info : Nat) : Dev :=
  match mget d.atn.table t with
  | none => d
  | some e =>
    let d := { d with atn := { d.atn with
      table := mset d.atn.table t { e with phase := .departing, result := some (st, info), parts := [], stackDone := [] }
      scratch := d.atn.scratch.filter (fun x => decide (x.tidx ≠ t)) } }
    match e.src with
    | .host f sq tag true => (d.hostAnswer f sq tag 0 (stCode st) info [(e.tn.roff, bs)]).freeTenon t
    | _ =>
      if d.qpType e.tn.rqp = some 2 then (d.ridgeOwn e.tn.rqp e.tn.tag e.tn.roff bs).departed (.record t true) else
      if d.qpReady e.tn.rqp then d.sendPartial e.tn.rqp e.tn.roff e.tn.tag bs (.record t true)
      else (d.bump (rk 0x00E00058 0) 32 1).departed (.record t true)

/-! ### Admission -/

/-- The query's place in the query buffer. -/
def Dev.qAddr (d : Dev) (t : Tn) : Nat := d.shareBase t.part + 64 * t.qoff
def Dev.mAddr (d : Dev) (t : Tn) : Nat := d.shareBase t.part + 64 * t.marg

/-- R38: a tenon whose query or mask granules carry another tag. One that runs past the share is not checked: its ST_SHAPE stands alone (log entry 150,
DESIGN CHOICE). -/
def Dev.tagsOk (d : Dev) (qb : QBuf) (t : Tn) (keygen : Nat) : Bool :=
  (t.qinl || decide (d.shareSize t.part < 64 * t.qoff + t.qlen) || qb.owned (d.qAddr t) t.qlen t.ten keygen) &&
  (decide (t.maskLen = 0) || decide (d.shareSize t.part < 64 * t.marg + t.maskLen) || qb.owned (d.mAddr t) t.maskLen t.ten keygen)

/-- The live binding of a tenant's layer (R346). -/
def Dev.projOf (d : Dev) (ten layer : Nat) : Option Proj :=
  d.shp.projs.find? (fun p => p.live && decide (p.ten = ten ∧ p.first ≤ layer ∧ layer ≤ p.first + p.nlm1))

/-- R346: a KIND 2 tenon's layer is bound for its heads, d and LCODE. -/
def Dev.projOk (d : Dev) (t : Tn) : Bool :=
  decide (shKind t.shape ≠ 2) || (match d.projOf t.ten t.layer with
    | none => false
    | some p => decide (t.hgrp * 16 + t.gm1 < p.nq ∧ shD t.shape = p.dcode ∧ shL t.shape = p.lcode))

/-- R76: the program slot is loaded and usable by the tenon. Slot 0 is the identity program. -/
def Dev.progOk (d : Dev) (t : Tn) : Bool :=
  decide (t.sprog = 0) || (match mget d.atn.progs t.sprog with
    | none => false
    | some p =>
      let h := leAt p.image 0 16
      decide (p.state = 1) && (match fld h 14 2 with
        | 0 => decide (fld h 20 12 = t.ten ∧ fld h 16 4 = t.part)
        | 1 => decide (fld h 16 4 = t.part)
        | _ => true))

/-- The head group of a tenon's page set: latent kinds have one (R41, R242). -/
def Tn.pageGrp (t : Tn) : Nat := if shKind t.shape = 0 then t.hgrp else 0

/-- What is wrong with a tenon at admission, every condition with its INFO (R14). The directory is searched when the node is not
fenced and the handle is its own (R31, R242, R243). Log entry 59, DEDUCED. Log entry 61, DEDUCED. -/
def Dev.tenonConds (d : Dev) (qb : QBuf) (t : Tn) (w : Work) : List (St × Nat) × Dev :=
  let early := cond d.trn.fenced .fenced ++
    cond (!d.keyOk t.ten w.keygen || !d.tagsOk qb t w.keygen) .keyRevoked ++
    cond (!tnOk w.desc t (d.shareSize t.part) w.extra || !d.projOk t) .shape ++
    cond (!d.progOk t) .programFault
  if hNode t.seq ≠ d.pwr.node then (early ++ cond true .notHome (homeInfo (hNode t.seq) 0), d) else
  let orph := cond (match d.seqOf t.seq t.ten t.part with
    | none => true
    | some q => q.closing) .orphaned
  if d.trn.fenced ∨ !orph.isEmpty then (early ++ orph, d) else
  let (h, d) := d.dirHome ⟨t.ten, d.originOf t.seq, t.layer, t.pageGrp, t.pfirst⟩
  (early ++ (match h with
    | none => []
    | some n => cond true .notHome (homeInfo n 0)), d)

/-- The lowest free tenon-table entry; ridge entries take the highest (R32, R60). -/
def Dev.freeTidx (d : Dev) : Option Nat :=
  if 65536 ≤ d.atn.table.length + d.trn.merges.length then none else some (mfree d.atn.table 0 65536)

/-- A new entry. -/
def newTenon (w : Work) (t : Tn) (admitted : Bool) (proj : Option Nat) : Tenon :=
  { (default : Tenon) with
      src := w.src, tn := t, keygen := w.keygen, trailer := w.extra, phase := .arborWait, slot := hSlot t.seq, admitted := admitted,
      proj := proj }

/-! ### The walk -/

/-- The sequence of a handle that is not closing: a tenon that names a closing sequence is an orphan (R31, R186). -/
def Dev.openSeq (d : Dev) (h ten part : Nat) : Option Seq := (d.seqOf h ten part).filter (fun q => !q.closing)

/-- Whether key position k is visible to query token `tok` (Table 2.7). -/
def visibleAt (t : Tn) (mask : Bytes) (tok k : Nat) : Bool :=
  match t.mkind with
  | 0 => true
  | 1 => decide (k ≤ t.qpos + tok)
  | 2 => decide (t.qpos + tok < k + t.marg ∧ k ≤ t.qpos + tok)
  | 3 => decide (k ≤ t.qpos + tok ∧ fld (leAt mask ((k / 16 - t.pfirst) / 8) 1) ((k / 16 - t.pfirst) % 8) 1 = 1)
  | _ => decide (k < t.qpos) || (decide (k - t.qpos < t.tT) && decide (fld (leAt mask (8 * tok) 8) (k - t.qpos) 1 = 1))

/-- R46: each row of a tree matrix has its own bit and none above it. -/
def treeOk (t : Tn) (mask : Bytes) : Bool :=
  decide (t.mkind ≠ 4) || (List.range t.tT).all (fun r => decide (leAt mask (8 * r) 8 / 2 ^ r = 1))

/-- The worked pages of a tenon in a lane slot (R44, R45). -/
def Dev.workedPages (d : Dev) (t : Tn) (mask : Bytes) (s : LSlot) : List WPage :=
  (s.pages.filter (fun p => decide (t.pfirst ≤ p.1 ∧ p.1 < t.pfirst + t.pcnt))).filterMap (fun (i, e) =>
    let r := d.resolve e
    let lo := heldLo i r
    let hi := heldHi i s.endp
    if (List.range (hi - lo)).any (fun o => (List.range t.tT).any (fun tok => visibleAt t mask tok (lo + o))) then
      some ⟨i, r, e.shareIdx, lo - 16 * i, hi - 16 * i⟩ else none)

/-- R42: the tenon's shape, format, layer and heads agree with the arbor. -/
def geoOk (t : Tn) (g : Geom) : Bool :=
  decide (t.shape = g.shape ∧ t.kvfmt = g.kvfmt ∧ t.layer ≤ g.nlm1) &&
  (decide (shKind t.shape ≠ 0) || decide (t.hgrp < g.nhg ∧ t.kvf + t.kvn < g.heads))

/-- Changes a tenon's entry. -/
def Dev.modTenon (d : Dev) (i : Nat) (f : Tenon → Tenon) : Dev := { d with atn := { d.atn with table := mmod d.atn.table i f } }

/-- The stack of a page's frame, when it is worked at a stack. -/
def stackOf (chunk : Bool) (e : PageEnt) : Option (Nat × Nat × Nat) :=
  if chunk then none else match e.loc with
  | .t1 s c f => some (s, c, f)
  | _ => none

/-! ### Tenon contexts at the stacks (R95, R96, R102) -/

/-- Bytes of a tenon context in a query store (R96). -/
def ctxBytes (t : Tn) : Nat :=
  t.rows * (if shKind t.shape = 2 then 2 * kLenOf t.shape else t.vecBytes) + (if t.mkind = 4 then t.maskLen else 0)

/-- The key cache with a tenant's entry: an entry that no resident context names, and no append order under way, makes room (R102, log entry
20, DESIGN CHOICE). -/
def Dev.keyEntry (d : Dev) (k : Stack) (key : Nat × Nat) : Option (List (Nat × Nat)) :=
  if k.keys.contains key then some k.keys else
  if k.keys.length < 128 then some (k.keys ++ [key]) else
  let named := k.ctxs.filterMap (fun i => (mget d.atn.table i).map (fun e => (e.tn.ten, e.keygen))) ++
    (k.opens.filter OpenOrd.app).map (fun o => (o.ten, o.gen))
  match k.keys.find? (fun x => !named.contains x) with
  | none => none
  | some x => some (k.keys.filter (· ≠ x) ++ [key])

/-- Bytes held in a die's query store. -/
def Stack.storeUsed (k : Stack) (die : Nat) : Nat := sumN ((k.copies.filter (fun c => decide (c.die = die))).map CtxCopy.bytes)

/-- A stack with the contexts that it can take, in the order of their arrival: each has its key-cache entry and a copy in the query store of each die
that its orders name. The base die holds the first that finds no room, and those behind it, by handshake (log entry 123, DEDUCED). -/
def Dev.takeCtxs (d : Dev) (k : Stack) : List Nat → Stack
  | [] => { k with ctxq := [] }
  | i :: r =>
    match mget d.atn.table i with
    | none => d.takeCtxs k r
    | some e =>
      let dies := ((k.orders.filter (fun o => decide (o.opc = 0 ∧ o.tidx = i))).map FOrder.die).eraseDups
      match d.keyEntry k (e.tn.ten, e.keygen) with
      | none => { k with ctxq := i :: r }
      | some keys =>
        if dies.all (fun c => decide (k.storeUsed c + ctxBytes e.tn ≤ 262144)) then
          d.takeCtxs { k with keys := keys, ctxs := k.ctxs ++ [i], copies := k.copies ++ dies.map (⟨·, i, ctxBytes e.tn⟩) } r
        else { k with ctxq := i :: r }

/-- Contexts that wait at a stack become resident as far as there is room. -/
def Dev.admitCtxs (d : Dev) (s : Nat) : Dev :=
  let k := d.stack s
  if k.ctxq.isEmpty then d else d.setStack s (d.takeCtxs k k.ctxq)

/-- Pages in T1 get a frame order each, the others and those of a chunk a cluster work order (R43, R94, R424); contexts go to their
stacks first (R95, R96). -/
def Dev.queueOrders (d : Dev) (i : Nat) (e : Tenon) (fcls : Nat) : Dev :=
  let ch := e.tn.chunk
  let st := e.pages.filterMap (fun p => (stackOf ch p.ent).map (fun l => (l, p)))
  let mk (x : (Nat × Nat × Nat) × WPage) : FOrder :=
    let later := (st.dropWhile (fun y => decide (y.2.page ≤ x.2.page))).filter (fun y => decide (y.1.1 = x.1.1))
    ⟨0, i, 0, x.1.2.1, fcls, x.1.2.2, x.2.page - e.tn.pfirst, x.2.lo, x.2.hi, !later.any (fun y => decide (y.1.2.1 = x.1.2.1)), later.isEmpty,
      x.2.ent.kscale, x.2.ent.vscale, x.2.ent.ver, 0⟩
  let stks := (List.range 8).foldl (fun m s =>
    let os := (st.filter (fun x => decide (x.1.1 = s))).map mk
    if os.isEmpty then m else
    let k := mgetD m s Stack.empty
    mset m s { k with orders := k.orders ++ os, ctxq := k.ctxq ++ [i] }) d.bnk.stks
  let cl := (e.pages.filter (fun p => (stackOf ch p.ent).isNone)).map (fun p => (⟨i, p.page⟩ : ClOrder))
  let left := (List.range 8).foldl (fun m s => nset m s (st.filter (fun x => decide (x.1.1 = s))).length) []
  let d := { d with bnk := { d.bnk with stks := stks }, atn := { d.atn with clQ := d.atn.clQ ++ cl } }
  left.foldl (fun d x => d.admitCtxs x.1) (d.modTenon i (fun e => { e with left := left, clLeft := cl.length, phase := .working }))

/-- The pages of a tenon that lie in T3 after looking again at the current version (R188). -/
def Dev.restage (q : Seq) (lane : Nat) (p : WPage) : WPage :=
  match p.ent.loc with
  | .t3 _ => match mget (q.now lane).pages p.page with
    | none => p
    | some e => match e.loc with
      | .t3 _ => p
      | .share _ => p
      | _ => { p with ent := { p.ent with loc := e.loc, ver := e.ver, sblk := e.sblk, failed := e.failed, fcause := e.fcause } }
  | _ => p

def isT3 (p : WPage) : Bool := match p.ent.loc with
  | .t3 _ => true
  | _ => false

/-- What bars a worked page (R26, R45, R197, R207). -/
def Dev.pageBar (d : Dev) (q : Seq) (t : Tn) (p : WPage) : List (St × Nat) :=
  let id := q.runId t.layer t.pageGrp p.page
  let off := p.page - t.pfirst
  let away := match p.ent.loc with
    | .away _ => true
    | _ => false
  -- an ORPHANED page-run is so wherever its entry points (R197)
  cond (!d.isOrphan id && (away || !d.isHome id)) .notHome off ++ cond (d.isOrphan id) .orphaned (sat20 off) ++
  cond (p.ent.failed && !away) .tierError (sat20 off)

/-- Ends a tenon on the first bar of its pages; the hint of an ST_NOT_HOME is sought for its page (R244). -/
def Dev.barred (d : Dev) (i : Nat) (q : Seq) (t : Tn) (pages : List WPage) : Option Dev :=
  match firstCond false (pages.flatMap (d.pageBar q t)) with
  | none => none
  | some (.notHome, off) =>
    let e := (pages.find? (fun p => decide (p.page = t.pfirst + off))).map (·.ent)
    let (h, d) := d.hint (q.runId t.layer t.pageGrp (t.pfirst + off)) (e.getD ⟨.away 0, 0, false, 0, 0, 0, 0, 0⟩)
    some (d.tenonEnds i .notHome (homeInfo h off) false)
  | some (st, info) => some (d.tenonEnds i st info false)

/-- The region, version and first element of the projections of a query row (R347). -/
def Dev.projAt (d : Dev) (e : Tenon) (r : Nat) : Option (RegionProps × Version × Nat) :=
  match e.proj with
  | none => none
  | some slot =>
    match d.shp.projs.find? (fun p => decide (p.reader = slot)), mget d.shp.readers slot with
    | some p, some rd =>
      match mget d.shp.regions rd.region with
      | none => none
      | some g =>
        match g.versions.find? (fun v => decide (v.num = rd.ver)) with
        | none => none
        | some v => some (g.p, v, ((e.tn.layer - p.first) * p.nq + e.tn.hgrp * 16 + e.tn.rowQ r) * 2 * latOf (shL e.tn.shape) * dimOf (shD e.tn.shape))
    | _, _ => none

/-- Whether a pool unit that holds a KIND 2 tenon's projections is FAILED (R232). -/
def Dev.projFailed (d : Dev) (e : Tenon) : Bool :=
  decide (shKind e.tn.shape = 2) && (List.range e.tn.rows).any (fun r => match d.projAt e r with
    | none => false
    | some (_, v, base) => (v.ids (spanUnits (2 * base) (4 * latOf (shL e.tn.shape) * dimOf (shD e.tn.shape)))).any (fun u =>
        match mget d.shp.units u with
        | none => false
        | some x => x.failed))

/-- The walk's last part: every page at hand. Pages in T3 are waited for; else the query is copied and the orders are built. A KIND 2 tenon whose
projections lie in a FAILED pool unit ends with ST_TIER_ERROR and INFO 0 (log entry 138, DESIGN CHOICE). -/
def Dev.buildOrders (d : Dev) (qb : QBuf) (i : Nat) (e : Tenon) (q : Seq) : Dev :=
  let t := e.tn
  let lane := q.geo.lane t.layer t.pageGrp
  let pages := e.pages.map (Dev.restage q lane)
  match d.barred i q t pages with
  | some d => d
  | none =>
    let t3 := (pages.filter isT3).map (fun p => q.runId t.layer t.pageGrp p.page)
    if !t3.isEmpty then d.modTenon i (fun e => { e with pages := pages, phase := .stageWait t3 }) else
    if d.projFailed e then d.tenonEnds i .tierError 0 false else
    let query := if t.qinl then e.trailer.take t.qlen else qb.read (d.qAddr t) t.qlen
    let e := { e with pages := pages, query := query }
    ((d.modTenon i (fun _ => e)).bump (rk 0x00600010 0) 64 1).queueOrders i e q.geo.fcls

/-- The walk once the version is pinned: R42, the mask, the worked pages, and the blocks to read. A block that several pages need is counted and
touched once, at its first need (log entry 129, DESIGN CHOICE). -/
def Dev.walkPinned (d : Dev) (qb : QBuf) (i : Nat) (e : Tenon) (q : Seq) (v : Nat) : Dev :=
  let t := e.tn
  if !geoOk t q.geo then d.tenonEnds i .shape 0 false else
  let mask := if t.maskLen = 0 then [] else qb.read (d.mAddr t) t.maskLen
  if !treeOk t mask then d.tenonEnds i .shape 0 false else
  let lane := q.geo.lane t.layer t.pageGrp
  let s := q.slotFor lane v
  let pages := d.workedPages t mask s
  let shares := pages.filterMap WPage.share
  let d := { d with pgm := { d.pgm with shares := shares.foldl (fun m k => mmod m k (fun x => { x with holds := x.holds + 1 })) d.pgm.shares } }
  let blocks := (q.ldPath lane ++ pages.flatMap (fun p => s.path q.geo.perLeaf p.page ++ (if p.ent.loc.isT1 then [p.ent.sblk] else []))).eraseDups
  let (d, miss) := blocks.foldl (fun (x : Dev × List Nat) a => let (d, m) := x.1.leafUse a
                                                             (d, if m then x.2 ++ [a] else x.2)) (d, [])
  let e := { e with mask := mask, pages := pages }
  if miss.isEmpty then (d.modTenon i (fun _ => e)).buildOrders qb i e q
  else d.modTenon i (fun _ => { e with phase := .leafWait miss })

/-- One tenon goes as far as its walk can: the arbor, the pin, the blocks (R127, R130, R131). -/
def Dev.walk (d : Dev) (qb : QBuf) (i : Nat) (first : Bool) : Dev :=
  match mget d.atn.table i with
  | none => d
  | some e =>
    if e.phase ≠ .arborWait ∧ e.phase ≠ .pinWait then d else
    -- a CLOSE or a teardown meanwhile (R25, R31)
    if (d.openSeq e.tn.seq e.tn.ten e.tn.part).isNone then d.tenonEnds i .orphaned 0 false else
    match d.takeArbor e.slot false [e.slot] with
    | none => if first then (d.pinWait false) else d
    | some d =>
      match d.takePin e.slot with
      | none => (if first ∨ e.phase = .arborWait then d.pinWait false else d).modTenon i (fun e => { e with phase := .pinWait })
      | some (v, d) =>
        match mget d.pgm.seqs e.slot with
        | none => d
        | some q =>
          let e := { e with pin := some v }
          (d.modTenon i (fun _ => e)).walkPinned qb i e q v

/-- Tenons that wait for an arbor, a pin or a stage-back try again, in table order. -/
def Dev.poke (d : Dev) (qb : QBuf) : Dev :=
  (d.atn.table.map Prod.fst).foldl (fun d i => match mget d.atn.table i with
    | none => d
    | some e => match e.phase with
      | .arborWait => d.walk qb i false
      | .pinWait => d.walk qb i false
      | .stageWait _ => match mget d.pgm.seqs e.slot with
        | none => d
        | some q => d.buildOrders qb i e q
      | _ => d) d

/-- A tenon that is not admitted: its CQ entry, or its status records by way of an entry of the table (R32, R49, R314). -/
def Dev.turnAway (d : Dev) (i : Nat) (w : Work) (t : Tn) (st : St) (info : Nat) : Dev :=
  let d := if st = .shape then d.bump (rk 0x00200010 0) 64 1 else d
  match w.src with
  | .host f sq tag _ => (d.bump (rk 0x01000010 0) 32 (b2n (decide (st = .keyRevoked)))).hostAnswer f sq tag 0 (stCode st) info []
  | _ => ({ d with atn := { d.atn with table := mset d.atn.table i (newTenon w t false none) } }).sendRecords i (statusRecs t st info) st info

/-- TENON: the tenon at the head of the dispatcher's queue is admitted or refused (Table 1.3, steps 3 to 6); it waits while the context of its
return QP is not cached (R266). Log entry 14, DESIGN CHOICE. -/
def tenonStep (qb : QBuf) (d : Dev) : Dev :=
  match d.atn.queue with
  | [] => d
  | w :: r =>
    let t := parseTn w.desc
    match d.freeTidx with
    | none => d
    | some i =>
      if d.rqpAway w.src t.rqp then d.rqpFetch t.rqp else
      let bad := d.atn.spoilt.contains w
      let d := { d with atn := { d.atn with queue := r, spoilt := d.atn.spoilt.filter r.contains } }
      let back (d : Dev) : Dev := match w.src with
        | .qp n => (d.giveBack n 0 1).escapement
        | _ => d
      if !d.rqpOk w.src false t.rqp t.ten t.part then back (d.noAnswer w.src) else
      let (cs, d) := d.tenonConds qb t w
      match firstCond false cs with
      | none =>
        let d := { d with atn := { d.atn with table := mset d.atn.table i ({ newTenon w t true ((d.projOf t.ten t.layer).map Proj.reader) with unspecified := bad }) } }
        d.walk qb i true
      | some (st, info) => d.turnAway i w t st info

/-- What the fault record of a ledger block says that a tenon's walk read: the page is `off` pages from the first. -/
def leafInfo (i : Nat) (e : Tenon) (q : Seq) (off : Nat) : JInfo :=
  { tenant := e.tn.ten, part := e.tn.part, tag := e.tn.tag, ctxid := i, ckind := 1, seq := q.origin, layer := e.tn.layer, hgrp := e.tn.pageGrp, page := e.tn.pfirst + off }

/-- The first leaf block in T0 of a tenon's walk that fails its check: the page's offset, the cause, the tile. Such a block is read in place, and
is verified before a record departs (R20, R118; log entry 173, DEDUCED). -/
def Dev.walkLeaf (d : Dev) (fs : List ColFault) (e : Tenon) : Option (Nat × Nat × Nat) :=
  if fs.isEmpty then none else
  match mget d.pgm.seqs e.slot with
  | none => none
  | some q =>
    let s := q.slotFor (q.geo.lane e.tn.layer e.tn.pageGrp) (e.pin.getD 0)
    e.pages.findSome? (fun p => ((s.path q.geo.perLeaf p.page).filter (2 ^ 29 ≤ ·)).findSome? (fun a => (d.blkFault fs a).map (fun f => (p.page - e.tn.pfirst, f))))

/-- A leaf block of T0 failed: it is frozen and journalled, and ends the tenon (Table 14.2). -/
def Dev.leafFails (d : Dev) (i : Nat) (e : Tenon) (off cause tile : Nat) : Dev :=
  (d.tenonEnds i .integrity 0 true).dataFault tile cause false (10 * 4096) (leafInfo i e (mgetD d.pgm.seqs e.slot default) off) [.tenon i .integrity (sat20 off)]

/-- LEAF_BLOCK_READ_DONE: a block enters the cache and the walks that waited for it go on; a block that fails its check, or whose
column is uncorrectable, ends them with ST_INTEGRITY (R20, R98). Log entry 58, DEDUCED. -/
def leafDoneStep (qb : QBuf) (a : Nat) (fault : Option ColKind) (d : Dev) : Dev :=
  let waits := d.atn.table.filter (fun e => match e.2.phase with
    | .leafWait l => l.contains a
    | _ => false)
  if waits.isEmpty then d else
  let tile := tileAddr (fld a 0 3) (fld a 3 4) (fld a 7 5) (1024 * fld a 12 17)
  let fs : List ColFault := match fault with
    | some k => [⟨tile, k⟩]
    | none => []
  let bad := (d.blkFault fs a).map Prod.fst
  let d := d.eccAll fs
  let d := match bad with
    | some c => d.tileFail tile c false
    | none => d
  match bad with
  | some c =>
    waits.foldl (fun d e =>
      let i := e.1
      let t := e.2.tn
      let q := mgetD d.pgm.seqs e.2.slot default
      let lane := q.geo.lane t.layer t.pageGrp
      let s := q.slotFor lane (e.2.pin.getD 0)
      let hit := e.2.pages.find? (fun p => (s.path q.geo.perLeaf p.page).contains a || decide (p.ent.sblk = a))
      let off := match hit with
        | none => 0
        | some p => p.page - t.pfirst
      let bits := [(rk 0x00401000 0, fld a 0 3), (rk 0x00401000 3, fld a 3 4), (rk 0x00401000 7, fld a 7 5), (rk 0x00401000 12, c),
        (rk 0x00401000 16, t.ten), (rk 0x00401000 32, i), (rk 0x00401000 48, off % 2 ^ 16)]
      (d.tenonEnds i .integrity 0 true).dataFault tile c false (10 * 4096) (leafInfo i e.2 q off) (.tenon i .integrity (sat20 off) :: bits.map (fun b => .field b.1 b.2))) d
  | none =>
    let d := d.leafPut a
    waits.foldl (fun d e => match e.2.phase with
      | .leafWait l =>
        let l := l.filter (· ≠ a)
        if l.isEmpty then (match mget d.pgm.seqs e.2.slot with
          | none => d
          | some q => (d.modTenon e.1 (fun e => { e with phase := .working })).buildOrders qb e.1 e.2 q)
        else d.modTenon e.1 (fun e => { e with phase := .leafWait l })
      | _ => d) d

/-- Whether bytes written lie in the query or mask granules of a tenon (R40 speaks of granules). -/
def Dev.hits (d : Dev) (a n : Nat) (t : Tn) : Bool :=
  let g (x m : Nat) : Bool := decide (m ≠ 0) && overlaps (a / 64) ((a + n - 1) / 64 - a / 64 + 1) (x / 64, (m + 63) / 64)
  (!t.qinl && g (d.qAddr t) t.qlen) || g (d.mAddr t) t.maskLen

/-- R40: bytes written over the query or the mask of a tenon leave its results unspecified, wherever the tenon stands: in the table, in the
dispatcher's queue, or in a message not handed on. `own`: the QP and MSN of the message that wrote them; a SUBMIT of that QP with a later MSN reads what
this message wrote (R39). -/
def Dev.overwrite (d : Dev) (a n : Nat) (own : Option (Nat × Nat) := none) : Dev :=
  if n = 0 then d else
  let hitW (w : Work) : Bool := decide (w.kind = 0) && d.hits a n (parseTn w.desc)
  { d with
    atn := { d.atn with
      table := mmap d.atn.table (fun _ e => if e.phase ≠ .departing ∧ d.hits a n e.tn then { e with unspecified := true } else e)
      spoilt := d.atn.spoilt ++ d.atn.queue.filter (fun w => hitW w && !d.atn.spoilt.contains w) }
    trn := { d.trn with qps := mmap d.trn.qps (fun k q =>
      let earlier (m : Msg) : Bool := match own with
        | none => false
        | some (qpn, msn) => decide (qpn = k ∧ (msn + 2 ^ 24 - q.exp) % 2 ^ 24 < (m.msn + 2 ^ 24 - q.exp) % 2 ^ 24)
      { q with msgs := q.msgs.map (fun m => if decide (hOp m.hdr = 6) && !m.done && m.complete && !earlier m && hitW (mkWork k q m) then { m with spoilt := true } else m) }) } }

end Sys2Proof.Machine
end

