-- ==== Sys2Proof/Machine/Attn.lean ====
section
/-! DEFINITION. Working a tenon's pages: decoding rows and queries (R35, R57, R111), segments (R51, R54, R66), the engines of a
frame's die (R17, R94 to R99), clusters (R424), fault reports (R75, R77, R109), and the merges (R18, R56, R101). -/

namespace Sys2Proof.Machine

/-! ### Rows and queries -/

/-- Elements of a stored vector and its block scales (R111). -/
def kvDecode (f n : Nat) (bs : Bytes) : List Nat × List Nat :=
  let nb := n * kvBits f / 8
  let v := leNat (bs.take nb)
  ((List.range n).map (fun i => kvElem f (fld v (kvBits f * i) (kvBits f))),
   if kvMx f then ((bs.drop nb).take (n / 32)).map BitVec.toNat else [])

/-- Elements with their block scales applied, as the value pass takes them (R54). -/
def kvScaled (els xs : List Nat) : List Nat := els.zipIdx.map (fun (e, i) => match xs[i / 32]? with
  | none => e
  | some x => fScale x e)

/-- A row's key elements, key scales and value elements: a latent's value is its first L elements (R41, R111). -/
def kvRow (shape f : Nat) (bs : Bytes) : List Nat × List Nat × List Nat :=
  let (k, xs) := kvDecode f (kLenOf shape) bs
  if shKind shape ≠ 0 then (k, xs, k.take (vLenOf shape)) else
  let (v, vs) := kvDecode f (vLenOf shape) (bs.drop (kvVec f (kLenOf shape)))
  (k, xs, kvScaled v vs)

/-- The query vector of row r as it was sent (R35). -/
def qRow (t : Tn) (query : Bytes) (r : Nat) : List Nat :=
  let w := qBits t.qfmt / 8
  (List.range (qLenOf t.shape)).map (fun i => qElem t.qfmt (leAt query (r * t.vecBytes + w * i) w))

/-- BF16 elements of a projection region. -/
def Dev.projElems (d : Dev) (p : RegionProps) (v : Version) (e0 n : Nat) : List Nat :=
  match d.elems p v e0 n with
  | .error _ => []
  | .ok bs => (List.range n).map (fun i => fBf16 (leAt bs (2 * i) 2))

/-- The query row that is scored: for KIND 2 the absorbed query, each element rounded to BF16 (R57). -/
def Dev.rowQuery (d : Dev) (e : Tenon) (r : Nat) : List Nat :=
  let q := qRow e.tn e.query r
  if shKind e.tn.shape ≠ 2 then q else
  match d.projAt e r with
  | none => q
  | some (p, v, base) =>
    let n := dimOf (shD e.tn.shape)
    (List.range (latOf (shL e.tn.shape))).map (fun i => fBf16 (toBf16 (dotQK (q.take n) (d.projElems p v (base + i * n) n) []))) ++
      (q.drop n).map (fun x => fBf16 (toBf16 x))

/-- The output projection of a merged row (R57). -/
def Dev.rowOut (d : Dev) (e : Tenon) (r : Nat) (p : Partial) : Partial :=
  if shKind e.tn.shape ≠ 2 then p else
  match d.projAt e r with
  | none => p
  | some (rp, v, base) =>
    let n := dimOf (shD e.tn.shape)
    let l := latOf (shL e.tn.shape)
    { p with o := (List.range n).map (fun k =>
        BitVec.ofNat 32 ((List.zip (p.o.map BitVec.toNat) (d.projElems rp v (base + l * n + k * l) l)).foldl (fun acc x => fFma x.1 x.2 acc) 0)) }

/-! ### Segments -/

/-- The program of a slot and its length; slot 0 is the identity program. -/
def Dev.program (d : Dev) (slot : Nat) : Bytes × Nat :=
  if slot = 0 then ([], 0) else match mget d.atn.progs slot with
    | none => ([], 0)
    | some p => (p.image, fld (leAt p.image 0 16) 32 6)

/-- The registers of Table 3.1 for a query row and key position. -/
def spInputs (t : Tn) (s r k : Nat) : List Nat :=
  let tok := t.rowTok r
  let kvh := if shKind t.shape = 0 then t.hgrp * 8 + t.rowHead r else 0
  let qh := if shKind t.shape = 0 then kvh * t.tg + t.rowQ r else t.hgrp * 16 + t.rowQ r
  [s, sat32 ((t.qpos : Int) + tok - k), sat32 ((k : Int) - t.qpos), tok, t.rowQ r, kvh, qh, k / 16 - t.pfirst, t.layer, k % 2 ^ 32, r]

/-- Scores and values of a query row's keys, in ascending position, for the keys it presents (R45, R51, R65). -/
def segScores (t : Tn) (mask : Bytes) (prog : Bytes × Nat) (kscale : Nat) (qv : List Nat) (r : Nat) :
    List (Nat × List Nat × List Nat × List Nat) → Except (Nat × Nat) (List (Nat × List Nat))
  | [] => .ok []
  | (k, key, xs, val) :: rest =>
    if !visibleAt t mask (t.rowTok r) k then segScores t mask prog kscale qv r rest else
    match spScore prog.1 prog.2 (spInputs t (presented (decide (t.kvfmt = 4)) (dotQK qv key xs) kscale t.sscale.toNat) r k) with
    | .error x => .error x
    | .ok s => match segScores t mask prog kscale qv r rest with
      | .error x => .error x
      | .ok l => .ok ((s, val) :: l)

/-- A partial put into a list by unit and row. -/
def partPut (k : Nat × Nat) (p : Partial) : List ((Nat × Nat) × Partial) → List ((Nat × Nat) × Partial)
  | [] => [(k, p)]
  | x :: r => if x.1 = k then (k, p) :: r else x :: partPut k p r

/-- The partial of a unit and row. -/
def partOf? (ps : List ((Nat × Nat) × Partial)) (k : Nat × Nat) : Option Partial := (ps.find? (fun x => decide (x.1 = k))).map Prod.snd

/-- One unit's work on a page: for each query row whose KV head it holds keys of, its segment is folded into its partial
(R54, R56). `rows`: position and head of a row it holds, with the row decoded. Of several faults in one unit its report names one (R77): a
failure of stored data before a program fault, then the lowest query row, then the lowest position (log entry 139, DESIGN CHOICE). -/
def Dev.unitRows (d : Dev) (e : Tenon) (u : Nat) (kscale vscale : Nat) (rows : List ((Nat × Nat) × (List Nat × List Nat × List Nat))) :
    List Nat → List ((Nat × Nat) × Partial) → Except (Nat × Nat) (List ((Nat × Nat) × Partial))
  | [], ps => .ok ps
  | r :: rest, ps =>
    let mine := (rows.filter (fun x => decide (x.1.2 = e.tn.rowHead r))).map (fun x => (x.1.1, x.2))
    if mine.isEmpty then d.unitRows e u kscale vscale rows rest ps else
    match segScores e.tn e.mask (d.program e.tn.sprog) kscale (d.rowQuery e r) r mine with
    | .error x => .error x
    | .ok ks =>
      match segPart (decide (e.tn.kvfmt = 4)) vscale (vLenOf e.tn.shape) ks with
      | .error x => .error x
      | .ok p =>
        match partOf? ps (u, r) with
        | none => d.unitRows e u kscale vscale rows rest (partPut (u, r) p ps)
        | some a => match mergePart a p with
          | .error x => .error x
          | .ok m => d.unitRows e u kscale vscale rows rest (partPut (u, r) m ps)

/-- A failure met by a unit: of stored data (cause and tile), or of the program (instruction and cause). -/
def Dev.pageRows (d : Dev) (fs : List ColFault) (q : Seq) (id : RunId) (ent : PageEnt) :
    List (Nat × Nat) → Except (Nat × Nat) (List ((Nat × Nat) × (List Nat × List Nat × List Nat)))
  | [] => .ok []
  | (t, h) :: rest => match d.entRow fs q id ent t h with
    | .error x => .error x
    | .ok b => match d.pageRows fs q id ent rest with
      | .error x => .error x
      | .ok l => .ok (((16 * id.page + t, h), kvRow q.geo.shape q.geo.kvfmt b) :: l)

/-- The rows (token, head) of a page that a tenon has worked: tokens [lo, hi), heads KVF to KVF + KVN (R97). -/
def orderRows (t : Tn) (lo hi : Nat) : List (Nat × Nat) :=
  (List.range (hi - lo)).flatMap (fun i => (List.range t.tH).map (fun h => (lo + i, t.kvf + h)))

/-- Every tile check that fails in some rows of a page, with its cause. -/
def Dev.failedTiles (d : Dev) (fs : List ColFault) (q : Seq) (id : RunId) (ent : PageEnt) (rows : List (Nat × Nat)) : List (Nat × Nat) :=
  rows.flatMap (fun x => (List.range (q.geo.w / 64)).filterMap (fun i =>
    let a := rowTile q.geo ent.loc x.1 x.2 i
    match d.readTile fs a (frameLoc id.layer id.page (tileNo q.geo x.1 x.2 i)) q.ten ent.ver with
    | .error c => some (c, a)
    | .ok _ => none))

/-- Counts every failed tile check of some rows (R77, R109). -/
def Dev.countTiles (d : Dev) (fs : List ColFault) (q : Seq) (id : RunId) (ent : PageEnt) (moves : Bool) (rows : List (Nat × Nat)) : Dev :=
  (d.failedTiles fs q id ent rows).foldl (fun d x => d.tileFail x.2 x.1 moves) d

/-- One unit works rows of a page: the new partials, or its fault with cause 5 standing for a program fault's cause. -/
def Dev.unitPage (d : Dev) (fs : List ColFault) (q : Seq) (id : RunId) (ent : PageEnt) (e : Tenon) (u : Nat) (rows : List (Nat × Nat)) :
    Except ((Nat × Nat) ⊕ (Nat × Nat)) (List ((Nat × Nat) × Partial)) :=
  match d.pageRows fs q id ent rows with
  | .error x => .error (.inl x)
  | .ok l => match d.unitRows e u ent.kscale.toNat ent.vscale.toNat l (List.range e.tn.rows) e.parts with
    | .error x => .error (.inr x)
    | .ok ps => .ok ps

/-- The report of a unit's fault (R77). -/
def mkReport (i off u : Nat) (moves : Bool) (id : RunId) : (Nat × Nat) ⊕ (Nat × Nat) → Report
  | .inl (c, a) => ⟨i, if c = 2 && moves then .tierError else .integrity, sat20 off, u, c, 0, a, moves, id⟩
  | .inr (insn, c) => ⟨i, .programFault, 0, u, c, insn, 0, false, id⟩

/-! ### Frame orders (R94 to R99) -/

/-- Tenons that an engine works: those whose partials it has not yet sent (R95). It sends them at the tenon's STACK_MERGE (log entry 124,
DESIGN CHOICE). -/
def Dev.engineBusy (d : Dev) (u : Nat) : List Nat :=
  (d.atn.table.filter (fun e => e.2.parts.any (fun p => decide (p.1.1 = u)))).map Prod.fst

/-- Whether an order can be delivered: an append order with its tenant's key in the key cache (R100, R102); an attention order once its context is
resident and at most two tenons are at each engine (R95, R96). An order for an engine that has stopped waits (R360). -/
def Dev.orderFits (d : Dev) (stack : Nat) (k : Stack) (o : FOrder) : Bool :=
  if o.opc ≠ 0 then
    match mget d.pgm.seqs o.slot with
    | none => true
    | some q => (d.keyEntry k (q.ten, d.gen q.ten)).isSome && !(engineRows q.geo.heads ((List.range (o.hi - o.lo)).flatMap (fun i =>
        (List.range q.geo.heads).map (fun h => (o.lo + i, h))))).any (fun x => d.isStopped (4096 + engUnit stack o.die x.1))
  else
    match mget d.atn.table o.tidx with
    | none => true
    | some e =>
      match mget d.pgm.seqs e.slot with
      | none => true
      | some q => k.ctxs.contains o.tidx && (engineRows q.geo.heads (orderRows e.tn o.lo o.hi)).all (fun x =>
          decide (((d.engineBusy (engUnit stack o.die x.1)).filter (· ≠ o.tidx)).length < 2) && !d.isStopped (4096 + engUnit stack o.die x.1))

/-- The next order that a base die can deliver: orders for one die go in their order (R95). -/
def Dev.nextOrder (d : Dev) (stack : Nat) (k : Stack) : (blocked : List Nat) → List FOrder → Option FOrder
  | _, [] => none
  | bl, o :: r => if bl.contains o.die then d.nextOrder stack k bl r else
    if d.orderFits stack k o then some o else d.nextOrder stack k (o.die :: bl) r

/-- Adds a report and stops its unit's further orders and strokes of the tenon (R77). -/
def Dev.report (d : Dev) (r : Report) : Dev :=
  let d := { d with atn := { d.atn with reports := d.atn.reports ++ [r] } }
  if r.unit < 8192 then
    d.endOrds (if r.unit < 4096 then r.unit / 512 else r.unit - 4096) (fun o => decide (o.opc = 0 ∧ o.tidx = r.tidx))
      (fun o => !o.app && !o.dead && decide (o.tidx = r.tidx)) true false
  else d

/-- Second home check and key check of a work order (R26, R93, R102). -/
def Dev.orderBar (d : Dev) (e : Tenon) (id : RunId) (off : Nat) : Option (St × Nat) :=
  firstCond false (cond (d.isOrphan id) .orphaned (sat20 off) ++ cond (!d.isHome id && !d.isOrphan id) .notHome off ++
    cond (!d.keyOk e.tn.ten e.keygen) .keyRevoked)

/-- Ends a tenon on a bar of a work order. -/
def Dev.orderEnds (d : Dev) (i : Nat) (id : RunId) (ent : PageEnt) : St × Nat → Dev
  | (.notHome, off) =>
    let (h, d) := d.hint id ent
    d.tenonEnds i .notHome (homeInfo h off) false
  | (st, info) => d.tenonEnds i st info false

/-- A page-run is touched once for each tenon, when its first work order is delivered (R172). -/
def Dev.touchFor (d : Dev) (i : Nat) (e : Tenon) (id : RunId) : Dev :=
  if e.touched.contains id then d else (d.touchRun id).modTenon i (fun e => { e with touched := e.touched ++ [id] })

/-- An order reaches its engines: it is open until its strokes have ended (R87, R107). -/
def Dev.openOrd (d : Dev) (stack : Nat) (o : OpenOrd) (loc : Loc) (g : Geom) (foff : Nat) (es : List (Nat × List (Nat × Nat))) : Dev :=
  let k := d.stack stack
  let d := { d with bnk := { d.bnk with nextOrd := o.ord + 1 } }
  ((d.setStack stack { k with opens := k.opens ++ [o] }).pushStrokes ⟨o.ord, loc, o.app, false, false⟩ stack o.die g foff es).closeOrds stack

/-- An append order is delivered: its rows lie in the frame already, and its strokes are queued (R100, log entry 125, DESIGN CHOICE). -/
def Dev.deliverAppend (d : Dev) (stack : Nat) (q : Seq) (o : FOrder) : Dev :=
  let k := d.stack stack
  match d.keyEntry k (q.ten, d.gen q.ten) with
  | none => d
  | some keys =>
    let rows := (List.range (o.hi - o.lo)).flatMap (fun i => (List.range q.geo.heads).map (fun h => (o.lo + i, h)))
    (d.setStack stack { k with keys := keys }).openOrd stack ⟨d.bnk.nextOrd, true, o.slot, q.ten, d.gen q.ten, o.die, false, false⟩
      (.t1 stack o.die o.foff) q.geo o.foff (engineRows q.geo.heads rows)

/-- The engines' work on an order, and the strokes it takes. -/
def Dev.deliver (d : Dev) (fs : List ColFault) (stack i : Nat) (e : Tenon) (q : Seq) (o : FOrder) (p : WPage) : Dev :=
  let id := q.runId e.tn.layer e.tn.pageGrp p.page
  let loc : Loc := .t1 stack o.die o.foff
  let d := (d.touchFor i e id).eccAll (frameFaults fs q.geo loc)
  let es := engineRows q.geo.heads (orderRows e.tn o.lo o.hi)
  let res := es.map (fun x => (engUnit stack o.die x.1, d.unitPage fs q id { p.ent with loc := loc } e (engUnit stack o.die x.1) x.2))
  let bad := res.filterMap (fun x => match x.2 with
    | .error f => some (x.1, f)
    | .ok _ => none)
  let macBad := (List.range e.tn.tH).find? (fun h => !d.macOk fs q.geo loc e.tn.ten p.ent.ver o.lo o.hi (e.tn.kvf + h))
  let off := p.page - e.tn.pfirst
  let d := ((d.modTenon i (fun e => { e with left := nset e.left stack (mgetD e.left stack 0 - 1) })).openOrd stack
    ⟨d.bnk.nextOrd, false, i, e.tn.ten, e.keygen, o.die, false, false⟩ loc q.geo o.foff es)
  match bad with
  | (u, f) :: _ => (d.countTiles fs q id { p.ent with loc := loc } false (orderRows e.tn o.lo o.hi)).report (mkReport i off u false id f)
  | [] =>
    match macBad with
    | some h => d.report (mkReport i off (4096 + stack) false id (.inl (3, rowTile q.geo loc o.lo (e.tn.kvf + h) 0)))
    | none =>
      let ps := res.foldl (fun acc x => match x.2 with
        | .ok l => (l.filter (fun y => decide (y.1.1 = x.1))).foldl (fun a y => partPut y.1 y.2 a) acc
        | .error _ => acc) e.parts
      d.modTenon i (fun e => { e with parts := ps })

/-- The 32 bytes of a frame order (Table 4.4). -/
def FOrder.bits (o : FOrder) : Nat :=
  pack [(0, 16, o.tidx), (16, 4, o.die), (20, 2, o.opc), (22, 3, o.fcls), (25, 21, o.foff), (48, 16, o.pidx), (64, 5, o.lo), (69, 5, o.hi),
    (78, 1, b2n o.dlast), (79, 1, b2n o.slast), (80, 32, o.kscale.toNat), (112, 32, o.vscale.toNat), (144, 32, o.ver),
    (46, 2, o.rsvd % 4), (74, 4, o.rsvd / 4 % 16), (176, 80, o.rsvd / 64)]

/-- Whether a base die takes a frame order: no reserved encoding and no reserved bit that is not 0 (R94). -/
def orderOk (b : Nat) : Bool :=
  decide (fld b 20 2 < 2 ∧ fld b 22 3 < 6 ∧ fld b 46 2 = 0 ∧ fld b 64 5 < 16 ∧ fld b 64 5 < fld b 69 5 ∧ fld b 69 5 ≤ 16 ∧ fld b 74 4 = 0 ∧ b / 2 ^ 176 = 0)

/-- FRAME_ORDER: the contexts that a stack can take become resident, and its next frame order is checked and distributed (R26, R93 to R100). -/
def frameOrderStep (stack : Nat) (fs : List ColFault) (d : Dev) : Dev :=
  if d.isStopped (3 * 4096 + stack) then d else
  let d := d.admitCtxs stack
  let k := d.stack stack
  match d.nextOrder stack k [] k.orders with
  | none => d
  | some o =>
    let drop (d : Dev) : Dev := d.setStack stack { d.stack stack with orders := dropFirst (fun x => decide (x = o)) (d.stack stack).orders }
    -- a reserved encoding or bit ends the order's tenon; an append order has none, and is dropped (R94)
    if !orderOk o.bits then (if o.opc = 1 then drop d else (drop d).tenonEnds o.tidx .shape 0 false) else
    if o.opc = 1 then
      match mget d.pgm.seqs o.slot with
      | none => drop d
      | some q => (drop d).deliverAppend stack q o
    else
    match mget d.atn.table o.tidx with
    | none => drop d
    | some e =>
      match mget d.pgm.seqs e.slot, e.pages.find? (fun p => decide (p.page = e.tn.pfirst + o.pidx)) with
      | some q, some p =>
        let id := q.runId e.tn.layer e.tn.pageGrp p.page
        match d.orderBar e id o.pidx with
        | some c => (drop d).orderEnds o.tidx id p.ent c
        | none => (drop d).deliver fs stack o.tidx e q o p
      | _, _ => drop d

/-! ### Clusters (R424) -/

/-- Bytes of queries in a cluster's scratch. -/
def Dev.scratchUsed (d : Dev) (n : Nat) : Nat := sumN ((d.atn.scratch.filter (fun x => decide (x.cl = n))).map (fun x => x.query.length))

/-- Whether a cluster's scratch of 12 MiB has room for a page and for a tenon's query, which stays there until the tenon has been merged (R424,
log entry 126, DEDUCED). -/
def Dev.scratchRoom (d : Dev) (n i kib : Nat) (query : Bytes) : Bool :=
  decide (d.scratchUsed n + (if d.atn.scratch.any (fun x => decide (x.cl = n ∧ x.tidx = i)) then 0 else query.length) + 1024 * kib ≤ 12 * 2 ^ 20)

/-- The cluster that takes the next order: the first after the last that took one with room, in service and below level 2 (R424, Table 15.9). -/
def nextCluster (d : Dev) (ph : Phys) (i kib : Nat) (query : Bytes) : Option Nat :=
  ((List.range 24).map (fun j => (d.atn.lastCl + 1 + j) % 24)).find? (fun n =>
    !d.isStopped (2 * 4096 + n) && decide (((mget ph.cls n).map ClTherm.level).getD 0 < 2) && d.scratchRoom n i kib query)

/-- A tenon's query enters a cluster's scratch. -/
def Dev.scratchPut (d : Dev) (n i : Nat) (query : Bytes) : Dev :=
  if d.atn.scratch.any (fun x => decide (x.cl = n ∧ x.tidx = i)) then d else
  { d with atn := { d.atn with scratch := d.atn.scratch ++ [⟨n, i, query⟩] } }

/-- A cluster works an order: a chunk tenon's T1 page is staged into its scratch by ordinary claims (R43, R98, R421). -/
def Dev.clusterWork (d : Dev) (fs : List ColFault) (n i : Nat) (e : Tenon) (q : Seq) (id : RunId) (p : WPage) : Dev :=
  let off := p.page - e.tn.pfirst
  let u := 8192 + n
  let t1 := p.ent.loc.isT1
  let d := ((d.touchFor i e id).eccAll (frameFaults fs q.geo p.ent.loc)).bump (rk (0x01200400 + 8 * n) 0) 64 1
  let d := ((d.claimPage q.geo p.ent.loc p.lo p.hi false (some i)).scratchPut n i e.query).modTenon i (fun e => { e with clLeft := e.clLeft - 1 })
  match d.unitPage fs q id p.ent e u (orderRows e.tn p.lo p.hi) with
  | .error f => (d.countTiles fs q id p.ent t1 (orderRows e.tn p.lo p.hi)).report (mkReport i off u t1 id f)
  | .ok ps =>
    match (List.range e.tn.tH).find? (fun h => !d.macOk fs q.geo p.ent.loc e.tn.ten p.ent.ver p.lo p.hi (e.tn.kvf + h)) with
    | some h => d.report (mkReport i off u t1 id (.inl (3, rowTile q.geo p.ent.loc p.lo (e.tn.kvf + h) 0)))
    | none => d.modTenon i (fun e => { e with parts := ps })

/-- CLUSTER_WORK_ORDER: the next cluster work order is worked; a chunk tenon's T1 pages are staged first (R43, R98). -/
def clusterStep (fs : List ColFault) (ph : Phys) (d : Dev) : Dev :=
  match d.atn.clQ with
  | [] => d
  | o :: rest =>
    let next : Dev := { d with atn := { d.atn with clQ := rest } }
    match mget d.atn.table o.tidx with
    | none => next
    | some e =>
      match mget d.pgm.seqs e.slot, e.pages.find? (fun p => decide (p.page = o.page)) with
      | some q, some p =>
        let id := q.runId e.tn.layer e.tn.pageGrp p.page
        match d.orderBar e id (p.page - e.tn.pfirst) with
        | some c => next.orderEnds o.tidx id p.ent c
        | none =>
          match nextCluster d ph o.tidx (fKib q.geo.fcls) e.query with
          | none => d
          | some n => Dev.clusterWork { next with atn := { next.atn with lastCl := n } } fs n o.tidx e q id p
      | _, _ => next

/-! ### Fault reports (R75, R77, R109) -/

/-- Whether strokes of a tenon wait or run at a stack. -/
def Dev.strokesRun (d : Dev) (stack i : Nat) : Bool := (d.stack stack).opens.any (fun o => !o.app && !o.dead && decide (o.tidx = i))

/-- The ENGINE code of a unit in the order of R56. Log entry 55, DEDUCED. -/
def engineCode (u : Nat) : Nat :=
  if u < 4096 then 4096 + u else if u < 8192 then 3 * 4096 + (u - 4096) else if u < 16384 then 2 * 4096 + (u - 8192) else 9 * 4096

/-- Whether a report can be sent: strokes already running, and the staging reads of a cluster's pages, have ended (R77, R421). -/
def Dev.reportReady (d : Dev) (r : Report) : Bool :=
  if r.unit < 4096 then !d.strokesRun (r.unit / 512) r.tidx else if r.unit < 8192 then !d.strokesRun (r.unit - 4096) r.tidx else !d.staging r.tidx

/-- A program fault ends a tenon (R75, R85): frozen, not journalled. -/
def Dev.programFault (d : Dev) (i u cause insn : Nat) : Dev :=
  match mget d.atn.table i with
  | none => d
  | some e =>
    let d := d.setRegs [(rk 0x00201018 0, e.tn.sprog), (rk 0x00201018 6, insn), (rk 0x00201018 12, cause), (rk 0x00201018 16, e.tn.ten),
      (rk 0x00201018 32, e.tn.tag)]
    let j : JInfo := { code := stCode .programFault, sub := cause, engine := engineCode u, tenant := e.tn.ten, part := e.tn.part, tag := e.tn.tag,
                       ctxid := i, ckind := 1 }
    (d.fault j false []).tenonEnds i .programFault 0 false

/-- The fields of BNK_LASTFAULT (Table 4.14). -/
def lastFault (r : Report) (ten : Nat) : List (Nat × Nat) :=
  let (die, eng) := if r.cause = 3 then (0, 0) else (r.tile / 2 ^ 26 % 16, r.tile / 2 ^ 21 % 32)
  [(rk 0x00401000 0, tileStack r.tile), (rk 0x00401000 3, die), (rk 0x00401000 7, eng), (rk 0x00401000 12, r.cause),
    (rk 0x00401000 16, ten), (rk 0x00401000 32, r.tidx), (rk 0x00401000 48, r.info % 2 ^ 16)]

/-- A data fault ends a tenon: its status and BNK_LASTFAULT wait for the journal entry (R109, R378), and the tiles are to be
read again (R206). -/
def Dev.dataReport (d : Dev) (r : Report) (e : Tenon) : Dev :=
  let j : JInfo := { tenant := e.tn.ten, part := e.tn.part, tag := e.tn.tag, ctxid := r.tidx, ckind := 1, seq := r.run.seq, layer := r.run.layer,
                     hgrp := r.run.hgrp, page := r.run.page }
  let fields := if r.unit < 8192 then (lastFault r e.tn.ten).map (fun x => Held.field x.1 x.2) else []
  let d := { d with plc := { d.plc with suspects := d.plc.suspects ++ [(r.run, if r.cause = 2 then 1 else 2)] } }
  (d.tenonEnds r.tidx r.st r.info true).dataFault r.tile r.cause r.moves (engineCode r.unit) j (.tenon r.tidx r.st r.info :: fields)

/-- A unit's place in the merge order of R56: stacks, then clusters, then the merge unit. -/
def Report.place (r : Report) : Nat :=
  if r.unit < 4096 then r.unit / 512 else if r.unit < 8192 then r.unit - 4096 else r.unit

/-- Of reports that are ready for the tenon of the oldest one, that of the unit earliest in the merge order: they reach the dispatcher together (R77; log
entry 149, DESIGN CHOICE). -/
def Dev.nextReport (d : Dev) : Option Report :=
  match d.atn.reports.filter d.reportReady with
  | [] => none
  | r :: l => some (l.foldl (fun b x => if x.tidx = b.tidx ∧ x.place < b.place then x else b) r)

/-- FAULT_REPORT: a report whose unit's running work has ended reaches the dispatcher; one for a tenon that has ended is discarded (R26, R77). -/
def faultReportStep (d : Dev) : Dev :=
  match d.nextReport with
  | none => d
  | some r =>
    let d := { d with atn := { d.atn with reports := d.atn.reports.filter (· ≠ r) } }
    match mget d.atn.table r.tidx with
    | none => d
    | some e =>
      if e.phase = .ended ∨ e.phase = .departing then d else
      if r.st = .programFault then d.programFault r.tidx r.unit r.cause r.insn else d.dataReport r e

/-! ### Merges (R18, R56, R101) -/

/-- Merges each row's ordered partials. -/
def mergeRows (ofRow : Nat → List Partial) : List Nat → Except (Nat × Nat) (List (Nat × Partial))
  | [] => .ok []
  | r :: rest => match mergeAll (ofRow r) with
    | .error x => .error x
    | .ok none => mergeRows ofRow rest
    | .ok (some p) => match mergeRows ofRow rest with
      | .error x => .error x
      | .ok l => .ok ((r, p) :: l)

/-- Partials of a row from units [a, b), in ascending unit number. -/
def rowParts (ps : List ((Nat × Nat) × Partial)) (a b r : Nat) : List Partial :=
  let mine : List (Nat × Partial) := (ps.filter (fun x => decide (a ≤ x.1.1 ∧ x.1.1 < b ∧ x.1.2 = r))).map (fun x => (x.1.1, x.2))
  (mine.foldl (fun m x => mset m x.1 x.2) []).map Prod.snd

/-- Whether a stack has work of a tenon pending, holding a bank, or faulted. -/
def Dev.stackBusy (d : Dev) (stack i : Nat) (e : Tenon) : Bool :=
  decide (mgetD e.left stack 0 ≠ 0) || d.strokesRun stack i ||
  d.atn.reports.any (fun r => decide (r.tidx = i))

/-- STACK_MERGE: a stack whose SLAST has been worked merges its engines' partials and sends one result per row. -/
def stackMergeStep (stack i : Nat) (d : Dev) : Dev :=
  match mget d.atn.table i with
  | none => d
  | some e =>
    if e.phase ≠ .working ∨ d.stackBusy stack i e ∨ !e.parts.any (fun p => decide (p.1.1 / 512 = stack)) then d else
    match mergeRows (rowParts e.parts (512 * stack) (512 * stack + 512)) (List.range e.tn.rows) with
    | .error (insn, c) => d.report ⟨i, .programFault, 0, 4096 + stack, c, insn, 0, false, default⟩
    | .ok l =>
      let k := d.stack stack
      (d.setStack stack { k with ctxs := k.ctxs.filter (· ≠ i), copies := k.copies.filter (fun c => decide (c.tidx ≠ i)) }).modTenon i (fun e =>
        { e with parts := e.parts.filter (fun p => decide (p.1.1 / 512 ≠ stack)), stackDone := e.stackDone ++ l.map (fun x => (stack, x.1, x.2)) })

/-- Stack results of a row in order HS0 to HS7. -/
def rowStacks (l : List (Nat × Nat × Partial)) (r : Nat) : List Partial :=
  (List.range 8).filterMap (fun s => (l.find? (fun x => decide (x.1 = s ∧ x.2.1 = r))).map (·.2.2))

/-- A record's values finite in its format: the node never returns an infinite l or o (R52). Log entry 11, DEDUCED. -/
def outFinite (ofmt : Nat) (p : Partial) : Bool :=
  fFinite p.l.toNat && p.o.all (fun x => fFinite x.toNat && (decide (ofmt = 0) || fFinite (fBf16 (toBf16 x.toNat))))

/-- A partial whose values are free: the query was overwritten while the tenon was in flight (R40, log entry 3, DESIGN CHOICE). -/
def freePart (d : Dev) (n : Nat) : Partial × Dev :=
  let w (d : Dev) : W32 × Dev := (BitVec.ofNat 32 (d.fresh.1.toNat), d.fresh.2)
  let (m, d) := w d
  let (l, d) := w d
  let (k, d) := w d
  let (o, d) := (List.range n).foldl (fun (x : List W32 × Dev) _ => let (v, d) := w x.2
                                                                   (x.1 ++ [v], d)) ([], d)
  (⟨m, l, o, k.toNat⟩, d)

/-- The data records of a tenon, free where its query was overwritten. -/
def Dev.dataRecs (d : Dev) (e : Tenon) (ps : List (Nat × Partial)) : Bytes × Dev :=
  ps.foldl (fun (x : Bytes × Dev) rp =>
    let (p, d) := if e.unspecified then freePart x.2 (oLenOf e.tn.shape) else (rp.2, x.2)
    (x.1 ++ dataRec e.tn p rp.1, d)) ([], d)

/-- The pool units whose projections a KIND 2 tenon reads (R347). -/
def Dev.projUnits (d : Dev) (e : Tenon) : List Nat :=
  if shKind e.tn.shape ≠ 2 then [] else
  ((List.range e.tn.rows).flatMap (fun r => match d.projAt e r with
    | none => []
    | some (_, v, base) => v.ids (spanUnits (2 * base) (4 * latOf (shL e.tn.shape) * dimOf (shD e.tn.shape))))).eraseDups

/-- Reads the projections of a KIND 2 tenon with their checks before a record departs (R19, R212): the status of a failure. They lie in a
region of CODING NONE (R346), so nothing is decoded. -/
def Dev.readProj (d : Dev) (fs : List ColFault) (e : Tenon) : Option St × Dev :=
  let r := Dev.useUnits fs e.tn.tag (d.projUnits e) d
  (r.1.1, r.2)

/-- TENON_MERGE: with every stack and cluster result in, the merge unit merges the rows and the records are sent; a tenon that
ended with a status sends its status records (R18, R47 to R49). The leaf blocks of T0 and the projections that it used are verified first. -/
def tenonMergeStep (i : Nat) (fs : List ColFault) (d : Dev) : Dev :=
  match mget d.atn.table i with
  | none => d
  | some e =>
    match e.phase, e.result with
    | .ended, some (st, info) => d.sendRecords i (statusRecs e.tn st info) st info
    | .working, _ =>
      if !e.left.isEmpty ∨ e.clLeft ≠ 0 ∨ d.staging i ∨ e.parts.any (fun p => decide (p.1.1 < 4096)) ∨ d.atn.reports.any (fun r => decide (r.tidx = i)) then d else
      if !d.keyOk e.tn.ten e.keygen then d.tenonEnds i .keyRevoked 0 false else
      match d.walkLeaf fs e with
      | some (off, c, tile) => d.leafFails i e off c tile
      | none =>
      let d0 := d
      match d.readProj fs e with
      | (some st, d) => if d.rcv.jq.length ≤ d0.rcv.jq.length then d.tenonEnds i st 0 false
                        else (d.tenonEnds i st 0 true).hold [.tenon i st 0]
      | (none, d) =>
      match mergeRows (fun r => rowStacks e.stackDone r ++ rowParts e.parts 8192 8216 r) (List.range e.tn.rows) with
      | .error (insn, c) => d.programFault i 16384 c insn
      | .ok l =>
        let ps := (List.range e.tn.rows).map (fun r => (r, match l.find? (fun x => decide (x.1 = r)) with
          | none => emptyPart (oLenOf e.tn.shape)
          | some x => d.rowOut e r x.2))
        if !ps.all (fun x => outFinite e.tn.ofmt x.2) then d.programFault i 16384 4 63 else
        let (bs, d) := d.dataRecs e ps
        d.sendRecords i bs .ok 0
    | _, _ => d

end Sys2Proof.Machine
end

