-- ==== Sys2Proof/Machine/Edits.lean ====
section
/-! DEFINITION. Ledger edits (R133 to R142, Table 5.7): what an edit needs, its preparation, its publish and its end. The tier
manager's moves publish by the same operations (R175). -/

namespace Sys2Proof.Machine

/-! ### Page entries leaving a version -/

def emptyRetired : Retired := ⟨0, [], [], [], [], [], []⟩
def emptyPrep : Prep := ⟨[], false, emptyRetired, [], [], 0, [], [], [], [], none, [], emptyRetired, [], [], []⟩

/-- The identity of a page of a lane. -/
def Seq.idOf (q : Seq) (lane page : Nat) : RunId := q.runId (lane / q.geo.nhg) (lane % q.geo.nhg) page

/-- Storage that a version no longer names: a frame with its seal block, its granule when the array failed there (R207), or a share. -/
def Retired.unref (r : Retired) (e : PageEnt) : Retired :=
  match e.loc with
  | .share i => { r with shares := r.shares ++ [i] }
  | .t0 _ => { r with frames := r.frames ++ [e.loc] }
  | .t1 s c f => { r with frames := r.frames ++ [e.loc], blocks := r.blocks ++ [e.sblk]
                          granules := if e.failed ∧ e.fcause = 1 then r.granules ++ [granule s c f] else r.granules }
  | _ => r

/-- A page leaves the ledger: its storage, its run record, its directory entry; RELEASE goes to the home of an away page and to
the peer of an orphan (R186, R197, R245; log entry 32, DEDUCED). -/
def Dev.pageLeaves (d : Dev) (q : Seq) (lane page : Nat) (e : PageEnt) (p : Prep) : Prep :=
  let id := q.idOf lane page
  let r := p.retire.unref e
  let dst : Option Nat := match (d.run id).filter (fun x => decide (x.hstate = .orphaned)), e.loc with
    | some x, _ => some x.peer
    | none, .away n => some n
    | none, _ => none
  { p with retire := { r with runs := r.runs ++ [id] }, gone := p.gone ++ [id]
           release := match dst with
             | some n => p.release ++ [(id, n)]
             | none => p.release }

/-! ### New trees (R124, R132) -/

/-- The height that a page index needs. -/
def treeHeight (per page : Nat) : Nat := ((List.range 6).map (· + 1)).find? (fun h => decide (page / (per * 64 ^ (h - 1)) = 0)) |>.getD 6

/-- Blocks of a tree: (level, index), leaves first. -/
def treeKeys (per h : Nat) (pages : NMap PageEnt) : List (Nat × Nat) :=
  ((List.range h).map (· + 1)).flatMap (fun lv => ((pages.map (fun p => treeIdx per lv p.1)).eraseDups).map (fun i => (lv, i)))

/-- A leaf lies in T0 when a page entry in it names a T0 frame (R125); bit 29 marks such a block (log entry 23, DESIGN CHOICE). -/
def leafT0 (per : Nat) (pages : NMap PageEnt) (k : Nat × Nat) : Bool :=
  decide (k.1 = 1) && pages.any (fun p => decide (treeIdx per 1 p.1 = k.2) && p.2.loc.isT0)

/-- Gives each block of a tree its address: blocks on the path of a changed page are new. -/
def Dev.placeBlocks (per : Nat) (old : List ((Nat × Nat) × Nat)) (pages : NMap PageEnt) (changed : List Nat) :
    List (Nat × Nat) → Dev → List ((Nat × Nat) × Nat) × List Nat × Dev
  | [], d => ([], [], d)
  | k :: r, d =>
    let keep := if changed.any (fun i => decide (treeIdx per k.1 i = k.2)) then none else (old.find? (fun b => decide (b.1 = k))).map Prod.snd
    let (a, made, d) := match keep with
      | some a => (a, [], d)
      | none =>
        let (a, d) := if leafT0 per pages k then d.newBlk0 else d.newBlk
        (a, [a], d)
    let (bs, ms, d) := Dev.placeBlocks per old pages changed r d
    ((k, a) :: bs, made ++ ms, d)

/-- A lane as the edit will publish it: END, pages, and a tree with new blocks where pages changed. A new block enters the ledger-leaf cache as the most
recently used when it is written, at preparation (R20, R125; log entry 129, DESIGN CHOICE). -/
def Dev.newLane (q : Seq) (lane endp : Nat) (pages : NMap PageEnt) (changed : List Nat) (p : Prep) (d : Dev) : Except EditRes (Prep × Dev) :=
  let s := q.now lane
  let per := q.geo.perLeaf
  let h := match pages.getLast? with
    | none => 0
    | some x => max s.height (treeHeight per x.1)
  let (bs, made, d') := Dev.placeBlocks per s.blocks pages changed (treeKeys per h pages) d
  if !d.blkRoom (made.filter (fun a => decide (a < 2 ^ 29))).length then .error (.ends .refusedCapacity 0) else
  let gone := (s.blocks.map Prod.snd).filter (fun a => !(bs.map Prod.snd).contains a)
  .ok ({ p with lanes := mset p.lanes lane ⟨endp, pages, bs, none⟩, blocks := p.blocks ++ made, retire := { p.retire with blocks := p.retire.blocks ++ gone } },
    -- a mirror's shadows have no ledger blocks
    if q.ldroot.isEmpty then d' else made.foldl (fun d a => (d.claimBlk a true).leafPut a) d')

/-- The written end of a lane's new last frame, which the publish puts into WEND (R122). -/
def Prep.wrote (p : Prep) (lane wend : Nat) : Prep := { p with lanes := mmod p.lanes lane (fun l => { l with wend := some wend }) }

/-! ### Frames and rows -/

/-- A frame for a page of a sequence: drawn from its reservation while any remains, else within the quota and the free space
(R179, R184). -/
def Dev.takeFrame (slot : Nat) (q : Seq) (lane page : Nat) (p : Prep) (d : Dev) : Except EditRes (Frame × Prep × Dev) :=
  let resv := match mget d.pgm.seqs slot with
    | none => 0
    | some x => x.resv
  let bar := if 0 < resv then none else d.allocRefusal q.ten (fKib q.geo.fcls + 1)
  match bar with
  | some st => .error (.ends st 0)
  | none =>
    match d.allocT1 q.ten q.geo.fcls (slot + 7 * lane + page) with
    | none => .error (if 0 < resv then .wait else .ends .refusedCapacity 0)
    | some (f, d) =>
      let n := if 0 < resv then 1 else 0
      .ok (f, { p with made := p.made ++ [f.loc], drawn := p.drawn + n }, d.modSeq slot (fun x => { x with resv := x.resv - n }))

/-- A page entry for a frame. -/
def frameEnt (f : Frame) (first : Nat) (ks vs : W32) : PageEnt := ⟨f.loc, first, false, 0, f.ver, f.sblk, ks, vs⟩

/-- Held rows of a page, with checks and MACs verified (Table 5.7, step 4): an uncorrectable column is ST_TIER_ERROR (R98). A `dry` run reads none: it
shows whether step 3 fails. -/
def Dev.copyRows (d : Dev) (dry : Bool) (fs : List ColFault) (q : Seq) (lane page : Nat) (e : PageEnt) (lo hi : Nat) :
    Except EditRes (List ((Nat × Nat) × Bytes)) :=
  if dry then .ok [] else
  match d.entRows fs q (q.idOf lane page) e lo hi with
  | .ok l => .ok l
  | .error (c, a) => .error (.failed (if c = 2 then .tierError else .integrity) c a (q.idOf lane page))

/-- An append order for rows of an edit, in T1: positions [LO, HI) of a page, with the page's scales (R100, R138, Table 4.4). -/
def Dev.appendOrder (d : Dev) (slot : Nat) (g : Geom) (loc : Loc) (ver : Nat) (ks vs : W32) (rows : List (Nat × Nat)) : Dev :=
  match loc, rows with
  | .t1 s c f, _ :: _ =>
    let lo := (rows.map Prod.fst).foldl min 16
    let hi := (rows.map Prod.fst).foldl max 0 + 1
    let k := d.stack s
    d.setStack s { k with orders := k.orders ++ [⟨1, 0, slot, c, g.fcls, f, 0, lo, hi, false, false, ks, vs, ver, 0⟩] }
  | _, _ => d

/-- Whether append orders of an edit of a sequence are not complete. -/
def Dev.appending (d : Dev) (slot : Nat) : Bool := d.bnk.stks.any (fun s =>
  s.2.orders.any (fun o => decide (o.opc ≠ 0 ∧ o.slot = slot)) || s.2.opens.any (fun o => o.app && !o.dead && decide (o.tidx = slot)))

/-- Takes back the append orders of an edit that ends: those delivered run out (R93). -/
def Dev.dropAppends (d : Dev) (slot : Nat) : Dev := (d.bnk.stks.map Prod.fst).foldl (fun d s =>
  d.endOrds s (fun o => decide (o.opc ≠ 0 ∧ o.slot = slot)) (fun o => o.app && !o.dead && decide (o.tidx = slot)) false true) d

/-- Ordinary claims for the seal lines of some positions of a frame (R90, R119). -/
def Dev.claimSeals (d : Dev) (loc : Loc) (ts : List Nat) : Dev :=
  match d.plc.frames.find? (fun f => decide (f.loc = loc)) with
  | none => d
  | some f => if f.loc.isT1 then ts.foldl (fun d t => d.claimCol f.sblk t true) d else d

/-- Rows written into a frame: each with its checks, and in T1 its seal word. -/
def Dev.storeRows (d : Dev) (g : Geom) (id : RunId) (loc : Loc) (ver : Nat) (rows : List ((Nat × Nat) × Bytes)) : Dev :=
  (rows.foldl (fun d r => d.putRow g loc id.layer id.page id.ten ver r.1.1 r.1.2 r.2) d).claimSeals loc (rows.map (·.1.1)).eraseDups

/-- Rows that the memory controller writes, by ordinary claims (R90). -/
def Dev.writeRowsAt (d : Dev) (g : Geom) (id : RunId) (loc : Loc) (ver : Nat) (rows : List ((Nat × Nat) × Bytes)) : Dev :=
  (d.storeRows g id loc ver rows).claimRows g loc (rows.map Prod.fst) true

/-- Rows of an edit, in a page of its sequence: by append order in T1 (R138). A mirror's shadows belong to no slot (2^22). -/
def Dev.writeRows (d : Dev) (slot : Nat) (q : Seq) (lane page : Nat) (loc : Loc) (ver : Nat) (ks vs : W32) (rows : List ((Nat × Nat) × Bytes)) : Dev :=
  if 2 ^ 22 ≤ slot then d.writeRowsAt q.geo (q.idOf lane page) loc ver rows else
  (d.storeRows q.geo (q.idOf lane page) loc ver rows).appendOrder slot q.geo loc ver ks vs (rows.map Prod.fst)

/-- A lane entry is written: an ordinary claim for its column of the lane directory (R90, R122). -/
def Dev.claimLane (d : Dev) (slot lane : Nat) : Dev := match mget d.pgm.seqs slot with
  | none => d
  | some q => match (q.ldPath lane).head? with
    | none => d
    | some a => d.claimCol a (lane % 16) true

/-- WEND of a lane after positions are written (R137); it rises at step 4, whether or not the edit publishes. -/
def Dev.setWend (d : Dev) (slot lane wend : Nat) : Dev :=
  (d.modSeq slot (fun q => { q with lanes := mset q.lanes lane { mgetD q.lanes lane ⟨LSlot.empty, LSlot.empty, 0⟩ with wend := wend } })).claimLane slot lane

def Seq.wend (q : Seq) (lane : Nat) : Nat := match mget q.lanes lane with
  | none => 0
  | some l => l.wend

/-! ### What an edit needs (R135, R136, R197, R207) -/

/-- Whether an entry says that its page-run is away. -/
def PageEnt.isAway (e : PageEnt) : Bool := match e.loc with
  | .away _ => true
  | _ => false

/-- Whether a needed page is not at home here, an ORPHANED one apart (R197). -/
def Dev.notHere (d : Dev) (id : RunId) (e : PageEnt) : Bool := !d.isOrphan id && (e.isAway || !d.isHome id)

/-- Where a needed page bars an edit; `copy`: its held rows are read. INFO is the page's offset from the page `p0` (R197, R207; log entry 130,
DEDUCED); the hint of ST_NOT_HOME is put in by `hinted`. -/
def Dev.editBar (d : Dev) (q : Seq) (p0 lane page : Nat) (e : PageEnt) (copy : Bool) : List (St × Nat) :=
  let id := q.idOf lane page
  cond (d.isOrphan id) .orphaned (sat20 (page - p0)) ++ cond (d.notHere id e) .notHome ++
  cond (e.failed && copy && !e.isAway) .tierError (sat20 (page - p0))

/-- Whether an APPEND copies its first page: it is shared, or the frame was written at POS or above (R137, R142). -/
def appendCopies (q : Seq) (lane pos : Nat) (e : PageEnt) : Bool := e.shareIdx.isSome || decide (pos < q.wend lane)

/-- Kept drafts of a KEEP, and the first whose place changes. -/
def keptDrafts (w : W512) : List Nat := (List.range (dwNM1 w + 1)).filter (fun i => decide (fld (dwArg w) i 1 = 1))
def firstMoved (ks : List Nat) : Option Nat := (ks.zipIdx.find? (fun x => decide (x.1 ≠ x.2))).map Prod.snd

/-- The lanes that an edit names. -/
def editLanes (q : Seq) (w : W512) : List Nat := if dwAll w then List.range q.geo.lanes else [q.geo.lane (dwLayer w) (dwHgrp w)]

/-- The pages of a lane that a KEEP reads: those it writes anew and those that hold a moved draft. -/
def keepNeeds (w : W512) (s : LSlot) : List (Nat × PageEnt) :=
  let ks := keptDrafts w
  match firstMoved ks with
  | none => []
  | some j =>
    let lo := (dwPos w + j) / 16
    let hi := (dwPos w + ks.length - 1) / 16
    let src := (ks.drop j).map (fun k => (dwPos w + k) / 16)
    s.pages.filter (fun p => decide (lo ≤ p.1 ∧ p.1 ≤ hi) || src.contains p.1)

/-- The pages that an edit needs: lane, page, entry, and whether held rows are read. `src` is a FORK's source. -/
def Dev.editNeeds (d : Dev) (q : Seq) (src : Option Seq) (w : W512) : List (Nat × Nat × PageEnt × Bool) :=
  match dwOp w with
  | 0 =>
    let lane := q.geo.lane (dwLayer w) (dwHgrp w)
    match mget (q.now lane).pages (dwPos w / 16) with
    | none => []
    | some e => [(lane, dwPos w / 16, e, appendCopies q lane (dwPos w) e)]
  | 2 => (editLanes q w).flatMap (fun l => (keepNeeds w (q.now l)).map (fun p => (l, p.1, p.2, true)))
  | 3 => match src with
    | none => []
    | some x => (List.range x.geo.lanes).flatMap (fun l => (((x.now l).pages).filter (fun p =>
        decide (heldLo p.1 (d.resolve p.2) < dwPos w))).map (fun p => (l, p.1, p.2, true)))
  | _ => []

/-- The POS, END and scale rules of R133 and R135. -/
def Dev.editFits (_d : Dev) (q : Seq) (src : Option Seq) (w : W512) : Bool :=
  let pos := dwPos w
  let n := dwNM1 w + 1
  match dwOp w with
  | 0 =>
    let lane := q.geo.lane (dwLayer w) (dwHgrp w)
    let s := q.now lane
    decide (dwDlen w = n * q.geo.heads * q.geo.w) && (s.pages.isEmpty || decide (pos = s.endp)) && decide (pos + n < 2 ^ 36) &&
    (if q.geo.kvfmt = 4 then fFinite (dwKscale w) && fFinite (dwVscale w) && (match mget s.pages (pos / 16) with
        | none => true
        | some e => decide (e.kscale.toNat = dwKscale w ∧ e.vscale.toNat = dwVscale w))
     else decide (dwKscale w = 0 ∧ dwVscale w = 0))
  | 2 => decide (dwArg w / 2 ^ n = 0) && (editLanes q w).all (fun l => decide ((q.now l).endp = pos + n))
  | 3 => match src with
    | none => true
    | some x =>
      decide ({ x.geo with fcls := 0 } = { q.geo with fcls := 0 }) && (List.range q.geo.lanes).all (fun l => (q.now l).pages.isEmpty) &&
      (List.range x.geo.lanes).all (fun l => decide (pos ≤ (x.now l).endp))
  | _ => true

/-- What a handle comes to under R31: the sequence, or ST_NOT_HOME or ST_ORPHANED. -/
def Dev.handleBar (d : Dev) (h ten part : Nat) : List (St × Nat) :=
  if hNode h ≠ d.pwr.node then cond true .notHome (homeInfo (hNode h) 0) else
  match d.seqOf h ten part with
  | none => cond true .orphaned
  | some q => cond q.closing .orphaned

/-- The source of a FORK. -/
def Dev.forkSrc (d : Dev) (w : W512) : Option Seq := if dwOp w = 3 then d.seqOf (dwArg w % 2 ^ 48) (dwTen w) (dwPart w) else none

/-- The page from which an edit's INFO counts: that of POS, for a FORK the first. -/
def dwPage0 (w : W512) : Nat := if dwOp w = 3 then 0 else dwPos w / 16

/-- The conditions of an edit's needed pages; where the first of all conditions is a page not at home, the hint is sought with that page-run's key
(R244). `early`: the conditions that stand before them. -/
def Dev.pageConds (d : Dev) (who q : Seq) (src : Option Seq) (w : W512) (early : List (St × Nat)) : List (St × Nat) × Dev :=
  let needs := d.editNeeds q src w
  let cs := needs.flatMap (fun n => d.editBar who (dwPage0 w) n.1 n.2.1 (d.resolve n.2.2.1) n.2.2.2)
  match firstCond false early, firstCond false (early ++ cs), needs.find? (fun n => d.notHere (who.idOf n.1 n.2.1) (d.resolve n.2.2.1)) with
  | x, some (.notHome, y), some n =>
    if x = some (.notHome, y) then (early ++ cs, d) else
    let (h, d) := d.hint (who.idOf n.1 n.2.1) (d.resolve n.2.2.1)
    (early ++ cs.map (fun c => if c.1 = .notHome then (.notHome, homeInfo h 0) else c), d)
  | _, _, _ => (early ++ cs, d)

/-- Everything that refuses a dowel descriptor (R135), with the directory's answer for the page of POS (R242, Table 5.8). -/
def Dev.editConds (d : Dev) (qb : QBuf) (w : Work) : List (St × Nat) × Dev :=
  let x := w.desc
  let ten := dwTen x
  let part := dwPart x
  let a := d.shareBase part + 64 * dwDoff x
  let inShare := decide (64 * dwDoff x + dwDlen x ≤ d.shareSize part)
  let hb := d.handleBar (dwSeq x) ten part
  let sb := if dwOp x = 3 then d.handleBar (dwArg x % 2 ^ 48) ten part else []
  let src := d.forkSrc x
  let q := if hb.isEmpty then d.seqOf (dwSeq x) ten part else none
  let laneOk := match q with
    | none => true
    | some q => decide (dwLayer x ≤ q.geo.nlm1 ∧ dwHgrp x < q.geo.nhg)
  let fits := match q with
    | none => true
    | some q => !laneOk || !sb.isEmpty || d.editFits q src x
  let early := cond d.trn.fenced .fenced ++
    cond (!d.keyOk ten w.keygen || !d.admitted ten part || (decide (dwOp x = 0) && inShare && !qb.owned a (dwDlen x) ten w.keygen)) .keyRevoked ++
    cond (!dwOk x || !w.extra.isEmpty || !laneOk || !fits || (decide (dwOp x = 0) && !inShare)) .shape ++ hb ++ sb
  -- the search of Table 5.8 comes before the ledger walk
  let (early, d) := if d.trn.fenced ∨ !hb.isEmpty ∨ dwOp x = 1 then (early, d) else
    let (h, d) := d.dirHome ⟨ten, d.originOf (dwSeq x), dwLayer x, dwHgrp x, dwPos x / 16⟩
    (early ++ (match h with
      | none => []
      | some n => cond true .notHome (homeInfo n 0)), d)
  match q with
  | none => (early, d)
  | some q => if laneOk && fits && sb.isEmpty then d.pageConds (src.getD q) q src x early else (early, d)

/-! ### Preparing each operation -/

/-- One page of an APPEND: new rows into the frame it has, into a copy of it, or into a new frame. -/
def Dev.appendPage (dry : Bool) (slot : Nat) (q : Seq) (lane pos n page : Nat) (ks vs : W32) (fs : List ColFault) (data : Nat → Nat → Bytes)
    (pages : NMap PageEnt) (p : Prep) (d : Dev) : Except EditRes (NMap PageEnt × Prep × Dev) :=
  let lo := max pos (16 * page) - 16 * page
  let hi := min (pos + n) (16 * page + 16) - 16 * page
  let rows := (List.range (hi - lo)).flatMap (fun i => (List.range q.geo.heads).map (fun h => ((lo + i, h), data (16 * page + lo + i - pos) h)))
  let p := { p with touched := p.touched ++ [q.idOf lane page] }
  match mget pages page with
  | none =>
    match Dev.takeFrame slot q lane page p d with
    | .error x => .error x
    | .ok (f, p, d) =>
      .ok (mset pages page (frameEnt f lo ks vs), { p with begun := p.begun ++ [q.idOf lane page] }, d.writeRows slot q lane page f.loc f.ver ks vs rows)
  | some e =>
    let r := d.resolve e
    if !appendCopies q lane pos e then .ok (pages, p, d.writeRows slot q lane page r.loc r.ver ks vs rows) else
    match Dev.takeFrame slot q lane page p d with
    | .error x => .error x
    | .ok (f, p, d) =>
      match d.copyRows dry fs q lane page r r.first lo with
      | .error x => .error x
      | .ok old => .ok (mset pages page (frameEnt f r.first ks vs), { p with retire := p.retire.unref e },
          d.writeRows slot q lane page f.loc f.ver ks vs (old ++ rows))

/-- The pages of an APPEND in order. -/
def Dev.appendPages (dry : Bool) (slot : Nat) (q : Seq) (lane pos n : Nat) (ks vs : W32) (fs : List ColFault) (data : Nat → Nat → Bytes) :
    List Nat → NMap PageEnt → Prep → Dev → Except EditRes (NMap PageEnt × Prep × Dev)
  | [], pages, p, d => .ok (pages, p, d)
  | i :: r, pages, p, d =>
    match Dev.appendPage dry slot q lane pos n i ks vs fs data pages p d with
    | .error x => .error x
    | .ok (pages, p, d) => Dev.appendPages dry slot q lane pos n ks vs fs data r pages p d

/-- Pages whose entries differ between two lanes. -/
def changedPages (old new : NMap PageEnt) : List Nat :=
  ((old.filter (fun p => decide (mget new p.1 ≠ some p.2))) ++ (new.filter (fun p => decide (mget old p.1 ≠ some p.2)))).map Prod.fst |>.eraseDups

/-- APPEND. -/
def Dev.prepAppend (dry : Bool) (slot : Nat) (q : Seq) (w : W512) (fs : List ColFault) (qb : QBuf) (d : Dev) : Except EditRes (Prep × Nat × Dev) :=
  let lane := q.geo.lane (dwLayer w) (dwHgrp w)
  let s := q.now lane
  let pos := dwPos w
  let n := dwNM1 w + 1
  let base := d.shareBase (dwPart w) + 64 * dwDoff w
  let data (tok h : Nat) : Bytes := qb.read (base + (tok * q.geo.heads + h) * q.geo.w) q.geo.w
  let is := (List.range ((pos + n - 1) / 16 - pos / 16 + 1)).map (pos / 16 + ·)
  match Dev.appendPages dry slot q lane pos n (BitVec.ofNat 32 (dwKscale w)) (BitVec.ofNat 32 (dwVscale w)) fs data is s.pages emptyPrep d with
  | .error x => .error x
  | .ok (pages, p, d) =>
    match Dev.newLane q lane (pos + n) pages (changedPages s.pages pages) p (d.setWend slot lane (pos + n)) with
    | .error x => .error x
    | .ok (p, d) => .ok (p, pos + n, d)

/-- One lane cut to an END (R133, R207). -/
def Dev.cutLane (q : Seq) (lane pos : Nat) (p : Prep) (d : Dev) : Except EditRes (Prep × Dev) :=
  let s := q.now lane
  if s.endp ≤ pos then .ok (p, d) else
  let pos := match mget s.pages (pos / 16) with
    | some e => if (d.resolve e).failed then pos / 16 * 16 else pos
    | none => pos
  let (keep, go) := s.pages.partition (fun x => decide (heldLo x.1 (d.resolve x.2) < pos))
  let p := go.foldl (fun p x => d.pageLeaves q lane x.1 x.2 p) p
  Dev.newLane q lane pos keep (go.map Prod.fst) p d

/-- Several lanes cut. -/
def Dev.cutLanes (q : Seq) (pos : Nat) : List Nat → Prep → Dev → Except EditRes (Prep × Dev)
  | [], p, d => .ok (p, d)
  | l :: r, p, d => match Dev.cutLane q l pos p d with
    | .error x => .error x
    | .ok (p, d) => Dev.cutLanes q pos r p d

/-- The END of the first lane named, as it will be published. -/
def prepEnd (q : Seq) (lanes : List Nat) (p : Prep) : Nat := match mget p.lanes (lanes.headD 0) with
  | some l => l.endp
  | none => (q.now (lanes.headD 0)).endp

/-- TRIM. -/
def Dev.prepTrim (q : Seq) (w : W512) (pos : Nat) (d : Dev) : Except EditRes (Prep × Nat × Dev) :=
  match Dev.cutLanes q pos (editLanes q w) emptyPrep d with
  | .error x => .error x
  | .ok (p, d) => .ok (p, prepEnd q (editLanes q w) p, d)

/-- Rows of several positions of a lane, each as it will lie in page `page`. -/
def Dev.movedRows (d : Dev) (dry : Bool) (fs : List ColFault) (q : Seq) (lane page : Nat) : List (Nat × Nat) → Except EditRes (List ((Nat × Nat) × Bytes))
  | [] => .ok []
  | (dst, frm) :: r =>
    match mget (q.now lane).pages (frm / 16) with
    | none => d.movedRows dry fs q lane page r
    | some e => match d.copyRows dry fs q lane (frm / 16) (d.resolve e) (frm % 16) (frm % 16 + 1) with
      | .error x => .error x
      | .ok l => match d.movedRows dry fs q lane page r with
        | .error x => .error x
        | .ok rest => .ok (l.map (fun y => ((dst - 16 * page, y.1.2), y.2)) ++ rest)

/-- Pages that a KEEP writes anew in one lane: a new frame each, with the rows that stay and those that move. -/
def Dev.keepPages (dry : Bool) (slot : Nat) (q : Seq) (lane : Nat) (moves : List (Nat × Nat)) (fs : List ColFault) :
    List Nat → NMap PageEnt → Prep → Dev → Except EditRes (NMap PageEnt × Prep × Dev)
  | [], pages, p, d => .ok (pages, p, d)
  | i :: r, pages, p, d =>
    let old := mget (q.now lane).pages i
    let res := old.map d.resolve
    let first := match res with
      | none => 0
      | some e => e.first
    let mine := moves.filter (fun m => decide (m.1 / 16 = i))
    match Dev.takeFrame slot q lane i p d with
    | .error x => .error x
    | .ok (f, p, d) =>
      match d.movedRows dry fs q lane i mine with
      | .error x => .error x
      | .ok rows =>
        let e := frameEnt f first ((res.map (·.kscale)).getD 0) ((res.map (·.vscale)).getD 0)
        let p := match old with
          | none => p
          | some o => { p with retire := p.retire.unref o }
        Dev.keepPages dry slot q lane moves fs r (mset pages i e) p (d.writeRows slot q lane i f.loc f.ver e.kscale e.vscale rows)

/-- One lane of a KEEP whose kept drafts are no prefix. -/
def Dev.keepLane (dry : Bool) (slot : Nat) (q : Seq) (w : W512) (j : Nat) (fs : List ColFault) (lane : Nat) (p : Prep) (d : Dev) : Except EditRes (Prep × Dev) :=
  let s := q.now lane
  let ks := keptDrafts w
  let pos := dwPos w
  let endp := pos + ks.length
  let lo := (pos + j) / 16
  let hi := (endp - 1) / 16
  let first := match mget s.pages lo with
    | none => 16 * lo
    | some e => heldLo lo (d.resolve e)
  let stay := ((List.range (pos + j - first)).map (fun i => (first + i, first + i)))
  let moves := stay ++ (ks.drop j).zipIdx.map (fun x => (pos + j + x.2, pos + x.1))
  let (keep, go) := s.pages.partition (fun x => decide (x.1 ≤ hi))
  let p := go.foldl (fun p x => d.pageLeaves q lane x.1 x.2 p) p
  match Dev.keepPages dry slot q lane moves fs ((List.range (hi - lo + 1)).map (lo + ·)) keep p d with
  | .error x => .error x
  | .ok (pages, p, d) => (Dev.newLane q lane endp pages (changedPages s.pages pages) p d).map (fun r => (r.1.wrote lane endp, r.2))

def Dev.keepLanes (dry : Bool) (slot : Nat) (q : Seq) (w : W512) (j : Nat) (fs : List ColFault) : List Nat → Prep → Dev → Except EditRes (Prep × Dev)
  | [], p, d => .ok (p, d)
  | l :: r, p, d => match Dev.keepLane dry slot q w j fs l p d with
    | .error x => .error x
    | .ok (p, d) => Dev.keepLanes dry slot q w j fs r p d

/-- KEEP: a prefix of the drafts is a TRIM (R133). Log entry 46, DEDUCED. -/
def Dev.prepKeep (dry : Bool) (slot : Nat) (q : Seq) (w : W512) (fs : List ColFault) (d : Dev) : Except EditRes (Prep × Nat × Dev) :=
  match firstMoved (keptDrafts w) with
  | none => Dev.prepTrim q w (dwPos w + (keptDrafts w).length) d
  | some j => match Dev.keepLanes dry slot q w j fs (editLanes q w) emptyPrep d with
    | .error x => .error x
    | .ok (p, d) => .ok (p, dwPos w + (keptDrafts w).length, d)

/-- The share index that a FORK takes: the lowest that neither the table nor an edit under way uses (R140, R141; log entry 153, DESIGN CHOICE). -/
def Dev.freeShareIdx (d : Dev) (p : Prep) : Option Nat :=
  let n := 2 ^ d.reg (rk 0x00600000 16)
  let put (m : NMap Unit) (l : NMap Share) : NMap Unit := l.foldl (fun m x => mset m x.1 ()) m
  let others := d.pgm.seqs.foldl (fun m q => q.2.edits.foldl (fun m e => match e.prep with
    | none => m
    | some x => put m x.shares) m) (mmap d.pgm.shares (fun _ _ => ()))
  let i := mfree (put others p.shares) 0 n
  if i < n then some i else none

/-- References on a share, with those that FORKs under way will add at their publish (R141). -/
def Dev.refsDue (d : Dev) (k : Nat) : Nat :=
  ((mget d.pgm.shares k).map Share.refs).getD 0 +
  sumN (d.pgm.seqs.map (fun q => sumN (q.2.edits.map (fun e => match e.prep with
    | none => 0
    | some p => (p.ups.filter (· = k)).length + ((mget p.shares k).map Share.refs).getD 0))))

/-- Pages of one source lane for a FORK: full pages are shared, the last partial page is copied. -/
def Dev.forkPages (dry : Bool) (slot : Nat) (q x : Seq) (lane pos : Nat) (fs : List ColFault) :
    NMap PageEnt → NMap PageEnt → NMap PageEnt → Prep → Dev → Except EditRes (NMap PageEnt × NMap PageEnt × Prep × Dev)
  | [], dst, src, p, d => .ok (dst, src, p, d)
  | (i, e) :: rest, dst, src, p, d =>
    let r := d.resolve e
    if pos ≤ heldLo i r then Dev.forkPages dry slot q x lane pos fs rest dst src p d else
    let p := { p with begun := p.begun ++ [q.idOf lane i] }
    if 16 * i + 16 ≤ pos then
      match e.shareIdx with
      | some k =>
        if 0xFFFFFF ≤ d.refsDue k + (p.ups.filter (· = k)).length then .error (.ends .refusedCapacity 0) else
        Dev.forkPages dry slot q x lane pos fs rest (mset dst i e) src { p with ups := p.ups ++ [k] } d
      | none =>
        match d.freeShareIdx p with
        | none => .error (.ends .refusedCapacity 0)
        | some k =>
          let she : PageEnt := ⟨.share k, 0, false, 0, 0, 0, e.kscale, e.vscale⟩
          let p := { p with shares := mset p.shares k ⟨e, 2, q.ten, q.part, 0⟩ }
          Dev.forkPages dry slot q x lane pos fs rest (mset dst i she) (mset src i she) p d
    else
      match Dev.takeFrame slot q lane i p d with
      | .error z => .error z
      | .ok (f, p, d) =>
        match d.copyRows dry fs x lane i r r.first (pos - 16 * i) with
        | .error z => .error z
        | .ok rows => Dev.forkPages dry slot q x lane pos fs rest (mset dst i (frameEnt f r.first e.kscale e.vscale)) src p
            (d.writeRows slot q lane i f.loc f.ver e.kscale e.vscale rows)

/-- Lanes of a FORK in order; the source's lanes that change go into the second lane map. -/
def Dev.forkLanes (dry : Bool) (slot : Nat) (q x : Seq) (pos : Nat) (fs : List ColFault) : List Nat → Prep → Dev → Except EditRes (Prep × Dev)
  | [], p, d => .ok (p, d)
  | l :: r, p, d =>
    let s := x.now l
    match Dev.forkPages dry slot q x l pos fs s.pages [] s.pages p d with
    | .error z => .error z
    | .ok (dst, src, p, d) =>
      match (Dev.newLane q l pos dst (dst.map Prod.fst) p d).map (fun r => (r.1.wrote l pos, r.2)) with
      | .error z => .error z
      | .ok (p, d) =>
        if src = s.pages then Dev.forkLanes dry slot q x pos fs r p d else
        match Dev.newLane x l s.endp src (changedPages s.pages src) emptyPrep d with
        | .error z => .error z
        | .ok (sp, d) => Dev.forkLanes dry slot q x pos fs r
            { p with srcLanes := p.srcLanes ++ sp.lanes, blocks := p.blocks ++ sp.blocks
                     srcRetire := { p.srcRetire with blocks := p.srcRetire.blocks ++ sp.retire.blocks } } d

/-- FORK. -/
def Dev.prepFork (dry : Bool) (slot : Nat) (q : Seq) (w : W512) (fs : List ColFault) (d : Dev) : Except EditRes (Prep × Nat × Dev) :=
  match d.forkSrc w with
  | none => .error (.ends .orphaned 0)
  | some x =>
    match Dev.forkLanes dry slot q x (dwPos w) fs (if dwPos w = 0 then [] else List.range x.geo.lanes) emptyPrep d with
    | .error z => .error z
    | .ok (p, d) => .ok ({ p with src := if p.srcLanes.isEmpty then none else some (hSlot (dwArg w % 2 ^ 48)) }, dwPos w, d)

/-- CLOSE: every page leaves, every lane is empty (R186). -/
def Dev.prepClose (q : Seq) (d : Dev) : Prep × Nat × Dev :=
  let p := q.lanes.foldl (fun (p : Prep) l =>
    let s := q.now l.1
    let p := s.pages.foldl (fun p x => d.pageLeaves q l.1 x.1 x.2 p) p
    { p with lanes := mset p.lanes l.1 ⟨0, [], [], none⟩, retire := { p.retire with blocks := p.retire.blocks ++ s.blocks.map Prod.snd } }) emptyPrep
  -- RELEASE goes to the mirror for every shadow (R186)
  let shadows := match (d.tenant q.ten).mirror with
    | none => []
    | some m => q.lanes.flatMap (fun l => ((q.now l.1).pages.filter (fun x => !(d.resolve x.2).isAway)).map (fun x => (q.idOf l.1 x.1, m)))
  ({ p with closing := true, release := p.release ++ shadows }, 0, d)

end Sys2Proof.Machine
end

