-- ==== Sys2Proof/Machine/Images.lean ====
section
/-! DEFINITION. Page images (R159, R191): the rows of a page in logical order, coded or not (R144, R149), under the transit
encryption between nodes (R339) and in the spill area (R340). -/

namespace Sys2Proof.Machine

/-! ### Rows in image order -/

/-- The rows of positions [lo, hi) in image order: head ascending, then token (R159). -/
def imageKeys (g : Geom) (lo hi : Nat) : List (Nat × Nat) :=
  (List.range g.heads).flatMap (fun h => (List.range (hi - lo)).map (fun i => (lo + i, h)))

def imageRaw (g : Geom) (lo hi : Nat) (rows : List ((Nat × Nat) × Bytes)) : Bytes :=
  (imageKeys g lo hi).flatMap (fun k => ((rows.find? (fun r => decide (r.1 = k))).map Prod.snd).getD [])

/-- Rows of an image's raw bytes. -/
def imageSplit (g : Geom) (lo hi : Nat) (bs : Bytes) : List ((Nat × Nat) × Bytes) :=
  (imageKeys g lo hi).zipIdx.map (fun x => (x.1, sliceB bs (x.2 * g.w) g.w))

def imageLen (g : Geom) (lo hi : Nat) : Nat := g.heads * (hi - lo) * g.w

/-- A KV format that the codec codes (R159), and its EFMT. -/
def Geom.coded (g : Geom) : Bool := decide (g.kvfmt < 4)
def Geom.ef (g : Geom) : Nat := g.kvfmt + 1

/-- A stream of an image's rows (R144), the table slot that its CODED blocks use, and the codec's counts. -/
def Dev.codeImage (d : Dev) (g : Geom) (raw : Bytes) : Bytes × Option Nat × Dev :=
  let els := elemsOf g.ef raw
  let s := d.encSlot g.ef
  let st := ecxEncode g.ef s els
  (st, if anyCoded g.ef s els then s.map Prod.fst else none,
    ((d.bump (rk 0x00700010 0) 64 (els.length / 64)).bump (rk 0x00700020 0) 64 raw.length).bump (rk 0x00700028 0) 64 st.length)

/-- The rows of a stream, or its failure (R149); the decoded blocks count either way up to the failing one. -/
def Dev.decodeImage (d : Dev) (g : Geom) (lo hi : Nat) (st : Bytes) : Except (Nat × Nat × Nat × Nat) Bytes × Dev :=
  let n := imageLen g lo hi / efSize g.ef / 64
  match ecxDecode d.tblLook g.ef n st with
  | .error e => (.error e, d.bump (rk 0x00700018 0) 64 (min e.1 n))
  | .ok els => (.ok (elemBytes g.ef els), d.bump (rk 0x00700018 0) 64 n)

/-- The scales that follow an image of KVFMT 4 (R191). -/
def scaleTail (g : Geom) (e : PageEnt) : Bytes := if g.kvfmt = 4 then leBytes 4 e.kscale.toNat ++ leBytes 4 e.vscale.toNat else []

/-! ### Between nodes (R339) -/

/-- NONCE ‖ ciphertext ‖ TAG under KT of a tenant, with a message body as additional data. -/
def Dev.transitSend (d : Dev) (ten : Nat) (body pt : Bytes) : Bytes × Dev :=
  let nonce := leBytes 12 (pack [(0, 12, d.pwr.node), (16, 32, d.sec.bootid), (48, 48, d.sec.transit)])
  let (ct, t) := gcmEncrypt (d.tkey ten "TRANSIT") nonce body pt
  (nonce ++ ct ++ t, { d with sec := { d.sec with transit := d.sec.transit + 1 } })

/-- The plaintext of such bytes, when the tag holds. -/
def Dev.transitTake (d : Dev) (ten : Nat) (body bs : Bytes) : Option Bytes :=
  if bs.length < 28 then none else
  gcmDecrypt (d.tkey ten "TRANSIT") (bs.take 12) body (sliceB bs 12 (bs.length - 28)) (bs.drop (bs.length - 16))

/-- A transit tag that fails: counted, frozen and journalled (Table 14.2). -/
def Dev.transitFail (d : Dev) (id : RunId) : Dev :=
  (d.bump (rk 0x01100020 16) 16 1).fault (JInfo.run { code := 4, sub := 1, engine := 13 * 4096, part := d.partOf id.ten } id) true []

/-- The lowest ready peer QP to a node. Log entry 52, DEDUCED. -/
def Dev.peerQp (d : Dev) (node : Nat) : Option Nat :=
  (d.trn.qps.find? (fun q => decide (q.2.type = 1 ∧ q.2.state = 1 ∧ q.2.remote = node))).map Prod.fst

/-- Sends a placement message of this node on a QP: its body and the data after it (R191). -/
def Dev.placeOn (d : Dev) (qpn ten : Nat) (body : Nat) (extra : Bytes) : Dev :=
  match mget d.trn.qps qpn with
  | none => d
  | some q => d.sendMsg qpn ⟨6, 4, q.txclass, ten, d.gen ten, 0, 0, leBytes 32 body ++ extra, .none⟩

/-- A body of this node for a page-run. -/
def Dev.bodyOf (d : Dev) (kind : Nat) (id : RunId) (epoch status state : Nat) : Nat :=
  mkBody kind id (d.partOf id.ten) epoch (d.gen id.ten) d.pwr.node status state

/-- Sends a message about a page-run to a node, on the lowest ready peer QP; with none, nothing is sent (R23). -/
def Dev.placeTo (d : Dev) (node kind : Nat) (id : RunId) (epoch status state : Nat) : Dev :=
  match d.peerQp node with
  | none => d
  | some n => d.placeOn n id.ten (d.bodyOf kind id epoch status state) []

/-- An OFFER or a SHADOW body: the identity and the image's fields. -/
def Dev.imageBody (d : Dev) (kind : Nat) (id : RunId) (epoch first held : Nat) (g : Geom) (coded : Bool) : Nat :=
  d.bodyOf kind id epoch 0 0 + mkImageFields first held g coded

/-- Whether the transit counter stands at its largest value: no further image or row is encrypted under this BOOTID (R10, R339). -/
def Dev.transitSpent (d : Dev) : Bool := decide (2 ^ 48 - 1 ≤ d.sec.transit)

/-- A nonce counter is exhausted: the refusal is journalled as TYPE 5; Table 14.4 gives this counter no SUB, which is a free value (R10; log entry
3, DESIGN CHOICE). -/
def Dev.spentEvent (d : Dev) (id : RunId) : Dev :=
  let (v, d) := d.fresh
  d.journal (JInfo.run { type := 5, sub := v.toNat % 256, part := d.partOf id.ten } id) []

/-- Sends rows of a page as an OFFER or a SHADOW to a node: an OFFER's image is coded where the format is (Table 6.1). -/
def Dev.sendImage (d : Dev) (node kind : Nat) (id : RunId) (epoch : Nat) (g : Geom) (e : PageEnt) (held : Nat) (rows : List ((Nat × Nat) × Bytes)) : Dev :=
  if d.transitSpent then d.spentEvent id else
  match d.peerQp node with
  | none => d
  | some n =>
    let raw := imageRaw g e.first held rows
    let coded := decide (kind = 0) && g.coded
    let (st, d) := if coded then (let (s, _, d) := d.codeImage g raw; (s, d)) else (raw, d)
    let body := d.imageBody kind id epoch e.first held g coded
    let (x, d) := d.transitSend id.ten (leBytes 32 body) (st ++ scaleTail g e)
    d.placeOn n id.ten body x

/-- What an OFFER's or SHADOW's bytes hold: rows and scales; or the status of the DECLINE, after its counts (R149, R339). -/
def Dev.takeImage (d : Dev) (body : Nat) (bs : Bytes) : Except (St × Dev) (List ((Nat × Nat) × Bytes) × W32 × W32 × Dev) :=
  let id := pbRun body
  let g := pbGeom body
  let lo := pbFirst body
  let hi := pbHeld body
  match d.transitTake id.ten (leBytes 32 body) bs with
  | none => .error (.integrity, d.transitFail id)
  | some pt =>
    let k := if g.kvfmt = 4 then 8 else 0
    let im := pt.take (pt.length - k)
    let ks := BitVec.ofNat 32 (leAt pt (pt.length - 8) 4)
    let vs := BitVec.ofNat 32 (leAt pt (pt.length - 4) 4)
    let (ks, vs) := if g.kvfmt = 4 then (ks, vs) else (0, 0)
    if pbCoded body then
      let (r, d) := d.decodeImage g lo hi im
      match r with
      | .error e => .error (.integrity, d.streamFail e 1 id.ten (JInfo.run {} id))
      | .ok raw => .ok (imageSplit g lo hi raw, ks, vs, d)
    else if pt.length ≠ imageLen g lo hi + k then .error (.shape, d)
    else .ok (imageSplit g lo hi im, ks, vs, d)

/-! ### The spill area (R187, R340) -/

/-- A T3 image's header (Table 13.3). -/
def t3Head (id : RunId) (part keygen clen bootid spillno : Nat) : Bytes :=
  leBytes 32 (pack [(0, 12, id.ten), (12, 4, part), (16, 16, keygen), (32, 48, id.seq), (80, 10, id.layer), (90, 6, id.hgrp),
    (96, 32, id.page), (128, 32, clen), (160, 32, bootid), (192, 64, spillno)])

/-- A T3 image of a stream. -/
def Dev.t3Image (d : Dev) (id : RunId) (st : Bytes) : Bytes :=
  let h := t3Head id (d.partOf id.ten) (d.gen id.ten) st.length d.sec.bootid d.sec.spillno
  let (ct, t) := gcmEncrypt (d.tkey id.ten "SPILL") (h.drop 20) h st
  let b := h ++ ct ++ t
  b ++ List.replicate ((4096 - b.length % 4096) % 4096) 0

/-- The stream of a T3 image, when its header and tag agree with the page-run (R340). -/
def Dev.t3Take (d : Dev) (id : RunId) (ver : Nat) (bs : Bytes) : Option Bytes :=
  let h := bs.take 32
  let clen := leAt h 16 4
  let want := t3Head id (d.partOf id.ten) (d.gen id.ten) 0 0 0
  if h.take 16 ≠ want.take 16 ∨ leAt h 24 4 ≠ ver ∨ bs.length < 48 + clen then none else
  gcmDecrypt (d.tkey id.ten "SPILL") (h.drop 20) h (sliceB bs 32 clen) (sliceB bs (32 + clen) 16)

/-- A function's spill area: partition p's VF (R187). -/
def Dev.spillArea (d : Dev) (part : Nat) : Option (Nat × Nat) := (d.fn (part + 1)).spill

/-- Units of a partition's spill area in use: first unit and count. -/
def Dev.spillUsed (d : Dev) (part : Nat) : List (Nat × Nat) :=
  ((d.plc.runs.filterMap Run.image ++ d.oldImages).filter (fun i => decide (d.partOf i.id.ten = part))).map (fun i => (i.unit, cdiv i.bytes 4096))

/-- The lowest free run of units. -/
def Dev.spillFree (d : Dev) (part n : Nat) : Option Nat :=
  match d.spillArea part with
  | none => none
  | some (_, size) =>
    let used := d.spillUsed part
    leastOf (fun o => decide (o + n ≤ size) && !used.any (overlaps o n)) (0 :: used.map (fun u => u.1 + u.2))

end Sys2Proof.Machine
end

