-- ==== Sys2Proof/Machine/EditRun.lean ====
section
/-! DEFINITION. The run of an edit (Table 5.7): which request of the ledger manager's queue a row takes, waiting, forwarding to the
mirror (R201), publish (R128, R129), end (R139), and OPEN (R183). Moves run by the same operations (R175). -/

namespace Sys2Proof.Machine

/-! ### Requests of the queue -/

/-- The handle that a dowel descriptor or sequence command names, its RQP, ROFF and TAG, and its operation: 4 is CLOSE. -/
def Work.seq (w : Work) : Nat := if w.kind = 1 then dwSeq w.desc else scSeq w.desc
def Work.ten (w : Work) : Nat := wf w.desc 0 12
def Work.rqp (w : Work) : Nat := if w.kind = 1 then dwRqp w.desc else scRqp w.desc
def Work.roff (w : Work) : Nat := if w.kind = 1 then dwRoff w.desc else scRoff w.desc
def Work.tag (w : Work) : Nat := if w.kind = 1 then dwTag w.desc else scTag w.desc
def Work.op (w : Work) : Nat := if w.kind = 1 then dwOp w.desc else if scOp w.desc = 1 then 4 else 5

/-- The slot of a FORK's source. -/
def Work.srcSlot (w : Work) : Option Nat := if w.kind = 1 ∧ dwOp w.desc = 3 then some (hSlot (dwArg w.desc % 2 ^ 48)) else none

/-- Whether an edit runs on a sequence, or a FORK runs from it. -/
def Dev.editBusy (d : Dev) (slot : Nat) : Bool := d.pgm.seqs.any (fun q => q.2.edits.any (fun e =>
  decide (q.1 = slot) || (e.move.isNone && decide (e.work.srcSlot = some slot))))

/-- The edit that runs on a sequence. -/
def Dev.running (d : Dev) (slot : Nat) : Option Edit := (mget d.pgm.seqs slot).bind (fun q => q.edits.head?)

/-- The first request of the queue that names a slot, when a row works its operation and no edit stands in its way (R136). -/
def Dev.takeEdit (d : Dev) (slot op : Nat) : Option (Work × Dev) :=
  let mine (w : Work) : Bool := decide (w.op ≠ 5 ∧ hSlot w.seq = slot)
  match d.pgm.queue.find? mine with
  | none => none
  | some w =>
    let srcBusy := match w.srcSlot with
      | none => false
      | some s => d.editBusy s
    if decide (w.op ≠ op) || d.editBusy slot || srcBusy then none
    else some (w, { d with pgm := { d.pgm with queue := dropFirst mine d.pgm.queue } })

/-- The body of a placement message (Table 7.7). -/
def Work.body (w : Work) : Nat := w.desc.toNat % 2 ^ 256

/-! ### Answers -/

/-- The completion record of an edit. -/
def Work.record (w : Work) (st : St) (endp : Nat) : Bytes :=
  if w.kind = 1 then dwRecord w.desc st endp else scRecord w.desc st (scSeq w.desc)

/-- The completion of an edit; `d0` is the node before a fault that the edit met (R378). -/
def Dev.editAnswer (d0 d : Dev) (w : Work) (st : St) (info endp : Nat) : Dev :=
  Dev.answerAfter d0 d w.src w.rqp w.roff w.tag w.ten w.kind (stCode st) info [(0, w.record st endp)]

/-- PGM_ENDED and PGM_LASTERR for an edit that ended (Table 5.15). Log entry 50, DEDUCED. -/
def Dev.editCount (d0 d : Dev) (w : Work) (move : Option RunId) (slot : Nat) (st : St) : Dev :=
  let op := if w.kind = 1 then dwOp w.desc else scOp w.desc
  let layer := match move with
    | some id => id.layer
    | none => if w.kind = 1 ∧ !dwAll w.desc then dwLayer w.desc else 0
  let ten := match move with
    | some id => id.ten
    | none => w.ten
  Dev.fieldsAfter d0 (d.bump (rk 0x00600018 0) 64 1) [(rk 0x00600038 0, pack [(0, 8, stCode st), (8, 2, if move.isSome then 0 else op),
    (10, 1, b2n move.isSome), (12, 12, ten), (24, 22, slot), (48, 10, layer)])]

/-- The END that an ended edit reports: that of the lane, or of lane 0, as it stands. -/
def Dev.endNow (d : Dev) (w : Work) : Nat :=
  match d.seqOf w.seq w.ten (wf w.desc 12 4) with
  | none => 0
  | some q => if w.kind ≠ 1 then 0 else (q.now (if dwAll w.desc then 0 else q.geo.lane (dwLayer w.desc) (dwHgrp w.desc))).endp

/-- A refusal of R135. -/
def Dev.editRefuse (d : Dev) (w : Work) (st : St) (info : Nat) : Dev :=
  (Dev.editCount d d w none (hSlot w.seq) st).refuse w.src w.rqp w.roff w.tag w.ten w.kind (stCode st) info [(0, w.record st (d.endNow w))]

/-! ### Waiting and ending -/

def Dev.setEdits (d : Dev) (slot : Nat) (es : List Edit) : Dev := d.modSeq slot (fun q => { q with edits := es })

/-- Gives back what a prepared edit took: frames, blocks, reservation pages (R136), and the units of a spill. -/
def Dev.undoPrep (d : Dev) (slot : Nat) (p : Prep) : Dev :=
  let d := p.made.foldl Dev.dropFrame d
  let d := d.modSeq slot (fun q => { q with resv := q.resv + p.drawn })
  d.freeBlks p.blocks

/-- Releases an edit's pins, of its sequence and of a FORK's source, with the shares that its walk held (R142). -/
def Dev.dropPin (d : Dev) (slot : Nat) (e : Edit) : Dev :=
  let d := { d with pgm := { d.pgm with shares := e.holds.foldl (fun m k => mmod m k (fun x => { x with holds := x.holds - 1 })) d.pgm.shares } }
  let d := e.holds.foldl Dev.freeShared d
  let d := match e.pin with
    | none => d
    | some v => d.unpin slot v
  match e.spin, e.work.srcSlot with
  | some v, some s => d.unpin s v
  | _, _ => d

/-- Page-runs whose T3 image a publish frees: nothing reads it any more (R132). -/
def Dev.freeT3 (d : Dev) (id : RunId) : Dev :=
  match d.run id with
  | none => d
  | some r => match r.image with
    | none => d
    | some i => (d.modRun id (fun r => { r with t3unit := 0, t3bytes := 0, tslot := none })).freeImg i

/-- The image of a page-run whose entry a version no longer names goes to what that version retired: it is freed after the pins (R132, R175). -/
def Dev.retireT3 (d : Dev) (slot : Nat) (id : RunId) (p : Retired → Bool) : Dev :=
  match (d.run id).bind Run.image, mget d.pgm.seqs slot with
  | some i, some q =>
    if !q.retired.any p then d.freeT3 id else
    (d.modSeq slot (fun q => { q with retired := updFirst p (fun x => { x with images := x.images ++ [i] }) q.retired })).modRun id
      (fun r => { r with t3unit := 0, t3bytes := 0, tslot := none })
  | _, _ => d

/-- The same for the version just published. -/
def Dev.leaveT3 (d : Dev) (slot : Nat) (id : RunId) : Dev := match mget d.pgm.seqs slot with
  | none => d
  | some q => d.retireT3 slot id (fun r => decide (r.ver = q.lver))

/-- A running edit ends with a status and none of its effect; a move ends without an answer. -/
def Dev.endEdit (d0 d : Dev) (slot : Nat) (e : Edit) (st : St) (info : Nat) : Dev :=
  let d := match e.prep with
    | none => d
    | some p => d.undoPrep slot p
  let d := match e.move with
    | some (.spill, id, _) => d.freeT3 id
    | some (.lend, id, _) => d.modRun id (fun r => if r.hstate = HState.offered then { r with hstate := .home } else r)
    | some (.ret, id, _) => d.modRun id (fun r => if r.hstate = HState.offered then { r with hstate := .home } else r)
    | _ => d
  let d := ((d.setEdits slot []).dropPin slot e).dropAppends slot
  let d := Dev.editCount d0 d e.work (e.move.map (·.2.1)) slot st
  let d := if e.move.isSome then d else Dev.editAnswer d0 d e.work st info (d.endNow e.work)
  d.reap slot

/-! ### Publish (R128, R129, R132) -/

/-- A lane's slots: the one that stays and the one that a publish overwrites. -/
def Lane.split (l : Lane) : LSlot × LSlot :=
  if l.b.valid && (!l.a.valid || decide (l.a.sver < l.b.sver)) then (l.b, l.a) else (l.a, l.b)

/-- Whether R129 lets every changed lane be written. -/
def slotsFree (q : Seq) (lanes : NMap NewLane) : Bool := lanes.all (fun l => match mget q.lanes l.1 with
  | none => true
  | some x => !x.split.2.valid || !q.pins.any (fun p => decide (x.split.2.sver ≤ p.1 ∧ p.1 < x.split.1.sver)))

/-- A lane with its new slot of a version. -/
def Lane.put (l : Lane) (v : Nat) (n : NewLane) : Lane :=
  let s : LSlot := ⟨v, n.endp, true, n.pages, n.blocks⟩
  if l.b.valid && (!l.a.valid || decide (l.a.sver < l.b.sver)) then { l with a := s } else { l with b := s }

/-- Publishes lanes of a sequence and records what the version no longer names. -/
def Dev.putLanes (d : Dev) (slot : Nat) (lanes : NMap NewLane) (r : Retired) : Dev :=
  let d := lanes.foldl (fun d l => d.claimLane slot l.1) d
  d.modSeq slot (fun q =>
    let v := q.lver + 1
    { q with lver := v, retired := q.retired ++ [{ r with ver := v }]
             lanes := lanes.foldl (fun m l =>
               let x := (mgetD q.lanes l.1 ⟨LSlot.empty, LSlot.empty, 0⟩).put v l.2
               -- WEND is never beyond the lane's last page, whose frame may be another one now (R122)
               mset m l.1 { x with wend := match l.2.wend, l.2.pages.getLast? with
                 | some n, _ => n
                 | none, none => x.wend
                 | none, some p => min x.wend (16 * p.1 + 16) }) q.lanes })

/-- WEND of a lane whose last page has come to lie in a new frame, written up to a position (R122, R137). -/
def Dev.lastWend (d : Dev) (slot lane page wend : Nat) : Dev :=
  match mget d.pgm.seqs slot with
  | none => d
  | some q => if ((q.now lane).pages.getLast?.map Prod.fst) = some page then d.setWend slot lane wend else d

/-- The same for a move's publish: a copy holds the positions held; an image those up to 15. -/
def Dev.moveWend (d : Dev) (slot : Nat) (m : Move × RunId × Nat) : Dev :=
  match mget d.pgm.seqs slot with
  | none => d
  | some q =>
    let lane := q.geo.lane m.2.1.layer m.2.1.hgrp
    let page := m.2.1.page
    match m.1 with
    | .promote => d.lastWend slot lane page (heldHi page (q.now lane).endp)
    | .demote => d.lastWend slot lane page (heldHi page (q.now lane).endp)
    | .stageBack => d.lastWend slot lane page (16 * page + 16)
    | _ => d

/-- A page-run's record begins: HOME, epoch 0 (R190), with COUNT 0 and STAMP TNOW where no touch begins it (log entry 155, DESIGN CHOICE). A record
that waited to be freed with an older version is replaced; its T3 image stays with that version. -/
def Dev.beginRun (d : Dev) (slot : Nat) (id : RunId) : Dev :=
  let d := d.retireT3 slot id (fun r => r.runs.contains id)
  let d := (d.modSeq slot (fun q => { q with retired := q.retired.map (fun r => { r with runs := r.runs.filter (· ≠ id) }) })).moveGoes id
  { d with plc := { d.plc with runs := d.plc.runs.filter (fun r => decide (r.id ≠ id)) ++ [freshRun id .home 0 0 0 d.plc.tnow none] } }

/-- What a publish does besides the lanes: shares, records, touches, directory, RELEASE messages (R141, R171, R172, R186, R245). -/
def Dev.publishRest (d : Dev) (slot : Nat) (p : Prep) : Dev :=
  let sh := p.ups.foldl (fun m i => mmod m i (fun s => { s with refs := s.refs + 1 })) d.pgm.shares
  let sh := p.retire.shares.foldl (fun m i => mmod m i (fun s => { s with refs := s.refs - 1 })) sh
  let d := { d with pgm := { d.pgm with shares := p.shares.foldl (fun m s => mset m s.1 s.2) sh } }
  let d := p.begun.foldl (fun d id => d.beginRun slot id) d
  let d := p.touched.foldl Dev.touchRun d
  let d := p.gone.foldl Dev.dirDrop d
  p.release.foldl (fun d r => d.placeTo r.2 6 r.1 (((d.run r.1).map Run.epoch).getD 0) 0 0) d

/-- A placement event (Table 7.18) as register fields. -/
def lastEvt (kind : Nat) (id : RunId) (peer : Nat) : List (Nat × Nat) :=
  [(rk 0x00800050 0, pack [(0, 4, kind), (4, 12, id.ten), (16, 12, peer), (32, 32, id.page)])]

/-- Journals a placement event and lets PLC_LASTEVT show it when it commits (R378). -/
def Dev.placeEvent (d : Dev) (j : JInfo) (kind : Nat) (id : RunId) (peer : Nat) : Dev :=
  d.journal (JInfo.run { j with part := d.partOf id.ten } id) ((lastEvt kind id peer).map (fun f => .field f.1 f.2))

/-- Counts and journals a page-run that became FAILED (R206). -/
def Dev.failedNow (d : Dev) (id : RunId) (fc : Nat) : Dev :=
  (d.bump (rk 0x00800048 32) 32 1).placeEvent { type := 3, sub := fc } 2 id 0

/-- A move's publish counts (Table 7.17), and what follows it: a transfer's source relinquishes and sends COMMIT (Table 7.8 step 3); a
stage-back frees the image and is a touch (R172); a page-run marked FAILED, with its FCAUSE as the destination, is counted (R206). -/
def Dev.moveDone (d : Dev) (m : Move × RunId × Nat) : Dev :=
  let (k, id, dest) := m
  let count (up : Bool) (d : Dev) : Dev := (d.bump (rk 0x00800030 0) 64 1).bump (rk 0x00800038 (if up then 32 else 0)) 32 1
  let transfer (d : Dev) : Dev :=
    let e := ((d.run id).map Run.epoch).getD 0 + 1
    let d := d.modRun id (fun r => { r with hstate := .relinquished, epoch := e, peer := dest })
    let d := d.dirWrite id dest e
    let d := match (d.tenant id.ten).mirror with
      | none => d
      | some m => d.placeTo m 6 id e 0 0
    { d.placeTo dest 2 id e 0 0 with plc := { d.plc with commits := d.plc.commits ++ [(id, e, dest)] } }
  match k with
  | .promote => count true d
  | .demote => count false d
  | .spill => count false d
  | .stageBack => (count true (d.freeT3 id)).touchRun id
  | .lend => transfer (count false d)
  | .ret => transfer (count true d)
  | .mark => d.failedNow id dest

/-- Publishes a prepared edit and completes it (R128, Table 5.7 steps 6 and 7). -/
def Dev.publish (d : Dev) (slot : Nat) (e : Edit) (p : Prep) : Dev :=
  let d := d.putLanes slot p.lanes p.retire
  let d := match p.src with
    | none => d
    | some s => d.putLanes s p.srcLanes p.srcRetire
  let d := d.modSeq slot (fun q => { q with closing := q.closing || p.closing, resv := if p.closing then 0 else q.resv })
  let d := d.publishRest slot p
  let d := (d.setEdits slot []).dropPin slot e
  let d := d.bump (rk 0x00600008 0) 64 1
  let d := match e.move with
    | some m => ((if m.1 = Move.stageBack then d.leaveT3 slot m.2.1 else d).moveWend slot m).moveDone m |>.moveGoes m.2.1
    | none => Dev.editAnswer d d e.work .ok 0 e.endp
  let d := match p.src with
    | none => d
    | some s => d.reap s
  d.reap slot

/-- Publishes once its append orders are complete (R100) and R129 lets it; else the edit waits, at step 2 of R128 for the latter. -/
def Dev.tryPublish (d : Dev) (slot : Nat) (e : Edit) (p : Prep) : Dev :=
  if d.appending slot then d.setEdits slot [{ e with phase := .data, prep := some p }] else
  let ok := (match mget d.pgm.seqs slot with
    | none => true
    | some q => slotsFree q p.lanes) && (match p.src with
    | none => true
    | some s => match mget d.pgm.seqs s with
      | none => true
      | some q => slotsFree q p.srcLanes)
  if ok then d.publish slot e p else (d.setEdits slot [{ e with phase := .slot, prep := some p }]).pinWait true

/-- Edits whose append orders are complete go on (R100, Table 5.7). -/
def Dev.dataDone (d : Dev) : Dev :=
  (d.pgm.seqs.map Prod.fst).foldl (fun d slot => match d.running slot with
    | some e => match e.phase, e.prep with
      | .data, some p => if d.appending slot then d else d.tryPublish slot e p
      | _, _ => d
    | none => d) d

/-- Whether a fence stops an edit: a transfer's source stays where it stopped (R194, R263). -/
def Edit.fenced (e : Edit) (d : Dev) : Bool := d.trn.fenced && (match e.move with
  | some (.lend, _, _) => true
  | some (.ret, _, _) => true
  | _ => false)

/-- EDIT_PUBLISH: an edit that waits for lane slots publishes once they are free. -/
def editPublishStep (slot : Nat) (d : Dev) : Dev :=
  match d.running slot with
  | none => d
  | some e => match e.phase, e.prep with
    | .slot, some p =>
      let ok := match mget d.pgm.seqs slot with
        | none => true
        | some q => slotsFree q p.lanes
      let ok' := match p.src.bind (mget d.pgm.seqs) with
        | none => true
        | some q => slotsFree q p.srcLanes
      if ok && ok' && !e.fenced d then d.publish slot e p else d
    | _, _ => d

/-! ### The mirror (R201, R202) -/

/-- What MIRROR_EDIT carries after its body: the descriptor, END with the CLOSE mark, the geometry, the origin handle of a FORK's
source, and the rows under transit encryption (log entry 33, DESIGN CHOICE). -/
def mirrorHead (w : Work) (endp : Nat) (g : Geom) (src : Nat) : Bytes :=
  wBytes w.desc ++ leBytes 8 (endp + (if w.kind = 1 then 0 else 2 ^ 63)) ++
  leBytes 8 (pack [(0, 8, g.shape), (8, 4, g.kvfmt), (12, 3, g.hpm1), (15, 6, g.nhgm1), (21, 10, g.nlm1), (31, 3, g.fcls)]) ++ leBytes 8 src

/-- Forwards an edit of a mirrored shard. -/
def Dev.forward (d : Dev) (qb : QBuf) (m : Nat) (q : Seq) (w : Work) (endp : Nat) : Dev :=
  match d.peerQp m with
  | none => d
  | some n =>
    let id : RunId := if w.kind = 1 then ⟨q.ten, q.origin, dwLayer w.desc, dwHgrp w.desc, dwPos w.desc / 16⟩ else ⟨q.ten, q.origin, 0, 0, 0⟩
    let body := d.bodyOf 7 id (((d.run id).map Run.epoch).getD 0) 0 0
    let rows := if w.kind = 1 ∧ dwOp w.desc = 0 then qb.read (d.shareBase (dwPart w.desc) + 64 * dwDoff w.desc) (dwDlen w.desc) else []
    let (x, d) := d.transitSend q.ten (leBytes 32 body) rows
    let src := match d.forkSrc w.desc with
      | none => 0
      | some s => if w.kind = 1 then s.origin else 0
    d.placeOn n q.ten body (mirrorHead w endp q.geo src ++ x)

/-! ### Running an edit -/

/-- The blocks that an edit reads (R20, Table 5.8): the lane directory, the tree paths of its pages, and the seal blocks of those in T1. Each counts once, at
its first need (log entry 129, DESIGN CHOICE). -/
def editBlocks (d : Dev) (q : Seq) (pages : List (Nat × Nat)) : List Nat :=
  (pages.flatMap (fun p => q.ldPath p.1 ++ (q.now p.1).path q.geo.perLeaf p.2 ++ (match mget (q.now p.1).pages p.2 with
    | none => []
    | some e => if (d.resolve e).loc.isT1 then [(d.resolve e).sblk] else []))).eraseDups

/-- Pages that an edit walks: those it needs, the last of an appended lane, and for TRIM and CLOSE those that leave. -/
def Dev.editWalks (d : Dev) (q : Seq) (w : Work) : List (Nat × Nat) :=
  let all (l lo : Nat) : List (Nat × Nat) := ((q.now l).pages.filter (fun p => decide (lo ≤ p.1))).map (fun p => (l, p.1))
  match w.op with
  | 0 => [(q.geo.lane (dwLayer w.desc) (dwHgrp w.desc), dwPos w.desc / 16)]
  | 1 => (editLanes q w.desc).flatMap (fun l => all l (dwPos w.desc / 16))
  | 4 => (q.lanes.map Prod.fst).flatMap (fun l => all l 0)
  | _ => (d.editNeeds q none w.desc).map (fun n => (n.1, n.2.1))

/-- Prepares an operation: allocation and data. -/
def Dev.prepareGo (dry : Bool) (slot : Nat) (q : Seq) (w : Work) (fs : List ColFault) (qb : QBuf) (d : Dev) : Except EditRes (Prep × Nat × Dev) :=
  match w.op with
  | 0 => Dev.prepAppend dry slot q w.desc fs qb d
  | 1 => Dev.prepTrim q w.desc (dwPos w.desc) d
  | 2 => Dev.prepKeep dry slot q w.desc fs d
  | 3 => Dev.prepFork dry slot q w.desc fs d
  | _ => .ok (Dev.prepClose q d)

/-- Prepares an operation. Everything is allocated before any row is read or written (Table 5.7, steps 3 and 4). -/
def Dev.prepare (slot : Nat) (q : Seq) (w : Work) (fs : List ColFault) (qb : QBuf) (d : Dev) : Except EditRes (Prep × Nat × Dev) :=
  match Dev.prepareGo true slot q w fs qb d with
  | .error x => .error x
  | .ok _ => Dev.prepareGo false slot q w fs qb d

/-- A failure of stored data met by an edit or a move: frozen and journalled with CKIND 2, and the tiles to be re-read (R206). -/
def Dev.editFault (d : Dev) (slot tag cause tile : Nat) (id : RunId) : Dev :=
  let j : JInfo := JInfo.run { tag := tag, ckind := 2, ctxid := slot, part := d.partOf id.ten } id
  let d := d.readFault tile cause true (10 * 4096) j []
  if d.plc.suspects.any (fun s => decide (s.1 = id)) then d else
  { d with plc := { d.plc with suspects := d.plc.suspects ++ [(id, if cause = 2 then 1 else 2)] } }

/-- A ledger or seal block that an edit or a move reads fails (R98): frozen and journalled; no page-run is to be re-read. -/
def Dev.blockFault (d : Dev) (slot tag cause tile : Nat) (q : Seq) : Dev :=
  d.readFault tile cause false (10 * 4096) { tag := tag, ckind := 2, ctxid := slot, part := q.part, tenant := q.ten, seq := q.origin } []

/-- The shares that a walk over some pages of a sequence resolves (R142). -/
def editShares (q : Seq) (pages : List (Nat × Nat)) : List Nat :=
  pages.filterMap (fun p => (mget (q.now p.1).pages p.2).bind PageEnt.shareIdx)

/-- The arbors of an edit's sequences together, and a pin on each (R130, R131); none where it must wait. -/
def Dev.editPins (d : Dev) (slot : Nat) (w : Work) : Option (Nat × Option Nat × Dev) :=
  let slots := slot :: (match w.srcSlot with
    | none => []
    | some s => [s])
  let slots := slots.filter (fun s => (mget d.pgm.seqs s).isSome)
  (Dev.takeArbors false slots slots d).bind (fun d => (d.takePin slot).bind (fun (v, d) => match w.srcSlot with
    | none => some (v, none, d)
    | some s => if (mget d.pgm.seqs s).isNone then some (v, none, d) else (d.takePin s).map (fun (x, d) => (v, some x, d))))

/-- An edit from its resolve step on (Table 5.7). -/
def Dev.runEdit (d : Dev) (slot : Nat) (w : Work) (waited : Bool) (fs : List ColFault) (qb : QBuf) : Dev :=
  let park (d : Dev) : Dev := d.setEdits slot [⟨w, w.op, none, .arbor, none, none, 0, none, []⟩]
  let wait (d : Dev) : Dev := park (if waited then d else d.pinWait false)
  let d0 := d
  -- an edit that waited for a stage-back held its pins, and pins the version that it goes on with
  let d := match d.running slot with
    | some e => (d.setEdits slot []).dropPin slot e
    | none => d
  match d.editPins slot w with
  | none => wait d
  | some (v, sv, d) =>
    match mget d.pgm.seqs slot with
    | none => wait d
    | some q =>
      let src := if w.kind = 1 then d.forkSrc w.desc else none
      let needs := if w.kind = 1 then d.editNeeds q src w.desc else []
      let who := src.getD q
      let held := editShares q (d.editWalks q w) ++ editShares who (needs.map (fun n => (n.1, n.2.1)))
      let d := { d with pgm := { d.pgm with shares := held.foldl (fun m k => mmod m k (fun x => { x with holds := x.holds + 1 })) d.pgm.shares } }
      let e : Edit := ⟨w, w.op, none, .slot, some v, none, 0, sv, held⟩
      let slots := slot :: (match w.srcSlot with
        | none => []
        | some s => [s])
      match (d0.arborFault fs slots).orElse (fun _ => d.shareFault fs held) with
      | some (c, a) => Dev.endEdit (d.eccAll fs) ((d.eccAll fs).blockFault slot w.tag c a q) slot e .integrity 0
      | none =>
      let (cs, d) := if w.kind = 1 then d.pageConds who q src w.desc [] else ([], d)
      match firstCond false cs with
      | some (st, info) => Dev.endEdit d d slot e st info
      | none =>
        let t3 := needs.find? (fun n => match (d.resolve n.2.2.1).loc with
          | .t3 _ => true
          | _ => false)
        match t3 with
        | some n => d.setEdits slot [{ e with phase := .stage (who.idOf n.1 n.2.1) }]
        | none =>
          let blocks := editBlocks d q (d.editWalks q w) ++ (match src with
            | none => []
            | some x => editBlocks d x (needs.map (fun n => (n.1, n.2.1))))
          match Dev.leafTouch fs blocks.eraseDups (d.eccAll fs) with
          | (some (c, a), d) =>
            let d1 := d.blockFault slot w.tag c a q
            Dev.endEdit d d1 slot e .integrity 0
          | (none, d) =>
            match Dev.prepare slot q w fs qb d with
            | .error (.ends st info) => Dev.endEdit d (d.countRefusal st) slot e st info
            | .error (.failed st c a id) =>
              let d1 := d.editFault slot w.tag c a id
              Dev.endEdit d d1 slot e st (sat20 (id.page - dwPage0 w.desc))
            | .error .wait => park ((d.setEdits slot []).dropPin slot e)
            | .error (.stage _) => Dev.endEdit d0 d slot e .orphaned 0
            | .error (.ready _ _) => Dev.endEdit d0 d slot e .orphaned 0
            | .ok (p, endp, d) =>
              let e := { e with prep := some p, endp := endp }
              match (d.tenant q.ten).mirror with
              | some m =>
                if d.transitSpent then Dev.endEdit d (d.spentEvent ⟨q.ten, q.origin, 0, 0, 0⟩) slot e .refusedCapacity 0
                else (d.setEdits slot [{ e with phase := .mirror }]).forward qb m q w endp
              | none => d.tryPublish slot e p

/-- CLOSE's refusals (R186, R31). -/
def Dev.closeConds (d : Dev) (w : Work) : List (St × Nat) :=
  let x := w.desc
  cond d.trn.fenced .fenced ++ cond (!d.keyOk w.ten w.keygen || !d.admitted w.ten (wf x 12 4)) .keyRevoked ++
  cond (!scOk x || !w.extra.isEmpty) .shape ++ d.handleBar (scSeq x) w.ten (wf x 12 4)

/-- The row of an operation on a slot: the edit that waits there for an arbor, a pin or a stage-back, or the next request. Log entry 45, DEDUCED. -/
def editRow (op slot : Nat) (fs : List ColFault) (qb : QBuf) (d : Dev) : Dev :=
  if d.ctxHeld 2 slot then d else
  match d.running slot with
  | some e =>
    let waits := match e.phase with
      | .arbor => true
      | .stage _ => true
      | _ => false
    if decide (e.op = op) && e.move.isNone && waits then d.runEdit slot e.work true fs qb else d
  | none =>
    match d.takeEdit slot op with
    | none => d
    | some (w, d') =>
      if d.rqpAway w.src w.rqp then d.rqpFetch w.rqp else
      let d := d'
      if !d.rqpOk w.src false w.rqp w.ten (wf w.desc 12 4) then d.noAnswer w.src else
      let (cs, d) := if w.kind = 1 then d.editConds qb w else (d.closeConds w, d)
      match firstCond false cs with
      | some (st, info) => d.editRefuse w st info
      | none => d.runEdit slot w false fs qb

/-! ### OPEN (R183) -/

/-- The lowest free own slot (R168): its bits [21:19] are this node's tray position. -/
def Dev.ownSlot (d : Dev) : Option Nat :=
  let lo := d.myPos * 2 ^ 19
  leastOf (fun s => decide (lo ≤ s ∧ s < lo + 2 ^ 19) && (mget d.pgm.seqs s).isNone && !d.plc.retSlots.contains s)
    (lo :: (d.pgm.seqs.map (·.1 + 1)) ++ d.plc.retSlots.map (· + 1))

/-- Lane-directory blocks of a number of lanes: those of the lanes and the pointer levels above (R121). -/
def ldBlocks : (fuel n : Nat) → Nat
  | 0, n => n
  | k + 1, n => if n ≤ 1 then n else n + ldBlocks k (cdiv n 64)

/-- Several new blocks. -/
def Dev.newBlks : (n : Nat) → Dev → List Nat × Dev
  | 0, d => ([], d)
  | n + 1, d => let (b, d) := d.newBlk
                let (r, d) := Dev.newBlks n d
                (b :: r, d)

/-- A sequence opened in a slot with its lane directory, every lane empty. -/
def Dev.openSlot (d : Dev) (slot ten part sgen origin : Nat) (g : Geom) (resv : Nat) : Dev :=
  let (ld, d) := d.newBlks (ldBlocks 4 (cdiv g.lanes 16))
  let d := ld.foldl (fun d a => d.claimBlk a true) d
  { d with pgm := { d.pgm with seqs := mset d.pgm.seqs slot ⟨ten, part, sgen, false, 0, g, origin, ld, [], [], [], [], resv, false, 0, false⟩ } }

/-- The geometry an OPEN names, with its frame class; none where R183 refuses it. -/
def openGeom (x : W512) : Option Geom :=
  let g := scGeom x
  if !shapeOk g.shape || !fmtOk g.shape g.kvfmt || (decide (shKind g.shape ≠ 0) && !decide (g.hpm1 = 0 ∧ g.nhgm1 = 0)) then none else
  (frameClass g.shape g.kvfmt g.heads).map (fun c => { g with fcls := c })

end Sys2Proof.Machine
end

