-- ==== Sys2Proof/Machine/Moves.lean ====
section
/-! DEFINITION. The tier manager's moves (R175 to R189, Table 7.4), failed page-runs (R206, R207), and TNOW (R172, R173). -/

namespace Sys2Proof.Machine

/-! ### Where a page-run is -/

/-- The ledger of the node that names an identity's sequence, own or lodged (R167, R195). -/
def Dev.ledgerOf (d : Dev) (id : RunId) : Option (Nat × Seq) :=
  d.pgm.seqs.find? (fun q => decide (q.2.origin = id.seq ∧ q.2.ten = id.ten) && !q.2.closing)

/-- The page entry of an identity in the current version: slot, sequence, lane and entry. -/
def Dev.pageOf (d : Dev) (id : RunId) : Option (Nat × Seq × Nat × PageEnt) :=
  match d.ledgerOf id with
  | none => none
  | some (slot, q) =>
    if q.geo.nlm1 < id.layer ∨ q.geo.nhg ≤ id.hgrp then none else
    let lane := q.geo.lane id.layer id.hgrp
    (mget (q.now lane).pages id.page).map (fun e => (slot, q, lane, e))

/-- One past the last held position of a page, in the page. -/
def heldIn (q : Seq) (lane page : Nat) : Nat := heldHi page (q.now lane).endp - 16 * page

/-! ### Failed page-runs (R206, R207) -/

/-- A page entry marked FAILED. -/
def PageEnt.fail (e : PageEnt) (fc : Nat) : PageEnt := { e with failed := true, fcause := fc }

/-- A move's edit. -/
def moveEdit (q : Seq) (m : Move) (id : RunId) (dest : Nat) (phase : EPhase) (pin : Option Nat) (p : Prep) : Edit :=
  ⟨⟨1, .node, q.part, 0, 0, []⟩, 0, some (m, id, dest), phase, pin, some p, 0, none, []⟩

/-- An edit of the node itself that puts an entry in place of a page's, or none with `none` (R175, R206, R208). -/
def Dev.swapEntry (d : Dev) (slot : Nat) (q : Seq) (lane : Nat) (m : Move) (id : RunId) (dest : Nat) (new : Option PageEnt) (pin : Option Nat)
    (p : Prep) : Dev :=
  let s := q.now lane
  let pages := match new with
    | some e => mset s.pages id.page e
    | none => mdel s.pages id.page
  let e := moveEdit q m id dest .slot pin p
  match Dev.newLane q lane s.endp pages [id.page] p d with
  | .ok (p, d) => d.tryPublish slot { e with prep := some p } p
  | .error _ => Dev.endEdit d (d.countRefusal .refusedCapacity) slot e .refusedCapacity 0

/-- A page-run is to become FAILED once its ledger can be written: no edit of its sequence runs, and an arbor-cache entry can be taken (R131). -/
def Dev.failAfter (d : Dev) (id : RunId) (fc : Nat) : Dev :=
  { d with plc := { d.plc with suspects := d.plc.suspects.filter (fun s => decide (s.1 ≠ id)) ++ [(id, 16 + fc)] } }

/-- A page-run becomes FAILED: in its copy, its share entry, or by a version of its ledger (R206), which reads the ledger's blocks as every edit (R20). -/
def Dev.markFailed (d : Dev) (id : RunId) (fc : Nat) : Dev :=
  match (d.run id).bind Run.copy with
  | some c => (d.modRun id (fun r => { r with copy := some { c with ent := c.ent.fail fc } })).failedNow id fc
  | none =>
    match d.pageOf id with
    | none => d
    | some (slot, q, lane, e) =>
      match e.loc with
      | .share i => ({ d with pgm := { d.pgm with shares := mmod d.pgm.shares i (fun s => { s with ent := s.ent.fail fc }) } }).failedNow id fc
      | .away _ => d
      | _ => if d.editBusy slot then d.failAfter id fc else match d.takeArbor slot true [slot] with
        | none => (d.failAfter id fc).moveWait id false
        | some d => (((Dev.leafTouch [] (editBlocks d q [(lane, id.page)]) d).2).moveGoes id).swapEntry slot q lane .mark id fc (some (e.fail fc)) none emptyPrep

/-- Whether the tier manager can act on a page-run now: no edit of its sequence runs (R176). -/
def Dev.quiet (d : Dev) (id : RunId) : Bool := match d.ledgerOf id with
  | none => true
  | some (slot, _) => !d.editBusy slot

/-- TILE_REREAD: the held rows of a page-run whose data failed are read again; a repeated error makes it FAILED (R206). -/
def tileRereadStep (id : RunId) (fs : List ColFault) (d : Dev) : Dev :=
  match d.plc.suspects.find? (fun s => decide (s.1 = id ∧ s.2 < 16)) with
  | none => d
  | some (_, _) =>
    if !d.quiet id then d else
    let d := ({ d with plc := { d.plc with suspects := d.plc.suspects.filter (fun s => decide (s.1 ≠ id)) } }).eccAll fs
    let place : Option (Geom × PageEnt × Nat) := match (d.run id).bind Run.copy with
      | some c => some (c.geo, c.ent, c.held)
      | none => (d.pageOf id).map (fun (_, q, lane, e) => (q.geo, d.resolve e, heldIn q lane id.page))
    match place with
    | none => d
    | some (g, e, hi) =>
      if e.failed then d else
      match e.loc with
      | .t0 _ => go d g e hi
      | .t1 _ _ _ => go d g e hi
      | _ => d
where
  /-- The re-read and what follows it. -/
  go (d : Dev) (g : Geom) (e : PageEnt) (hi : Nat) : Dev :=
    let d := d.claimPage g e.loc e.first hi false
    match d.rowsAt fs g id id.ten e e.first hi with
    | .ok _ => d
    | .error (c, _) => d.markFailed id (if c = 2 then 1 else 2)

/-- Page-runs whose ledger could not be written when they failed become FAILED now (R206, Table 12.9). -/
def Dev.failLater (d : Dev) : Dev :=
  (d.plc.suspects.filter (fun s => decide (16 ≤ s.2) && d.quiet s.1)).foldl (fun d s =>
    ({ d with plc := { d.plc with suspects := d.plc.suspects.filter (fun x => decide (x.1 ≠ s.1)) } }).markFailed s.1 (s.2 - 16)) d

/-! ### Moves between frames (R142, R176, R177) -/

/-- A move abandoned by a failure of stored data (R206). -/
def Dev.moveFault (d : Dev) (slot cause tile : Nat) (id : RunId) : Dev :=
  let st : St := if cause = 2 then .tierError else .integrity
  let d1 := d.editFault slot 0 cause tile id
  Dev.editCount d d1 ⟨1, .node, 0, 0, 0, []⟩ (some id) slot st

/-- Whether a page-run may move at all (R176): HOME, not FAILED, no edit of its sequence running. -/
def Dev.movable (d : Dev) (slot : Nat) (id : RunId) (e : PageEnt) : Bool :=
  (match d.run id with
   | none => false
   | some r => decide (r.hstate = .home)) && !e.failed && !d.editBusy slot

/-- Whether a walk holds the share that an entry names (R142). -/
def Dev.shareHeld (d : Dev) (e : PageEnt) : Bool := match e.shareIdx.bind (mget d.pgm.shares) with
  | none => false
  | some s => decide (s.holds ≠ 0)

/-- The blocks and rows that a move reads: its rows, or the move is abandoned (R206). -/
def Dev.moveRead (d : Dev) (fs : List ColFault) (slot : Nat) (q : Seq) (lane : Nat) (id : RunId) (e : PageEnt) :
    Except Dev (List ((Nat × Nat) × Bytes) × Dev) :=
  let hi := heldIn q lane id.page
  -- `q` is the sequence as it was before its arbor was taken
  let bad := (if q.cached then none else metaFault (metaKeys d.sec.nrk) fs (Config.arborTile slot) q.arbor).orElse
    (fun _ => d.shareFault fs (editShares q [(lane, id.page)]))
  match match bad with
    | some x => (some x, d)
    | none => Dev.leafTouch fs (editBlocks d q [(lane, id.page)]) d with
  | (some (c, a), d) =>
    let d1 := d.blockFault slot 0 c a q
    .error (Dev.editCount d d1 ⟨1, .node, 0, 0, 0, []⟩ (some id) slot .integrity)
  | (none, d) =>
    let d := (d.eccAll (frameFaults fs q.geo e.loc)).claimPage q.geo e.loc e.first hi false
    match d.rowsAt fs q.geo id q.ten e e.first hi with
    | .error (c, a) => .error (d.moveFault slot c a id)
    | .ok rows => .ok (rows, d)

/-- A page-run's rows read into a new frame, which its entry, or its share entry in place (R142), then names. -/
def Dev.refit (d : Dev) (m : Move) (id : RunId) (fs : List ColFault) (alloc : Dev → Nat → Option (Frame × Dev)) : Dev :=
  match d.pageOf id with
  | none => d
  | some (slot, q, lane, e) =>
    let r := d.resolve e
    if d.shareHeld e then d else
    match (d.takeArbor slot true [slot]).bind (fun d => (d.takePin slot).map (fun x => (x.1, x.2.moveGoes id))) with
    | none => d.moveWait id false
    | some (v, d) =>
      match d.moveRead fs slot q lane id r with
      | .error d => d.unpin slot v
      | .ok (rows, d) =>
        match alloc d slot with
        | none => d.unpin slot v
        | some (f, d) =>
          let d := d.writeRowsAt q.geo id f.loc f.ver rows
          match e.loc with
          | .share i =>
            let d := d.dropFrame r.loc
            let d := { d with pgm := { d.pgm with shares := mmod d.pgm.shares i (fun s => { s with ent := frameEnt f r.first r.kscale r.vscale }) } }
            (d.moveDone (m, id, 0)).unpin slot v
          | _ => d.swapEntry slot q lane m id 0 (some (frameEnt f r.first r.kscale r.vscale)) (some v)
                   { emptyPrep with made := [f.loc], retire := emptyRetired.unref e }

/-- The effective count of a page-run now (R172). -/
def Dev.tally (d : Dev) (id : RunId) : Nat := match d.run id with
  | none => 0
  | some r => effCount d.plc.tnow r.stamp r.count

def Dev.t0Low (d : Dev) : Nat := d.reg (rk 0x00800018 32)
def Dev.t0High (d : Dev) : Nat := d.reg (rk 0x00800018 40)
def Dev.t1Low (d : Dev) : Nat := d.reg (rk 0x00800018 16)
def Dev.t1High (d : Dev) : Nat := d.reg (rk 0x00800018 24)

/-- A place as an order: in T1 the lower (stack, die, FOFF), in T0 the lower frame index (R174). -/
def Loc.order : Loc → Nat
  | .t0 f => f
  | .t1 s c f => (s * 16 + c) * 2 ^ 32 + f
  | _ => 0

/-- The oldest of several page-runs (R174). -/
def oldest (l : List (RunId × Nat × Nat)) : Option RunId :=
  (l.foldl (fun (b : Option (RunId × Nat × Nat)) x => match b with
    | none => some x
    | some y => if x.2.1 < y.2.1 ∨ (x.2.1 = y.2.1 ∧ x.2.2 < y.2.2) then some x else some y) none).map Prod.fst

/-- Page-runs of the node's ledgers that pass a test, with STAMP and place. -/
def Dev.runsWhere (d : Dev) (p : Nat → Seq → Nat → RunId → PageEnt → Bool) : List (RunId × Nat × Nat) :=
  d.pgm.seqs.flatMap (fun s => if s.2.closing then [] else s.2.lanes.flatMap (fun l => (s.2.now l.1).pages.filterMap (fun x =>
    let id := s.2.idOf l.1 x.1
    let e := d.resolve x.2
    if d.movable s.1 id e && p s.1 s.2 l.1 id { e with loc := e.loc } then some (id, ((d.run id).map Run.stamp).getD 0, e.loc.order) else none)))

/-- The T0 page-run that pressure demotes next. -/
def Dev.oldT0 (d : Dev) (p : RunId → Bool) : Option RunId := oldest (d.runsWhere (fun _ _ _ id e => e.loc.isT0 && p id))

/-- A demotion: T1 space must take the frame. -/
def Dev.demote (d : Dev) (id : RunId) (fs : List ColFault) : Dev :=
  match d.pageOf id with
  | none => d
  | some (_, q, lane, _) =>
    if d.t1Open < fKib q.geo.fcls + 1 then d else
    d.refit .demote id fs (fun d slot => d.allocT1 q.ten q.geo.fcls (slot + 7 * lane + id.page))

/-- Whether T0 has room for a frame and stays at or above T0_LOW_PCT. -/
def Dev.t0Fits (d : Dev) (kib : Nat) : Bool := decide (kib ≤ d.t0Free ∧ d.t0Low * d.t0Total ≤ 100 * (d.t0Free - kib))

/-- Demotes the oldest T0 page-runs below PROMOTE until a frame fits (fuel: T0 page-runs). -/
def Dev.makeT0Room (d : Dev) (kib : Nat) (fs : List ColFault) : (fuel : Nat) → Dev
  | 0 => d
  | n + 1 => if d.t0Fits kib then d else
    match d.oldT0 (fun id => decide (d.tally id < d.promoteAt)) with
    | none => d
    | some id => (d.demote id fs).makeT0Room kib fs n

/-- Whether a page-run's last touch asks for a move that is not decided (R175). -/
def Dev.moveDue (d : Dev) (id : RunId) : Bool := match d.run id with
  | none => false
  | some r => r.due
/-- The move is decided. -/
def Dev.notDue (d : Dev) (id : RunId) : Dev := (d.modRun id (fun r => { r with due := false })).moveGoes id
/-- Whether a move finds its sequence's arbor cached and a pin (R130, R131). -/
def Dev.arborFree (d : Dev) (slot : Nat) : Bool := ((d.takeArbor slot true [slot]).bind (fun d => d.takePin slot)).isSome

/-- PROMOTION (R175, R177): a touch left the effective count at PROMOTE or above and TIERS bit 0 is set. -/
def promotionStep (id : RunId) (fs : List ColFault) (d : Dev) : Dev :=
  match d.pageOf id with
  | none => d
  | some (slot, q, _, e) =>
    let kib := fKib q.geo.fcls
    if !d.moveDue id || !(d.resolve e).loc.isT1 || !d.movable slot id (d.resolve e) || d.lodging slot || decide (fld (d.tenant id.ten).tiers 0 1 = 0) then d else
    let d := d.makeT0Room kib fs (d.plc.frames.filter (·.loc.isT0)).length
    if !d.movable slot id (d.resolve e) then d else
    if !d.t0Fits kib then d.notDue id else
    -- a share that a walk holds moves once the walk lets go (R142)
    if d.shareHeld e then d else
    if !d.arborFree slot then d.moveWait id false else
    (d.notDue id).refit .promote id fs (fun d _ => d.allocT0 q.ten q.geo.fcls)

/-- DEMOTION (R170, R177): the oldest T0 page-run under T0 pressure, or one of a tenant whose T0 was withdrawn. -/
def demotionStep (id : RunId) (fs : List ColFault) (d : Dev) : Dev :=
  match d.pageOf id with
  | none => d
  | some (slot, _, _, e) =>
    if !(d.resolve e).loc.isT0 || !d.movable slot id (d.resolve e) then d else
    if decide (fld (d.tenant id.ten).tiers 0 1 = 0) || (d.plc.t0press && decide (d.oldT0 (fun _ => true) = some id)) then d.demote id fs else d

/-! ### Node channels (Table 16.2, R327, R328, R415) -/

/-- A channel's number at its owner (R305). -/
def Dev.chLocal (d : Dev) (ch : Nat) : Nat := ((List.range ch).filter (fun c => decide (d.chOwner c = d.chOwner ch))).length
/-- A bus error as a fault (Table 14.2); `j` names what the channel's descriptor or transfer names. -/
def Dev.busFault (d : Dev) (ch cause : Nat) (j : JInfo) (held : List Held) : Dev :=
  d.fault { j with code := 3, sub := cause, engine := 5 * 4096 + ch, ctxid := ch, ckind := 3 } true held

/-- The read of a node transfer: function, address and length. -/
def Dev.xferRead (d : Dev) : XWhat → Option (Nat × Nat × Nat)
  | .ctx n => (d.fn 0).qpt.map (fun b => (0, b + 128 * n, 128))
  | .stage id => match d.run id, d.spillArea (d.partOf id.ten) with
    | some r, some (b, _) => if r.t3bytes = 0 then old id b else some (d.partOf id.ten + 1, b + 4096 * r.t3unit, 4096 * cdiv r.t3bytes 4096)
    | none, some (b, _) => old id b
    | _, none => none
  where old (id : RunId) (b : Nat) : Option (Nat × Nat × Nat) :=
    (d.oldImages.find? (fun i => decide (i.id = id))).map (fun i => (d.partOf id.ten + 1, b + 4096 * i.unit, 4096 * cdiv i.bytes 4096))

/-- The node channels that Table 16.2 gives a transfer: the second for a context, the third and further ones for a stage-back. -/
def Dev.homesOf (d : Dev) : XWhat → List Nat
  | .ctx _ => (d.nodeChans.drop 1).take 1
  | .stage _ => d.nodeChans.drop 2

/-- The channel to which a halted node channel's transfers go: the next higher-numbered running one, wrapping to the lowest (R415). -/
def Dev.heir (d : Dev) (ch : Nat) : Option Nat :=
  (d.nodeChans.filter (fun c => decide (ch < c)) ++ d.nodeChans.filter (fun c => decide (c ≤ ch))).find? d.chRuns

/-- Whether a transfer comes to a channel from a halted one. -/
def Dev.redirected (d : Dev) (ch : Nat) (w : XWhat) : Bool := (d.homesOf w).any (fun h => !d.chRuns h && decide (d.heir h = some ch))

/-- Whether a channel carries no transfer. -/
def Dev.chIdle (d : Dev) (ch : Nat) : Bool := !d.dma.xfers.any (fun x => decide (x.chan = some ch))

/-- What the journal entry of a node transfer's bus error names. -/
def Dev.xferInfo (d : Dev) : XWhat → JInfo
  | .ctx n => match mget d.trn.qps n with
    | none => {}
    | some q => { tenant := q.ten, part := q.part }
  | .stage id => { tenant := id.ten, part := d.partOf id.ten, page := id.page }

/-- A bus error on a node channel (R327, R328): it halts and latches the error; its other transfers go elsewhere (R415). -/
def Dev.nodeHalts (d : Dev) (ch cause : Nat) (dir : Bool) (a : W64) (j : JInfo) : Dev :=
  let err := pack [(0, 3, cause), (3, 1, b2n dir)]
  let d := { d with dma := { d.dma with xfers := d.dma.xfers.map (fun (x : Xfer) => if x.chan = some ch ∧ !x.issued then { x with chan := none } else x) } }
  (d.setChan ch { d.chan ch with state := 3, errAddr := a, err := BitVec.ofNat 64 err }).busFault ch cause j [.event 0 2 (d.chLocal ch) err]

/-- The node channel that a spill goes to: a bulk channel, or the one that takes a halted one's place, running and idle; stage-backs due
have been given to theirs before (Table 16.2, R415). -/
def Dev.spillChan (d : Dev) : Option Nat := (d.nodeChans.drop 3).findSome? (fun h =>
  match if d.chRuns h then some h else d.heir h with
  | none => none
  | some c => if d.chIdle c && d.chRuns c then some c else none)

/-! ### Moves down (R178) -/

/-- Usage above the quota (R185). -/
def Dev.over (d : Dev) (t : Nat) : Bool := decide ((d.tenant t).quota < d.usage t)

/-- Tray positions that a page-run may still be offered to, in the order of R178; none once its epoch was found exhausted (mark 9). -/
def Dev.lendTo (d : Dev) (id : RunId) : List Nat :=
  let t := d.tenant id.ten
  if fld t.tiers 1 1 = 0 ∨ d.plc.declined.contains (id, 9) then [] else
  let start := if d.plc.lastPeer < 8 then d.plc.lastPeer + 1 else 0
  ((List.range 8).map (fun i => (start + i) % 8)).filter (fun i => decide (fld t.peers i 1 = 1) && (d.peerQp (d.tray i)).isSome &&
    !d.plc.declined.contains (id, i))

/-- Whether a page-run may be spilled: T3 is allowed, there is an area, and a spill of it has not found the area full (mark 8). -/
def Dev.canSpill (d : Dev) (id : RunId) : Bool :=
  decide (fld (d.tenant id.ten).tiers 2 1 = 1) && (d.spillArea (d.partOf id.ten)).isSome && !d.plc.declined.contains (id, 8)

/-- A spill found no room in the area: the page-run is passed over. -/
def Dev.noRoom (d : Dev) (id : RunId) : Dev := { d with plc := { d.plc with declined := d.plc.declined ++ [(id, 8)] } }

/-- T1 page-runs that pressure may move down: private, holding position 15, and lendable or spillable; a lodged one is only spilled. -/
def Dev.downs (d : Dev) (p : RunId → Bool) : List (RunId × Nat × Nat) :=
  d.runsWhere (fun slot q lane id e => p id && e.loc.isT1 && decide (heldIn q lane id.page = 16) &&
    (match mget (q.now lane).pages id.page with
     | none => false
     | some x => x.shareIdx.isNone) && ((!d.lodging slot && !(d.lendTo id).isEmpty) || d.canSpill id))

/-- Shadows in T1 that may go to T3 (R176). -/
def Dev.shadowDowns (d : Dev) (p : RunId → Bool) : List (RunId × Nat × Nat) := d.plc.runs.filterMap (fun r => match r.copy with
  | none => none
  | some c => if decide (r.hstate = .shadow) && c.ent.loc.isT1 && !c.ent.failed && decide (c.held = 16) && d.canSpill r.id && p r.id then
      some (r.id, r.stamp, c.ent.loc.order) else none)

/-- Whether an entry names an image in T3. -/
def isT3Ent (e : PageEnt) : Bool := match e.loc with
  | .t3 _ => true
  | _ => false

/-- A page of T3 that tenons wait for and that the current version of their sequence no longer names there: slot, sequence, lane and page (R188). -/
def Dev.oldWait (d : Dev) (id : RunId) : Option (Nat × Seq × Nat × WPage) := d.atn.table.findSome? (fun e => match e.2.phase with
  | .stageWait l => if !l.contains id then none else
    (mget d.pgm.seqs e.2.slot).bind (fun q =>
      let lane := q.geo.lane id.layer id.hgrp
      let now := match mget (q.now lane).pages id.page with
        | none => false
        | some x => isT3Ent x
      if now then none else (e.2.pages.find? (fun p => isT3Ent p.ent && decide (p.page = id.page))).map (fun p => (e.2.slot, q, lane, p)))
  | _ => none)

/-- Page-runs that some request waits to have staged back (R188). -/
def Dev.stageWants (d : Dev) : List RunId :=
  d.atn.table.flatMap (fun e => match e.2.phase with
    | .stageWait l => l
    | _ => []) ++
  d.pgm.seqs.flatMap (fun q => q.2.edits.filterMap (fun e => match e.phase with
    | .stage id => some id
    | _ => none)) ++
  -- page-runs of T3 that a mirror is to be sent (R199)
  d.plc.fillRuns.filter (fun id => match d.pageOf id with
    | none => false
    | some (_, _, _, e) => match e.loc with
      | .t3 _ => true
      | _ => false)

/-- Whether a request waits for a shadow to be staged back: the mirror's queue holds a forwarded edit of its sequence. -/
def Dev.shadowWanted (d : Dev) (id : RunId) : Bool := d.plc.queue.any (fun w =>
  decide (pbKind w.body = 7 ∧ (pbRun w.body).seq = id.seq ∧ (pbRun w.body).ten = id.ten))

/-- Whether T1 cannot take a frame: too little unreserved space, or no die with a free share. -/
def Dev.noT1 (d : Dev) (fcls die : Nat) : Bool := decide (d.t1Open < fKib fcls + 1) || (d.pickDie fcls 128 die).isNone

/-- The die from which the frame of a copy or of a staged page is sought. -/
def copyDie (id : RunId) (g : Geom) : Nat := hSlot id.seq + 7 * g.lane id.layer id.hgrp + id.page

/-- Whether an admission or a stage-back waits for room (R178): the frames of the staged pages and shadows, and the OPENs' reservations. -/
def Dev.roomWaited (d : Dev) : Bool :=
  (d.stageWants.any (fun id => match d.pageOf id with
    | none => false
    | some (slot, q, lane, e) => isT3Ent e && d.noT1 q.geo.fcls (slot + 7 * lane + id.page))) ||
  d.plc.runs.any (fun r => match r.copy with
    | none => false
    | some c => isT3Ent c.ent && !c.ent.failed && d.shadowWanted r.id && d.noT1 c.geo.fcls (copyDie r.id c.geo)) ||
  d.pgm.queue.any (fun w => decide (w.kind = 2 ∧ scOp w.desc = 0) && (match openGeom w.desc with
    | none => false
    | some g => decide (d.t1Open < scRpages w.desc * g.lanes * (fKib g.fcls + 1))))

/-- The page-run that moves down next: over-quota tenants' first, then, under T1 pressure, any (R178, R185). -/
def Dev.nextDown (d : Dev) : Option RunId :=
  match oldest (d.downs (fun id => d.over id.ten) ++ d.shadowDowns (fun id => d.over id.ten)) with
  | some id => some id
  | none => if d.plc.t1press || d.roomWaited then oldest (d.downs (fun _ => true) ++ d.shadowDowns (fun _ => true)) else none

/-- Whether waiting for room can end: a page-run is left to move down, or a move runs (R178, R183, R188). -/
def Dev.eligible (d : Dev) : Bool :=
  !(d.downs (fun _ => true)).isEmpty || !(d.shadowDowns (fun _ => true)).isEmpty || d.pgm.seqs.any (fun q => q.2.edits.any (fun e => e.move.isSome))

/-- Pressure begins and ends (R177, R178): that of T1 also arises while room is waited for, and lasts until T1_HIGH_PCT. -/
def Dev.pressure (d : Dev) : Dev :=
  let hyst (was : Bool) (free total low high : Nat) : Bool := decide (100 * free < low * total) || (was && decide (100 * free < high * total))
  let p0 := hyst d.plc.t0press d.t0Free d.t0Total d.t0Low d.t0High
  let p1 := hyst d.plc.t1press d.t1Open d.t1Total d.t1Low d.t1High || d.roomWaited
  { d with plc := { d.plc with t0press := p0, t1press := p1, declined := d.plc.declined.filter (fun x => p1 || d.over x.1.ten) } }

/-- Step 1 of a transfer (Table 7.8): the page is read and offered; the move edit waits for the answer. An epoch at its largest value is
not offered (R190). Log entry 51, DEDUCED. Log entry 108, DEDUCED. -/
def Dev.startOffer (d : Dev) (m : Move) (id : RunId) (dest : Nat) (fs : List ColFault) : Dev :=
  match d.pageOf id, d.run id with
  | some (slot, q, lane, e), some r =>
    -- a fenced node sends no OFFER (R263)
    if d.trn.fenced then d else
    if r.epoch = 0xFFFFFFFF then
      ({ d with plc := { d.plc with declined := d.plc.declined ++ [(id, 9)] } }).placeEvent { type := 5, sub := 1, epoch := r.epoch } 4 id 0 else
    if d.transitSpent then ({ d with plc := { d.plc with declined := d.plc.declined ++ [(id, 9)] } }).spentEvent id else
    match (d.takeArbor slot true [slot]).bind (fun d => d.takePin slot) with
    | none => d.moveWait id false
    | some (v, d) =>
      match (d.moveGoes id).moveRead fs slot q lane id e with
      | .error d => d.unpin slot v
      | .ok (rows, d) =>
        let d := d.modRun id (fun r => { r with hstate := .offered, peer := dest })
        let d := d.sendImage dest 0 id r.epoch q.geo e (heldIn q lane id.page) rows
        d.setEdits slot [moveEdit q m id dest .offer (some v) emptyPrep]
  | _, _ => d

/-- LENDING (R178): the next page-run to move down, to the next tray position. -/
def lendingStep (id : RunId) (fs : List ColFault) (d : Dev) : Dev :=
  match d.pageOf id with
  | none => d
  | some (slot, _, _, _) =>
    if d.nextDown ≠ some id ∨ d.lodging slot ∨ d.trn.fenced then d else
    match d.lendTo id with
    | [] => d
    | i :: _ => d.startOffer .lend id (d.tray i) fs

/-- RETURN (R175): a lodged page-run whose touch left its effective count at PROMOTE goes back to its ledger node. -/
def returnStep (id : RunId) (fs : List ColFault) (d : Dev) : Dev :=
  match d.pageOf id, d.run id with
  | some (slot, _, _, e), some r =>
    if !r.due || d.trn.fenced || !d.lodging slot || !e.loc.isT1 || !d.movable slot id e || (d.peerQp r.peer).isNone then d else
    if !d.arborFree slot then d.moveWait id false else (d.notDue id).startOffer .ret id r.peer fs
  | _, _ => d

/-- An image put into the spill area: its place and length go into the record, the write to the host, its table slot (R187, R340). -/
def Dev.spillOut (d : Dev) (id : RunId) (g : Geom) (raw : Bytes) : Option (Nat × Nat) × Dev :=
  -- the spill counter never passes its largest value (R10, R340)
  if 2 ^ 64 - 1 ≤ d.sec.spillno then (none, d.spentEvent id) else
  let (st, slot, d) := if g.coded then d.codeImage g raw else (raw, none, d)
  let im := d.t3Image id st
  match d.spillFree (d.partOf id.ten) (im.length / 4096), d.spillArea (d.partOf id.ten) with
  | some u, some (base, _) =>
    let ver := d.sec.spillno % 2 ^ 32
    let d := { d with sec := { d.sec with spillno := d.sec.spillno + 1 } }
    let d := match slot with
      | none => d
      | some s => { d with cmp := mmod d.cmp s (fun t => { t with refs := t.refs + 1 }) }
    let d := (d.nodeWrite (d.partOf id.ten + 1) (base + 4096 * u) im).chCount d.spillChan im.length
    (some (u, ver), d.modRun id (fun r => { r with t3unit := u, t3bytes := st.length + 48, tslot := slot }))
  | _, _ => (none, d)

/-- Answers a message on the QP it came on. -/
def Dev.reply (d : Dev) (w : Work) (kind epoch status state : Nat) : Dev :=
  match w.src with
  | .qp n => d.placeOn n (pbRun w.body).ten (d.bodyOf kind (pbRun w.body) epoch status state) []
  | _ => d

/-- The forwarded edit that waits for a shadow ends with a status (R189, R201), at a fenced node when the row takes it (R194). Log entry 131,
DEDUCED. -/
def Dev.endShadowWait (d : Dev) (id : RunId) (st : St) : Dev :=
  if d.trn.fenced then d else
  let is (w : Work) : Bool := decide (pbKind w.body = 7 ∧ (pbRun w.body).seq = id.seq ∧ (pbRun w.body).ten = id.ten)
  match d.plc.queue.find? is with
  | none => d
  | some w => ({ d with plc := { d.plc with queue := dropFirst is d.plc.queue } }).reply w 8 (pbEpoch w.body) (stCode st) 0

/-- The requests that wait for a page-run end with a status; `hold`: it is held until the journal entry just queued commits. -/
def Dev.endStage (d0 d : Dev) (id : RunId) (st : St) : Dev :=
  let hold := decide (d0.rcv.jq.length < d.rcv.jq.length)
  let d := if ((d.run id).bind Run.copy).isSome then d.endShadowWait id st else d
  let d := (d.atn.table.filter (fun e => match e.2.phase with
    | .stageWait l => l.contains id
    | _ => false)).foldl (fun d e =>
      let off := sat20 (id.page - e.2.tn.pfirst)
      let d := d.tenonEnds e.1 st off hold
      if hold then d.hold [.tenon e.1 st off] else d) d
  (d.pgm.seqs.filter (fun q => q.2.edits.any (fun e => decide (e.phase = .stage id)))).foldl (fun d q => match q.2.edits with
    | e :: _ => Dev.endEdit d0 d q.1 e st 0
    | [] => d) d

/-- A bus error on the writes of a spill: the channel halts, the page-run stays where it was, and the requests that wait on it end
(R189). The address is that of the first unit that the image would have taken; the blocks that its stream coded count (R164). -/
def Dev.spillFails (d : Dev) (ch cause : Nat) (id : RunId) (g : Geom) (raw : Bytes) : Dev :=
  let d := if g.coded then (d.codeImage g raw).2.2 else d
  let part := d.partOf id.ten
  let a := match d.spillArea part, d.spillFree part 1 with
    | some (b, _), some u => b + 4096 * u
    | _, _ => 0
  let d1 := d.nodeHalts ch cause true (BitVec.ofNat 64 a) (d.xferInfo (.stage id))
  Dev.endStage d d1 id .tierError

/-- SPILL (R178, R187): the next page-run to move down when no peer may take it; or a shadow. `bus`: the cause of a bus error that its
writes met (R326), which with the host's posted writes can only be 6 or 7. -/
def spillStep (id : RunId) (fs : List ColFault) (bus : Option Nat) (d : Dev) : Dev :=
  match d.spillChan with
  | none => d
  | some ch =>
  if d.nextDown ≠ some id ∨ !d.canSpill id then d else
  match (d.run id).bind Run.copy with
  | some c =>
    let d := (d.eccAll fs).claimPage c.geo c.ent.loc c.ent.first c.held false
    match d.rowsAt fs c.geo id id.ten c.ent c.ent.first c.held with
    | .error (ca, a) => d.moveFault 0 ca a id
    | .ok rows => match bus with
      | some cause => d.spillFails ch cause id c.geo (imageRaw c.geo c.ent.first c.held rows)
      | none => match d.spillOut id c.geo (imageRaw c.geo c.ent.first c.held rows) with
      | (none, d) => d.noRoom id
      | (some (u, ver), d) =>
        let d := d.dropFrame c.ent.loc
        let d := d.modRun id (fun r => { r with copy := some { c with ent := { c.ent with loc := .t3 u, ver := ver, sblk := 0 } } })
        d.moveDone (.spill, id, 0)
  | none =>
    match d.pageOf id with
    | none => d
    | some (slot, q, lane, e) =>
      if !d.lodging slot && !(d.lendTo id).isEmpty then d else
      match (d.takeArbor slot true [slot]).bind (fun d => d.takePin slot) with
      | none => d.moveWait id false
      | some (v, d) =>
        match (d.moveGoes id).moveRead fs slot q lane id e with
        | .error d => d.unpin slot v
        | .ok (rows, d) => match bus with
          | some cause => (d.unpin slot v).spillFails ch cause id q.geo (imageRaw q.geo e.first (heldIn q lane id.page) rows)
          | none => match d.spillOut id q.geo (imageRaw q.geo e.first (heldIn q lane id.page) rows) with
          | (none, d) => (d.unpin slot v).noRoom id
          | (some (u, ver), d) =>
            d.swapEntry slot q lane .spill id 0 (some { e with loc := .t3 u, ver := ver, sblk := 0 }) (some v)
              { emptyPrep with retire := emptyRetired.unref e }

/-! ### Stage-back (R188, R189) -/

/-- The image's rows, or what failed: its header or tag (R340), or its stream (R149). -/
def Dev.stageRows (d : Dev) (id : RunId) (g : Geom) (lo hi ver : Nat) (im : Bytes) : Except Dev (List ((Nat × Nat) × Bytes) × Dev) :=
  match d.t3Take id ver im with
  | none => .error ((d.bump (rk 0x01100020 0) 16 1).fault (JInfo.run { code := 4, sub := 2, engine := 13 * 4096, part := d.partOf id.ten } id) true [])
  | some st =>
    if !g.coded then .ok (imageSplit g lo hi st, d) else
    let (r, d) := d.decodeImage g lo hi st
    match r with
    | .error e => .error (d.streamFail e 0 id.ten (JInfo.run {} id))
    | .ok raw => .ok (imageSplit g lo hi raw, d)

/-- The stage-back of a page that only a pinned version names: the frame is freed with the storage that the current version retired, and the tenons that
wait name it (R188; log entry 162, DESIGN CHOICE). -/
def Dev.stageOld (d : Dev) (id : RunId) (slot : Nat) (q : Seq) (lane : Nat) (p : WPage) (im : Bytes) : Dev :=
  let d0 := d
  let ends (d : Dev) : Dev := d.dropXfer (.stage id)
  let die := slot + 7 * lane + id.page
  if d.noT1 q.geo.fcls die then (if d.eligible then d else Dev.endStage d0 ((ends d).countRefusal .refusedCapacity) id .refusedCapacity) else
  match d.stageRows id q.geo p.ent.first 16 p.ent.ver im with
  | .error d => Dev.endStage d0 (ends d) id .integrity
  | .ok (rows, d) => match d.allocT1 q.ten q.geo.fcls die with
    | none => d0
    | some (f, d) =>
      let d := (ends d).writeRowsAt q.geo id f.loc f.ver rows
      let e := frameEnt f p.ent.first p.ent.kscale p.ent.vscale
      let d := d.modSeq slot (fun q => { q with retired := q.retired ++ [{ (emptyRetired.unref e) with ver := q.lver }] })
      let at_ (t : Tenon) : Bool := decide (t.slot = slot) && (match t.phase with
        | .stageWait l => l.contains id
        | _ => false)
      let d := { d with atn := { d.atn with table := mmap d.atn.table (fun _ t => if at_ t then
        { t with pages := t.pages.map (fun (w : WPage) => if isT3Ent w.ent ∧ w.page = id.page then { w with ent := e } else w) } else t) } }
      ((d.bump (rk 0x00800030 0) 64 1).bump (rk 0x00800038 32) 32 1).touchRun id

/-- The stage-back of a page of the current version: a move of Table 7.4, which reads its lane's blocks and publishes a version (R20, R131, R175). -/
def Dev.stagePage (d : Dev) (id : RunId) (slot : Nat) (q : Seq) (lane : Nat) (e : PageEnt) (im : Bytes) : Dev :=
  let d0 := d
  let ends (d : Dev) : Dev := d.dropXfer (.stage id)
  let die := slot + 7 * lane + id.page
  if q.edits.any (fun x => decide (x.phase ≠ .stage id)) then d else
  if d.noT1 q.geo.fcls die then (if d.eligible then d else Dev.endStage d0 ((ends d).countRefusal .refusedCapacity) id .refusedCapacity) else
  match d.takeArbor slot true [slot] with
  | none => d.moveWait id false
  | some d =>
    let d := (Dev.leafTouch [] (editBlocks d q [(lane, id.page)]) d).2
    match d.stageRows id q.geo e.first 16 e.ver im with
    | .error d => (Dev.endStage d0 (ends d) id .integrity).markFailed id 3
    | .ok (rows, d) => match d.allocT1 q.ten q.geo.fcls die with
      | none => d0
      | some (f, d) =>
        let d := (ends d).writeRowsAt q.geo id f.loc f.ver rows
        let s := q.now lane
        match Dev.newLane q lane s.endp (mset s.pages id.page (frameEnt f e.first e.kscale e.vscale)) [id.page] { emptyPrep with made := [f.loc] } d with
        | .error _ => Dev.endStage d0 (d.dropFrame f.loc) id .refusedCapacity
        | .ok (p, d') =>
          if !slotsFree q p.lanes then d0.moveWait id true else
          (d'.publish slot (moveEdit q .stageBack id 0 .slot none p) p).setEdits slot q.edits

/-- The stage-back of a shadow that a forwarded edit waits for. -/
def Dev.stageShadow (d : Dev) (id : RunId) (c : Copy) (im : Bytes) : Dev :=
  let d0 := d
  let ends (d : Dev) : Dev := d.dropXfer (.stage id)
  if !isT3Ent c.ent || !d.shadowWanted id || c.ent.failed then ends d else
  if d.noT1 c.geo.fcls (copyDie id c.geo) then (if d.eligible then d else (ends d).endShadowWait id .refusedCapacity) else
  match d.stageRows id c.geo c.ent.first 16 c.ent.ver im with
  | .error d => (ends d).markFailed id 3
  | .ok (rows, d) => match d.allocT1 id.ten c.geo.fcls (copyDie id c.geo) with
    | none => d0
    | some (f, d) =>
      let d := (ends d).writeRowsAt c.geo id f.loc f.ver rows
      let d := d.modRun id (fun r => { r with copy := some { c with ent := frameEnt f c.ent.first c.ent.kscale c.ent.vscale } })
      d.moveDone (.stageBack, id, 0)

/-- STAGE_BACK (R188, R189): the image of a page-run of T3 that a request needs has arrived on its channel. Every image holds the positions up
to 15 (R176). Where no request waits for it any more, it is dropped. Log entry 49, DEDUCED. -/
def stageBackStep (id : RunId) (im : Bytes) (d : Dev) : Dev :=
  if !d.dma.xfers.any (fun x => decide (x.what = .stage id) && x.issued) then d else
  let d := d.chCount (d.xferChan (.stage id)) im.length
  -- a tenant that is being removed: what arrives is discarded (R350)
  if !d.active id.ten then d.dropXfer (.stage id) else
  match (d.run id).bind Run.copy, d.pageOf id, d.oldWait id with
  | some c, _, _ => d.stageShadow id c im
  | none, some (slot, q, lane, e), old =>
    if isT3Ent e then (if d.stageWants.contains id then d.stagePage id slot q lane e im else d.dropXfer (.stage id)) else
    match old with
    | none => d.dropXfer (.stage id)
    | some (slot, q, lane, p) => d.stageOld id slot q lane p im
  | none, none, some (slot, q, lane, p) => d.stageOld id slot q lane p im
  | none, none, none => d.dropXfer (.stage id)

/-! ### OPEN (R183) -/

/-- OPEN: the first OPEN of the queue that need not wait; a reserved operation is refused here too. -/
def openGo (w : Work) (d : Dev) : Option Dev :=
  let x := w.desc
  let part := wf x 12 4
  if d.rqpAway w.src w.rqp then none else
  if !d.rqpOk w.src false w.rqp w.ten part then some (d.noAnswer w.src) else
  let g := openGeom x
  let kib := match g with
    | none => 0
    | some g => scRpages x * g.lanes * (fKib g.fcls + 1)
  let cs := cond d.trn.fenced .fenced ++ cond (!d.keyOk w.ten w.keygen || !d.admitted w.ten part) .keyRevoked ++
    cond (!scOk x || scOp x ≠ 0 || !w.extra.isEmpty || g.isNone) .shape ++
    cond (decide ((d.tenant w.ten).quota < d.usage w.ten + kib) || decide ((d.tenant w.ten).quota = 0)) .quota ++
    cond d.ownSlot.isNone .refusedCapacity
  let refuse (st : St) : Dev := (Dev.editCount d (d.countRefusal st) w none 0 st).refuse w.src w.rqp w.roff w.tag w.ten 2 (stCode st) 0
    [(0, scRecord x st 0)]
  match firstCond false cs, g, d.ownSlot with
  | some (st, _), _, _ => some (refuse st)
  | none, some g, some slot =>
    if !d.blkRoom (ldBlocks 4 (cdiv g.lanes 16)) then some (refuse .refusedCapacity) else
    if d.t1Open < kib then (if d.eligible then none else some (refuse .refusedCapacity)) else
    let sgen := mgetD d.pgm.sgens slot 0
    let h := mkHandle slot d.pwr.node sgen
    let d := d.openSlot slot w.ten part sgen h g (scRpages x * g.lanes)
    some (d.answer w.src w.rqp w.roff w.tag w.ten 2 0 0 [(0, scRecord x .ok h)])
  | _, _, _ => some d

/-- The queue's OPENs in order: the first that goes. -/
def openTry (d : Dev) (before : List Work) : List Work → Dev
  | [] => d
  | w :: r =>
    if w.op ≠ 5 then openTry d (before ++ [w]) r else
    match openGo w { d with pgm := { d.pgm with queue := before ++ r } } with
    | some d' => d'
    | none => openTry d (before ++ [w]) r

/-- OPEN: contexts that OPENs of the queue answer on are fetched (R266), and the first that need not wait goes. -/
def openStep (d : Dev) : Dev :=
  openTry (d.pgm.queue.foldl (fun d w => if w.op = 5 && d.rqpAway w.src w.rqp then d.rqpFetch w.rqp else d) d) [] d.pgm.queue

/-! ### TNOW (R172, R173) -/

/-- TNOW_ADVANCE: after 2^STAMP_SHIFT touches, below the largest value. -/
def tnowStep (d : Dev) : Dev :=
  let n := 2 ^ d.reg (rk 0x00800018 0)
  if d.plc.touches < n ∨ d.plc.tnow = 0xFFFFFFFF then d else
  { d with plc := { d.plc with touches := d.plc.touches - n, tnow := d.plc.tnow + 1 } }

/-- TNOW_REBASE: TNOW would pass its largest value. -/
def tnowRebaseStep (d : Dev) : Dev :=
  let n := 2 ^ d.reg (rk 0x00800018 0)
  if d.plc.touches < n ∨ d.plc.tnow ≠ 0xFFFFFFFF then d else
  { d with plc := { d.plc with touches := d.plc.touches - n, tnow := 0x80000000, runs := d.plc.runs.map (fun r => { r with stamp := r.stamp - 0x80000000 }) } }

end Sys2Proof.Machine
end

