-- ==== Sys2Proof/Machine/Place.lean ====
section
/-! DEFINITION. Placement messages (R191 to R202): the home transfer at both ends, lodging, the claim rule, orphans, and the
mirror. -/

namespace Sys2Proof.Machine

/-! ### Messages of the queue -/

/-- The code of a home state (Table 7.6). -/
def hCode : HState → Nat
  | .home => 0 | .offered => 1 | .pending => 2 | .relinquished => 3 | .orphaned => 4 | .shadow => 5

/-- The first message of a kind that no earlier message about the same sequence precedes; a reserved kind goes with OFFER. -/
def Dev.takePlace (d : Dev) (kind : Nat) : Option (Work × Dev) :=
  let is (w : Work) : Bool := decide (pbKind w.body = kind ∨ (kind = 0 ∧ 9 < pbKind w.body))
  let rec go (seen : List (Nat × Nat)) : List Work → Option Work
    | [] => none
    | w :: r =>
      let k := ((pbRun w.body).ten, (pbRun w.body).seq)
      if is w && !seen.contains k then some w else go (k :: seen) r
  (go [] d.plc.queue).map (fun w => (w, { d with plc := { d.plc with queue := dropFirst (fun x => decide (x = w)) d.plc.queue } }))

/-- Whether a body has a reserved bit or encoding set, or the message lacks or exceeds what its KIND names (R191). -/
def placeBad (w : Work) : Bool :=
  let b := w.body
  let k := pbKind b
  let image := decide (k = 0 ∨ k = 9)
  decide (9 < k ∨ fld b 187 1 ≠ 0 ∨ fld b 232 24 ≠ 0) || (!image && decide (b / 2 ^ 188 ≠ 0)) ||
  (decide (k ≠ 4) && decide (pbState b ≠ 0)) || (decide (k = 4) && decide (pbState b = 6)) ||
  (decide (k ≠ 5 ∧ k ≠ 8) && decide (pbStatus b ≠ 0)) || decide (11 < pbStatus b) ||
  (image && decide (pbHeld b = 0 ∨ 16 < pbHeld b ∨ pbHeld b ≤ pbFirst b)) ||
  (decide (k ≠ 0 ∧ k ≠ 7 ∧ k ≠ 9) && !w.extra.isEmpty)

/-- DECLINE with a status; it states the epoch of the message. -/
def Dev.declined (d : Dev) (w : Work) (st : St) : Dev := d.reply w 5 (pbEpoch w.body) (stCode st) 0

/-- A message that is discarded and counted (R191). -/
def Dev.protocol (d : Dev) : Dev := d.bump (rk 0x00E00058 0) 32 1

/-- A row for messages that are answered: fence, key generation and form first, in the order of R14 (R191, R193, R194). `no`: what a refusal does. -/
def placeRowWith (kind : Nat) (no : Work → St → Dev → Dev) (f : Work → Dev → Option Dev) (d : Dev) : Dev :=
  match d.takePlace kind with
  | none => d
  | some (w, d') =>
    let b := w.body
    if d'.trn.fenced then no w .fenced d' else
    if [0, 2, 7, 9].contains (pbKind b) && !d'.keyOk (pbRun b).ten (pbKeygen b) then no w .keyRevoked d' else
    if placeBad w then no w .shape d' else (f w d').getD d

/-- A row whose refusals are DECLINEs. -/
def placeRow (kind : Nat) (f : Work → Dev → Option Dev) (d : Dev) : Dev := placeRowWith kind (fun w st d => d.declined w st) f d

/-- A row for DECLINE, CLAIMED and MIRROR_ACK, which are never answered (R191). -/
def silentRow (kind : Nat) (f : Work → Dev → Option Dev) (d : Dev) : Dev :=
  match d.takePlace kind with
  | none => d
  | some (w, d') => if d'.trn.fenced || placeBad w then d'.protocol else (f w d').getD d'.protocol

/-! ### Records (R171, R190, R197, R245) -/

/-- A record becomes ORPHANED: counted, recorded and journalled (R197). -/
def Dev.orphanEvent (d : Dev) (id : RunId) (epoch peer : Nat) : Dev :=
  (d.bump (rk 0x00800048 0) 32 1).placeEvent { type := 2, epoch := epoch, peer := peer } 1 id peer

/-- Gives a page-run's record a state, an epoch and a peer, with what the directory then holds (R245). -/
def Dev.setHome (d : Dev) (id : RunId) (hs : HState) (epoch peer : Nat) : Dev :=
  let was := (d.run id).map Run.hstate
  let d := d.modRun id (fun r => { r with hstate := hs, epoch := epoch, peer := peer })
  match hs with
  | .relinquished => d.dirWrite id peer epoch
  | .orphaned => if was = some .orphaned then d else (d.dirDrop id).orphanEvent id epoch peer
  | .home => d.dirDrop id
  | _ => d

/-- A new or replaced record. -/
def Dev.putRun (d : Dev) (r : Run) : Dev :=
  { d with plc := { d.plc with runs := d.plc.runs.filter (fun x => decide (x.id ≠ r.id)) ++ [r] } }

/-- Removes a record with its T3 image. -/
def Dev.dropRun (d : Dev) (id : RunId) : Dev :=
  let d := d.freeT3 id
  { d with plc := { d.plc with runs := d.plc.runs.filter (fun r => decide (r.id ≠ id)) } }

/-- Frees the copy that a record holds (R196, R197, R200); its granule is retired when the array failed there (R207). -/
def Dev.freeCopy (d : Dev) (id : RunId) : Dev :=
  match (d.run id).bind Run.copy with
  | none => d
  | some c =>
    let d := match c.ent.loc with
      | .t1 s k f => let d := d.dropFrame c.ent.loc
                     if c.ent.failed ∧ c.ent.fcause = 1 then { d with plc := { d.plc with retGran := d.plc.retGran ++ [granule s k f] } } else d
      | _ => d
    (d.freeT3 id).modRun id (fun r => { r with copy := none })

/-- A copy ends with its record; at the ledger node of a page-run that is away, the RELINQUISHED record that the PENDING one replaced stands
again (R171, R192). -/
def Dev.endCopy (d : Dev) (id : RunId) : Dev := match (d.run id).bind Run.was with
  | none => (d.freeCopy id).dropRun id
  | some (e, p) => (d.freeCopy id).modRun id (fun r => { r with hstate := .relinquished, epoch := e, peer := p, was := none })

/-! ### Ledgers of the destination (R195) -/

/-- A lodging slot with nothing held and no copy waiting for it becomes free; its SGEN is not advanced (R195). -/
def Dev.lodgeEnd (d : Dev) (slot : Nat) : Dev :=
  match mget d.pgm.seqs slot with
  | none => d
  | some q =>
    let held := q.lanes.any (fun l => (q.now l.1).pages.any (fun p => match p.2.loc with
      | .away _ => false
      | _ => true))
    let waits := d.plc.runs.any (fun r => decide (r.id.seq = q.origin ∧ r.id.ten = q.ten) && r.copy.isSome)
    if !d.lodging slot || held || waits || !q.edits.isEmpty then d else
    -- the identities that this ledger named leave it (R245)
    let d := (q.lanes.flatMap (fun l => (q.now l.1).pages.map (fun p => q.idOf l.1 p.1))).foldl Dev.dirDrop d
    (d.modSeq slot (fun q => { q with closing := true, retired := q.retired ++ [{ emptyRetired with
      ver := q.lver + 1, blocks := q.lanes.flatMap (fun l => (q.now l.1).blocks.map Prod.snd) }] })).reap slot

/-- The ledger in which the node would publish an offered page-run: its own, or a lodged one, opened where none is; none where the geometry differs, or
another sequence has the slot (R193; log entry 158, DESIGN CHOICE). -/
def Dev.lodge (d : Dev) (id : RunId) (part : Nat) (g : Geom) : Option Dev :=
  match d.ledgerOf id with
  | some (_, q) => if q.geo = g ∧ q.part = part then some d else none
  | none =>
    let slot := hSlot id.seq
    if hNode id.seq = d.pwr.node ∨ !d.lodging slot ∨ (mget d.pgm.seqs slot).isSome ∨ !d.blkRoom (ldBlocks 4 (cdiv g.lanes 16)) then none
    else some (d.openSlot slot id.ten part (hGen id.seq) id.seq g 0)

/-- KiB that lodged page-runs take (PLC_T1_RESV.LODGED_KIB): pages of lodged ledgers and copies waiting for one. Log entry 109, DEDUCED. -/
def Dev.lodgedKib (d : Dev) : Nat :=
  sumN ((d.pgm.seqs.filter (fun q => d.lodging q.1)).map (fun q => sumN (q.2.lanes.map (fun l =>
    sumN ((q.2.now l.1).pages.map (fun p => if p.2.loc.isT1 then fKib q.2.geo.fcls + 1 else 0)))))) +
  sumN (d.plc.runs.map (fun r => match r.copy with
    | none => 0
    | some c => if decide (r.hstate ≠ .shadow) && c.ent.loc.isT1 && decide (hNode r.id.seq ≠ d.pwr.node) then fKib c.geo.fcls + 1 else 0))

/-- Publishes the copy of a record in the node's ledger (Table 7.8 step 4, R198): none while an edit runs there, slots are not
free, or the ledger region is full. -/
def Dev.publishCopy (d : Dev) (id : RunId) : Option Dev :=
  match (d.run id).bind Run.copy, d.ledgerOf id with
  | some c, some (slot, q) =>
    if d.editBusy slot then none else
    let lane := q.geo.lane id.layer id.hgrp
    let s := q.now lane
    match Dev.newLane q lane (max s.endp (16 * id.page + c.held)) (mset s.pages id.page c.ent) [id.page] emptyPrep d with
    | .error _ => none
    | .ok (p, d) =>
      if !slotsFree q p.lanes then none else
      some (((d.putLanes slot p.lanes p.retire).lastWend slot lane id.page (16 * id.page + c.held)).modRun id (fun r => { r with copy := none, was := none }) |>.reap slot)
  | _, _ => none

/-- A page's entry made away with a hint, or taken out of the ledger; its data is freed after pins (Table 7.9, R208). -/
def Dev.entryAway (d : Dev) (id : RunId) (hint : Option Nat) (run : Bool) : Option Dev :=
  match d.pageOf id with
  | none => some d
  | some (slot, q, lane, e) =>
    if d.editBusy slot then none else
    let s := q.now lane
    let pages := match hint with
      | some n => mset s.pages id.page { e with loc := .away n, ver := 0, sblk := 0, failed := false, fcause := 0 }
      | none => mdel s.pages id.page
    match Dev.newLane q lane s.endp pages [id.page] { emptyPrep with retire := emptyRetired.unref e } d with
    | .error _ => none
    | .ok (p, d) =>
      if !slotsFree q p.lanes then none else
      let r := { p.retire with runs := if run then [id] else [] }
      let d := { d with pgm := { d.pgm with shares := r.shares.foldl (fun m i => mmod m i (fun s => { s with refs := s.refs - 1 })) d.pgm.shares } }
      some (((d.putLanes slot p.lanes r).leaveT3 slot id).reap slot)

/-! ### OFFER, ACCEPT, COMMIT, CLAIMED (R192 to R194) -/

/-- The refusals of R193. -/
def Dev.offerConds (d : Dev) (b : Nat) : List (St × Nat) :=
  let id := pbRun b
  let g := pbGeom b
  let kib := fKib g.fcls + 1
  cond (!d.admitted id.ten (pbPart b)) .keyRevoked ++
  cond (!shapeOk g.shape || !fmtOk g.shape g.kvfmt || decide (frameClass g.shape g.kvfmt g.heads ≠ some g.fcls) ||
    decide (g.nlm1 < id.layer ∨ g.nhg ≤ id.hgrp)) .shape ++
  cond (decide ((d.tenant id.ten).quota < d.usage id.ten + kib)) .quota ++
  cond (decide (d.t1Open < kib) || (decide (hNode id.seq ≠ d.pwr.node ∧ d.reg (rk 0x00800020 0) * 2 ^ 20 < d.lodgedKib + kib)) ||
    (d.lodge id (pbPart b) g).isNone || (d.pickDie g.fcls 128 (copyDie id g)).isNone) .refusedCapacity ++
  (match d.run id with
   | none => []
   | some r => cond (!decide (r.hstate = .relinquished ∧ r.epoch ≤ pbEpoch b)) .notHome)

/-- A copy written from an image: rows with checks and seals as an APPEND would write them (Table 7.8 step 2). -/
def Dev.writeCopy (d : Dev) (b : Nat) (extra : Bytes) : Except (St × Dev) (Copy × List ((Nat × Nat) × Bytes) × Dev) :=
  let id := pbRun b
  let g := pbGeom b
  match d.takeImage b extra with
  | .error x => .error x
  | .ok (rows, ks, vs, d) =>
    match d.allocT1 id.ten g.fcls (copyDie id g) with
    | none => .error (.refusedCapacity, d)
    | some (f, d) => .ok (⟨g, frameEnt f (pbFirst b) ks vs, pbHeld b⟩, rows, d.writeRowsAt g id f.loc f.ver rows)

/-! ### The claim rule (R196) -/

/-- Table 7.9 at X against Y: X's new state and epoch; Y's state is a code, 7 for no record. -/
def claimRule (x : HState) (ex y ey : Nat) : HState × Nat :=
  let xc := decide (x = .home ∨ x = .offered)
  let yc := decide (y < 2)
  if xc && yc then (if ex < ey then (.relinquished, ey) else if ey < ex then (x, ex) else (.orphaned, ex)) else
  if xc then (.home, ex) else
  if yc then (.relinquished, ey) else
  if x = .pending ∨ x = .relinquished ∨ y = 2 ∨ y = 3 then (.orphaned, ex) else (x, ex)

/-- The move edit that offers a page-run, ended. -/
def Dev.endOffer (d : Dev) (id : RunId) : Dev :=
  match d.pageOf id with
  | none => d
  | some (slot, q, _, _) => match q.edits with
    | e :: _ => if e.move.map (·.2.1) = some id then ((match e.prep with
        | none => d
        | some p => d.undoPrep slot p).setEdits slot []).dropPin slot e |>.reap slot else d
    | [] => d

/-- The claim rule applied here against node y, with its effects; none while an edit of the sequence stands in the way. -/
def Dev.applyClaim (d : Dev) (id : RunId) (ys ye y : Nat) : Option Dev :=
  match d.run id with
  | none => some d
  | some r =>
    let (hs, e) := claimRule r.hstate r.epoch ys ye
    if hs = r.hstate ∧ e = r.epoch then some (if hs = .relinquished then d.setHome id hs e y else d) else
    let d := if r.hstate = .offered then d.endOffer id else d
    match hs with
    | .relinquished =>
      match r.copy with
      | some _ => some (((d.freeCopy id).setHome id hs e y).lodgeEnd (hSlot id.seq))
      | none => if r.hstate = .relinquished then some (d.setHome id hs e y) else (d.entryAway id (some y) false).map (fun d => d.setHome id hs e y)
    | _ => some (d.setHome id hs e r.peer)

/-- A CLAIM sent to a node, with what its answer will do. -/
def Dev.sendClaim (d : Dev) (id : RunId) (peer_ : Nat) (apply : Bool) : Dev :=
  let (s, e) := match d.run id with
    | none => (7, 0)
    | some r => (hCode r.hstate, r.epoch)
  let cs := d.plc.claims.filter (fun c => decide (c.id ≠ id ∨ c.peer ≠ peer_))
  { d.placeTo peer_ 4 id e 0 s with plc := { (d.placeTo peer_ 4 id e 0 s).plc with claims := cs ++ [⟨id, e, peer_, apply⟩] } }

/-- OFFER at the destination: declined by R193, or a PENDING copy and ACCEPT, after the mirror holds its shadow. -/
def offerGo (w : Work) (d : Dev) : Option Dev :=
  let b := w.body
  let id := pbRun b
  match firstCond false (d.offerConds b) with
  | some (st, _) =>
    let d' := d.declined w st
    match d.run id with
    | some r => if r.hstate = .home ∨ r.hstate = .offered then (d'.sendClaim id (pbFrom b) false).applyClaim id 1 (pbEpoch b) (pbFrom b) else some d'
    | none => some d'
  | none =>
    match d.lodge id (pbPart b) (pbGeom b) with
    | none => some (d.declined w .refusedCapacity)
    | some d1 =>
      match d1.writeCopy b w.extra with
      | .error (st, d) => some ((d.lodgeEnd (hSlot id.seq)).declined w st)
      | .ok (c, rows, d) =>
        let old := d.run id
        let d := d.putRun { freshRun id .pending (pbFrom b) (pbEpoch b) ((old.map Run.count).getD 0) ((old.map Run.stamp).getD d.plc.tnow) (some c) with
          was := old.map (fun r => (r.epoch, r.peer)) }
        match (d.tenant id.ten).mirror with
        | some m => some { d.sendImage m 9 id (pbEpoch b) c.geo c.ent c.held rows with
            plc := { (d.sendImage m 9 id (pbEpoch b) c.geo c.ent c.held rows).plc with owed := d.plc.owed ++ [(id, m, true)] } }
        | none => some (d.reply w 1 (pbEpoch b) 0 0)

/-- Whether a stroke against a frame is queued or running (R25, R93). -/
def Dev.strokesOn (d : Dev) (loc : Loc) : Bool := d.bnk.banks.any (fun b => b.2.strokes.any (fun s => decide (s.loc = loc)) || (match b.2.held with
  | some (.stroke s) => decide (s.loc = loc)
  | _ => false))

/-- The move that an ACCEPT answers: its slot, sequence, lane, page entry and edit. -/
def Dev.acceptMove (d : Dev) (b : Nat) : Option (Nat × Seq × Nat × PageEnt × Edit) :=
  let id := pbRun b
  match d.pageOf id, d.run id with
  | some (slot, q, lane, e), some r =>
    match q.edits with
    | ed :: _ =>
      if ed.phase = .offer ∧ ed.move.map (·.2.1) = some id ∧ r.hstate = .offered ∧ r.epoch = pbEpoch b ∧ r.peer = pbFrom b then some (slot, q, lane, e, ed)
      else none
    | [] => none
  | _, _ => none

/-- ACCEPT at the source: the page goes away by a version of the ledger, and COMMIT follows its publish (Table 7.8 step 3). -/
def acceptGo (w : Work) (d : Dev) : Option Dev :=
  let b := w.body
  let id := pbRun b
  (d.acceptMove b).map (fun (slot, q, lane, e, ed) =>
    let m := (ed.move.map Prod.fst).getD .lend
    let pos := ((List.range 8).find? (fun i => decide (d.tray i = pbFrom b))).getD d.plc.lastPeer
    let d := if m = .lend then { d with plc := { d.plc with lastPeer := pos, declined := d.plc.declined.filter (fun x => decide (x.1 ≠ id)) } } else d
    d.swapEntry slot q lane m id (pbFrom b) (some { e with loc := .away (pbFrom b), ver := 0, sblk := 0 }) ed.pin
      { emptyPrep with retire := emptyRetired.unref e })

/-- The row of ACCEPT. The relinquish takes effect at the stack when every stroke dispatched against the page-run has ended: until then the message
stays in the queue (R25, R93; log entry 132, DEDUCED). One that matches no move is discarded and counted (log entry 157, DESIGN CHOICE). -/
def acceptStep (d : Dev) : Dev :=
  let waits := match d.takePlace 1 with
    | none => false
    | some (w, _) => match d.acceptMove w.body with
      | none => false
      | some (_, _, _, e, _) => !d.trn.fenced && !placeBad w && d.strokesOn e.loc
  if waits then d else placeRow 1 (fun w d => some ((acceptGo w d).getD d.protocol)) d

/-- COMMIT at the destination (Table 7.8 step 4, R192). -/
def commitGo (w : Work) (d : Dev) : Option Dev :=
  let b := w.body
  let id := pbRun b
  match d.run id with
  | none => some (d.declined w .orphaned)
  | some r =>
    if r.hstate ≠ .pending ∨ r.epoch + 1 ≠ pbEpoch b ∨ r.copy.isNone then some (d.declined w .orphaned) else
    (d.publishCopy id).map (fun d => (d.setHome id .home (pbEpoch b) (pbFrom b)).reply w 3 (pbEpoch b) 0 0)

/-- CLAIMED at the source ends its wait (R192). -/
def claimedGo (w : Work) (d : Dev) : Option Dev :=
  let k := (pbRun w.body, pbEpoch w.body, pbFrom w.body)
  if d.plc.commits.contains k then some { d with plc := { d.plc with commits := d.plc.commits.filter (· ≠ k) } } else none

/-! ### Answers to a CLAIM, and RECONCILE -/

/-- A RECONCILE that waits for a page-run's answer from a node goes on; it completes with the last (R208). -/
def Dev.reconciled (d : Dev) (id : RunId) (peer : Nat) : Dev :=
  let step (w : MWait) : MWait := match w with
    | .reconcile p l => if p = peer then .reconcile p (l.filter (· ≠ id)) else w
    | _ => w
  let ws := d.pwr.waits.map step
  let done := ws.filter (· = MWait.reconcile peer [])
  let d := { d with pwr := { d.pwr with waits := ws.filter (· ≠ MWait.reconcile peer []) } }
  done.foldl (fun d _ => d.mgmtDone 0x0203 0 []) d

/-- CLAIM: the answer to one of this node's, or answered with the record as it stands and then applied (R196). -/
def claimGo (w : Work) (d : Dev) : Option Dev :=
  let b := w.body
  let id := pbRun b
  match d.plc.claims.find? (fun c => decide (c.id = id ∧ c.peer = pbFrom b)) with
  | some c =>
    let d := { d with plc := { d.plc with claims := d.plc.claims.filter (· ≠ c) } }
    (if c.apply then d.applyClaim id (pbState b) (pbEpoch b) (pbFrom b) else some d).map (fun d => d.reconciled id (pbFrom b))
  | none =>
    let (s, e) := match d.run id with
      | none => (7, 0)
      | some r => (hCode r.hstate, r.epoch)
    (d.reply w 4 e 0 s).applyClaim id (pbState b) (pbEpoch b) (pbFrom b)

/-! ### The home's side of a mirror (R199, R201, R202) -/

/-- A tenant's slot changed. -/
def Dev.modTenant (d : Dev) (t : Nat) (f : Tenant → Tenant) : Dev := { d with sec := { d.sec with tenants := mmod d.sec.tenants t f } }

/-- A mirror's fill ends when every SHADOW is acknowledged: SET_MIRROR completes (R199). -/
def Dev.fillDone (d : Dev) (t : Nat) : Dev :=
  if (d.tenant t).mirstate ≠ 1 ∨ d.plc.owed.any (fun o => decide (o.1.ten = t) && !o.2.2) ∨ d.plc.fillRuns.any (fun r => decide (r.ten = t)) ∨
    d.plc.fillSeqs.any (fun s => decide ((mget d.pgm.seqs s).map Seq.ten = some t)) then d else
  let d := d.modTenant t (fun x => { x with mirstate := 2 })
  if d.pwr.waits.contains (MWait.setMirror t) then
    ({ d with pwr := { d.pwr with waits := d.pwr.waits.filter (· ≠ MWait.setMirror t) } }).mgmtDone 0x0202 0 []
  else d

/-- The fill of a tenant's mirror is given up: nothing more is owed to it. -/
def Dev.noFill (d : Dev) (t : Nat) : Dev := { d with plc := { d.plc with
  owed := d.plc.owed.filter (fun o => decide (o.1.ten ≠ t) || o.2.2)
  fillSeqs := d.plc.fillSeqs.filter (fun s => decide ((mget d.pgm.seqs s).map Seq.ten ≠ some t))
  fillRuns := d.plc.fillRuns.filter (fun r => decide (r.ten ≠ t)) } }

/-- The answer to a SHADOW: in a transfer ACCEPT or DECLINE goes to the source; in a fill it counts, and a refusal ends the fill with
its status and no mirror (log entry 35, DEDUCED). -/
def Dev.shadowAnswer (d : Dev) (id : RunId) (from_ : Nat) (st : Nat) : Option Dev :=
  match d.plc.owed.find? (fun o => decide (o.1 = id ∧ o.2.1 = from_)) with
  | none => none
  | some (_, _, accept) =>
    let d := { d with plc := { d.plc with owed := d.plc.owed.filter (fun o => !decide (o.1 = id ∧ o.2.1 = from_)) } }
    if accept then
      match d.run id with
      | none => some d
      | some r =>
        if st = 0 then some (d.placeTo r.peer 1 id r.epoch 0 0)
        else some (((d.endCopy id).lodgeEnd (hSlot id.seq)).placeTo r.peer 5 id r.epoch st 0)
    else if st = 0 then some (d.fillDone id.ten) else
      let d := d.noFill id.ten
      let d := d.modTenant id.ten (fun x => { x with mirror := none, mirstate := 0 })
      if d.pwr.waits.contains (MWait.setMirror id.ten) then
        some (({ d with pwr := { d.pwr with waits := d.pwr.waits.filter (· ≠ MWait.setMirror id.ten) } }).mgmtDone 0x0202 st [])
      else some d

/-- The answer to a MIRROR_EDIT: the edit continues from step 6, or ends with the status (R201). -/
def Dev.editAck (d : Dev) (id : RunId) (from_ st : Nat) : Option Dev :=
  match d.ledgerOf id with
  | none => none
  | some (slot, q) => match q.edits with
    | e :: _ =>
      if e.phase ≠ .mirror ∨ (d.tenant q.ten).mirror ≠ some from_ then none else
      if st ≠ 0 then some (Dev.endEdit d d slot e (stOf st) 0) else e.prep.map (fun p => d.tryPublish slot e p)
    | [] => none

/-- MIRROR_ACK. -/
def mirrorAckGo (w : Work) (d : Dev) : Option Dev :=
  let b := w.body
  match d.shadowAnswer (pbRun b) (pbFrom b) (pbStatus b) with
  | some d => some d
  | none => d.editAck (pbRun b) (pbFrom b) (pbStatus b)

/-- DECLINE (R192, R196, R201, R204): of an OFFER, of a COMMIT, of a CLAIM, of a MIRROR_EDIT or SHADOW, or of a fill. -/
def declineGo (endFill : Nat → St → Dev → Dev) (w : Work) (d : Dev) : Option Dev :=
  let b := w.body
  let id := pbRun b
  let fr := pbFrom b
  match d.plc.claims.find? (fun c => decide (c.id = id ∧ c.peer = fr ∧ c.epoch = pbEpoch b)) with
  | some c => some (({ d with plc := { d.plc with claims := d.plc.claims.filter (· ≠ c) } }).reconciled id fr)
  | none =>
    let offer := match d.run id with
      | none => false
      | some r => decide (r.hstate = HState.offered ∧ r.epoch = pbEpoch b ∧ r.peer = fr)
    if offer then
      let pos := (List.range 8).find? (fun i => decide (d.tray i = fr))
      let d := (d.endOffer id).modRun id (fun r => { r with hstate := .home })
      some (match pos with
        | none => d
        | some i => { d with plc := { d.plc with declined := d.plc.declined ++ [(id, i)] } })
    else if d.plc.commits.contains (id, pbEpoch b, fr) then
      let d := { d with plc := { d.plc with commits := d.plc.commits.filter (· ≠ (id, pbEpoch b, fr)) } }
      some (match d.run id with
        | some r => if r.hstate = HState.relinquished then d.setHome id .orphaned r.epoch r.peer else d
        | none => d)
    else match d.shadowAnswer id fr (pbStatus b) with
      | some d => some d
      | none => match d.editAck id fr (pbStatus b) with
        | some d => some d
        | none => if d.pwr.waits.any (fun x => match x with
            | .fillSpare f => decide (f.ten = id.ten ∧ f.mirror = fr)
            | _ => false) then some (endFill id.ten (if pbStatus b = 1 then .notHome else .mirrorLost) d) else none

/-! ### RELEASE (R186, R195, R197) -/

/-- RELEASE: the copy, shadow or lodged page of the page-run is freed; in the node's own ledger its entry goes away. -/
def releaseGo (w : Work) (d : Dev) : Option Dev :=
  let id := pbRun w.body
  match d.run id with
  | none => some d
  | some r =>
    match r.copy with
    | some _ => some ((d.endCopy id).lodgeEnd (hSlot id.seq))
    | none => match d.pageOf id with
      | none => some (d.dropRun id)
      | some (slot, _, _, _) =>
        let d := if r.hstate = .offered then d.endOffer id else d
        if d.lodging slot then (d.entryAway id none true).map (fun d => (d.dirDrop id).lodgeEnd slot)
        else (d.entryAway id (some (pbFrom w.body)) false).map (fun d => d.setHome id .relinquished r.epoch (pbFrom w.body))

/-! ### The mirror's side (R200, R201) -/

/-- Shadows of one sequence as a sequence whose lanes hold their copies, so that the operations of an edit apply to them. -/
def Dev.shadowSeq (d : Dev) (ten part origin : Nat) (g : Geom) : Seq :=
  let mine := d.plc.runs.filter (fun r => decide (r.id.ten = ten ∧ r.id.seq = origin ∧ r.hstate = .shadow) && r.copy.isSome)
  let lane (l : Nat) : Lane :=
    let ps := (mine.filter (fun r => decide (g.lane r.id.layer r.id.hgrp = l))).filterMap (fun r => r.copy.map (fun c => (r.id, c)))
    let endp := (ps.map (fun x => 16 * x.1.page + x.2.held)).foldl max 0
    let pages := ps.foldl (fun (m : NMap PageEnt) x => mset m x.1.page x.2.ent) []
    -- a row whose tile the frame holds was written (R137)
    let written (e : PageEnt) (t : Nat) : Bool := match d.tile (rowTile g e.loc t 0 0) with
      | some tl => decide (tl.ver = e.ver)
      | none => false
    let wend := match pages.getLast? with
      | none => endp
      | some (i, e) => max endp (16 * i + ((List.range 16).filter (written e)).foldl (fun m t => max m (t + 1)) 0)
    ⟨⟨0, endp, true, pages, []⟩, LSlot.empty, wend⟩
  let ls := (mine.map (fun r => g.lane r.id.layer r.id.hgrp)).eraseDups
  ⟨ten, part, 0, false, 0, g, origin, [], ls.foldl (fun m l => mset m l (lane l)) [], [], [], [], 0, false, 0, false⟩

/-- The shadow of a shard is complete with a message of its home: the home knows it, the message does not say it, and which one it is is a free
value (R203; log entry 34, DESIGN CHOICE). A shard that was empty when its mirror was assigned has it complete from its first forwarded edit. -/
def Dev.whole (d : Dev) (b : Nat) : Dev :=
  let k := ((pbRun b).ten, pbFrom b)
  if !Config.lastShadow b || d.plc.full.contains k then d else { d with plc := { d.plc with full := d.plc.full ++ [k] } }

/-- A message about a sequence comes from another node than the one its shadows name: a spare took the shard over, and the shadow of that shard is
now the content of its mirror (R204; log entry 164, DESIGN CHOICE). -/
def Dev.reseat (d : Dev) (ten seq home : Nat) : Dev :=
  match d.plc.runs.find? (fun r => decide (r.id.ten = ten ∧ r.id.seq = seq ∧ r.hstate = .shadow)) with
  | none => d
  | some r =>
    let f := r.peer
    if f = home then d else
    { d with plc := { d.plc with
        runs := d.plc.runs.map (fun x => if x.id.ten = ten ∧ x.hstate = .shadow ∧ x.peer = f then { x with peer := home } else x)
        full := d.plc.full.map (fun k => if k = (ten, f) then (ten, home) else k) } }

/-- What an edit made of the shadows: new copies and records, and the freed frames. -/
def Dev.shadowsFrom (d : Dev) (q : Seq) (g : Geom) (home : Nat) (epochOf : RunId → Nat) (p : Prep) : Dev :=
  let d := p.lanes.foldl (fun d l =>
    let d := (q.now l.1).pages.foldl (fun d x => if (mget l.2.pages x.1).isSome then d else d.dropRun (q.idOf l.1 x.1)) d
    l.2.pages.foldl (fun d x =>
      let id := q.idOf l.1 x.1
      let c : Copy := ⟨g, x.2, heldHi x.1 l.2.endp - 16 * x.1⟩
      match d.run id with
      | some _ => d.modRun id (fun r => { r with copy := some c, epoch := epochOf id })
      | none => d.putRun (freshRun id .shadow home (epochOf id) 0 d.plc.tnow (some c))) d) d
  let d := p.retire.frames.foldl Dev.dropFrame d
  { d with plc := { d.plc with retGran := d.plc.retGran ++ p.retire.granules.filter (fun g => !d.plc.retGran.contains g) } }

/-- A FORK's shadows: each page of the source up to POS is copied into a frame of its own (log entry 33, DESIGN CHOICE). -/
def Dev.shadowFork (q x : Seq) (pos : Nat) (fs : List ColFault) : List (Nat × Nat × PageEnt) → Prep → Dev → Except EditRes (Prep × Dev)
  | [], p, d => .ok (p, d)
  | (l, i, e) :: r, p, d =>
    if pos ≤ heldLo i e then Dev.shadowFork q x pos fs r p d else
    match Dev.takeFrame (2 ^ 22) q l i p d with
    | .error z => .error z
    | .ok (f, p, d) =>
      match d.copyRows false fs x l i e e.first (min 16 (pos - 16 * i)) with
      | .error z => .error z
      | .ok rows =>
        let d := d.writeRows (2 ^ 22) q l i f.loc f.ver e.kscale e.vscale rows
        let old := (mget p.lanes l).getD ⟨pos, [], [], none⟩
        Dev.shadowFork q x pos fs r { p with lanes := mset p.lanes l { old with pages := mset old.pages i (frameEnt f e.first e.kscale e.vscale) } } d

/-- Whether the descriptor or the head that MIRROR_EDIT carries has a reserved bit or encoding set (R8, R191). -/
def mirrorBad (extra : Bytes) (x : W512) (g : Geom) : Bool :=
  let flags := leAt extra 64 8
  decide (extra.length < 88) || decide (leAt extra 72 8 / 2 ^ 34 ≠ 0 ∨ leAt extra 80 8 / 2 ^ 48 ≠ 0 ∨ flags % 2 ^ 63 / 2 ^ 36 ≠ 0) ||
  !shapeOk g.shape || !fmtOk g.shape g.kvfmt || decide (frameClass g.shape g.kvfmt g.heads ≠ some g.fcls) ||
  (if 2 ^ 63 ≤ flags then !scOk x || decide (scOp x ≠ 1) else !dwOk x)

/-- MIRROR_EDIT at the mirror: the edit applied to the shadows, then MIRROR_ACK. It waits while a shadow that it needs lies in T3. Log entry 53, DEDUCED. A
shadow has no slot here: its frames' dies count from slot 2^22 (R179; log entry 156, DESIGN CHOICE). -/
def mirrorEditGo (w : Work) (d : Dev) : Option Dev :=
  let b := w.body
  let id := pbRun b
  let x := w512 w.extra
  let flags := leAt w.extra 64 8
  let gb := leAt w.extra 72 8
  let g : Geom := ⟨fld gb 0 8, fld gb 8 4, fld gb 12 3, fld gb 15 6, fld gb 21 10, fld gb 31 3⟩
  let endp := flags % 2 ^ 36
  if mirrorBad w.extra x g then some (d.declined w .shape) else
  match d.transitTake id.ten (leBytes 32 b) (w.extra.drop 88) with
  | none => some ((d.transitFail id).declined w .integrity)
  | some rows =>
    let d := d.reseat id.ten id.seq (pbFrom b)
    let q := d.shadowSeq id.ten (pbPart b) id.seq g
    let src := d.shadowSeq id.ten (pbPart b) (leAt w.extra 80 8) g
    let ack (st : St) (d : Dev) : Dev := d.reply w 8 (pbEpoch b) (stCode st) 0
    if 2 ^ 63 ≤ flags then
      let p := (Dev.prepClose q d).1
      some (ack .ok ((d.shadowsFrom q g (pbFrom b) (fun _ => pbEpoch b) p).whole b))
    else
    let needs := d.editNeeds q (some src) x
    -- a FAILED shadow is not copied, and one in T3 is not staged back (R207)
    if needs.any (fun n => n.2.2.1.failed && (n.2.2.2 || isT3Ent n.2.2.1)) then some (ack .integrity d) else
    if needs.any (fun n => match n.2.2.1.loc with
      | .t3 _ => true
      | _ => false) then none else
    let res : Except EditRes (Prep × Dev) := match dwOp x with
      | 0 =>
        let lane := g.lane (dwLayer x) (dwHgrp x)
        let data (tok h : Nat) : Bytes := sliceB rows ((tok * g.heads + h) * g.w) g.w
        let is := (List.range ((dwPos x + dwNM1 x) / 16 - dwPos x / 16 + 1)).map (dwPos x / 16 + ·)
        match Dev.appendPages false (2 ^ 22) q lane (dwPos x) (dwNM1 x + 1) (BitVec.ofNat 32 (dwKscale x)) (BitVec.ofNat 32 (dwVscale x)) [] data is
            (q.now lane).pages emptyPrep d with
        | .error z => Except.error z
        | .ok (pages, p, d) => .ok ({ p with lanes := mset p.lanes lane ⟨endp, pages, [], none⟩ }, d)
      | 1 => (Dev.prepTrim q x (if dwAll x then dwPos x else endp) d).map (fun r => (r.1, r.2.2))
      | 2 => (Dev.prepKeep false (2 ^ 22) q x [] d).map (fun r => (r.1, r.2.2))
      | _ => Dev.shadowFork q src (dwPos x) [] (src.lanes.flatMap (fun l => (src.now l.1).pages.map (fun p => (l.1, p.1, p.2)))) emptyPrep d
    match res with
    | .error (.ends st _) => some (ack st d)
    | .error (.failed _ c a i) => some (ack .integrity (d.editFault 0 (dwTag x) c a i))
    | .error _ => some (ack .integrity d)
    | .ok (p, d) =>
      -- the blocks of a shadow's tree are no ledger blocks
      let d := d.freeBlks p.blocks
      let ep (r : RunId) : Nat := if r = id then pbEpoch b else ((d.run r).map Run.epoch).getD 0
      some (ack .ok ((d.shadowsFrom q g (pbFrom b) ep p).whole b))

/-- Whether a spare's fill takes SHADOWs of a tenant from a node: the tenant's oldest fill runs, later ones wait (R394). -/
def Dev.filling (d : Dev) (ten from_ : Nat) : Bool := (d.pwr.waits.findSome? (fun w => match w with
  | .fillSpare f => if f.ten = ten then some f.mirror else none
  | _ => none)) == some from_

/-- A SHADOW that is refused; a fill that it belongs to ends (R204). -/
def shadowNo (endFill : Nat → St → Dev → Dev) (w : Work) (st : St) (d : Dev) : Dev :=
  let b := w.body
  let d := if st = .quota ∨ st = .refusedCapacity then d.reply w 8 (pbEpoch b) (stCode st) 0 else d.declined w st
  -- a fenced node changes no record (R194)
  if st ≠ .fenced && d.filling (pbRun b).ten (pbFrom b) then endFill (pbRun b).ten .mirrorLost d else d

/-- SHADOW at a mirror or a spare (R200, R204): stored, replacing an older one, and acknowledged. With the last one the shadow of the shard is
complete (R203; log entry 34, DESIGN CHOICE). -/
def shadowGo (endFill : Nat → St → Dev → Dev) (lastShadow : Nat → Dev → Dev) (w : Work) (d : Dev) : Option Dev :=
  let b := w.body
  let id := pbRun b
  let g := pbGeom b
  let kib := fKib g.fcls + 1
  let filling := d.filling id.ten (pbFrom b)
  let old := d.run id
  let had := match old.bind Run.copy with
    | none => 0
    | some c => if c.ent.loc.isT1 then kib else 0
  let cs := cond (!shapeOk g.shape || !fmtOk g.shape g.kvfmt || decide (frameClass g.shape g.kvfmt g.heads ≠ some g.fcls)) .shape ++
    cond (match old with
      | none => false
      | some r => decide (r.hstate ≠ .shadow ∧ r.hstate ≠ .relinquished)) .notHome ++
    cond (decide ((d.tenant id.ten).quota + had < d.usage id.ten + kib)) .quota ++ cond (decide (d.t1Open + had < kib)) .refusedCapacity
  let no (st : St) (d : Dev) : Dev := shadowNo endFill w st d
  match firstCond false cs with
  | some (st, _) => some (no st (d.countRefusal st))
  | none =>
    match d.writeCopy b w.extra with
    | .error (st, d) => some (no st d)
    | .ok (c, _, d) =>
      let d := d.freeCopy id
      let d := (d.reseat id.ten id.seq (pbFrom b)).putRun (freshRun id .shadow (pbFrom b) (pbEpoch b) ((old.map Run.count).getD 0) ((old.map Run.stamp).getD d.plc.tnow) (some c))
      let d := d.reply w 8 (pbEpoch b) 0 0
      if !Config.lastShadow b then some d else
      let d := d.whole b
      some (if filling then lastShadow id.ten d else d)

end Sys2Proof.Machine
end

