-- ==== Sys2Proof/Machine/PlaceCmds.lean ====
section
/-! DEFINITION. Placement commands (Table 7.12), promotion of shadows (R203, R204), and the run-record query (Table 7.19). -/

namespace Sys2Proof.Machine

/-- SET_PLACEMENT (R169, R170). -/
def setPlacementStep (ten quota tiers peers : Nat) (d : Dev) : Dev :=
  if d.ready && !d.active ten then d.mgmtDone 0x0201 (stCode .keyRevoked) [] else
  d.cmd 0x0201 (decide (quota < 2 ^ 32 ∧ tiers < 8 ∧ peers < 256 ∧ fld peers d.myPos 1 = 0)) .shape
    (fun d => d.modTenant ten (fun x => { x with quota := quota, tiers := tiers, peers := peers }))

/-- The page-runs of a tenant's shard in a sequence: HOME or OFFERED here, not FAILED (R199, R207). -/
def Dev.shardOf (d : Dev) (slot : Nat) : List RunId :=
  (d.plc.runs.filter (fun r => decide (r.hstate = .home ∨ r.hstate = .offered))).filterMap (fun r => match d.pageOf r.id with
    | none => none
    | some (s, _, _, e) => if s ≠ slot ∨ (d.resolve e).failed then none else some r.id)

/-- Sends a page-run to a new mirror and notes that its acknowledgement is owed; one in T3 goes once it is staged back (log entry 35,
DEDUCED). A failure of its data abandons the SHADOW (R206); a page-run that is gone or FAILED is sent no more. -/
def Dev.fillOne (d : Dev) (m : Nat) (fs : List ColFault) (id : RunId) : Dev :=
  let rid (d : Dev) : Dev := { d with plc := { d.plc with fillRuns := d.plc.fillRuns.filter (· ≠ id) } }
  match d.pageOf id with
  | none => rid d
  | some (slot, q, lane, e) =>
    let r := d.resolve e
    if r.isAway || r.failed then rid d else
    match r.loc with
    | .t3 _ => d
    | _ => match d.moveRead fs slot q lane id r with
      | .error d => rid d
      | .ok (rows, d) =>
        let d := (rid d).sendImage m 9 id (((d.run id).map Run.epoch).getD 0) q.geo r (heldIn q lane id.page) rows
        { d with plc := { d.plc with owed := d.plc.owed ++ [(id, m, false)] } }

/-- Whether an edit of a sequence has passed step 5 of Table 5.7 and not published: a new mirror's fill pins after it (R199, R202). -/
def Dev.pastMirror (d : Dev) (slot : Nat) : Bool := match d.running slot with
  | none => false
  | some e => e.move.isNone && e.prep.isSome && decide (e.phase ≠ .mirror)

/-- The fills whose last acknowledgement is in end. -/
def Dev.fillsDone (d : Dev) : Dev := (d.sec.tenants.filter (fun t => decide (t.2.mirstate = 1))).foldl (fun d t => d.fillDone t.1) d

/-- The versions of a fill are pinned as soon as no edit stands past its mirror step (R199, R202). -/
def Dev.fillPin (d : Dev) : Dev :=
  let go := d.plc.fillSeqs.filter (fun s => !d.pastMirror s)
  { d with plc := { d.plc with fillSeqs := d.plc.fillSeqs.filter d.pastMirror, fillRuns := d.plc.fillRuns ++ go.flatMap d.shardOf } }

/-- The page-runs of the fills are read and sent while the node holds no fence (R199, R263), with the column faults that the reads meet (R206). -/
def Dev.fillSend (d : Dev) (fs : List ColFault) : Dev :=
  (if d.trn.fenced then d else d.plc.fillRuns.foldl (fun d id => match (d.tenant id.ten).mirror with
    | none => d
    | some m => d.fillOne m fs id) d).fillsDone

/-- A fill goes as far as it can. -/
def Dev.fillGo (d : Dev) (fs : List ColFault) : Dev := d.fillPin.fillSend fs

/-- The edits of a tenant that wait for its mirror continue from step 6 (R202). -/
def Dev.unwaitMirror (d : Dev) (ten : Nat) : Dev :=
  (d.pgm.seqs.filter (fun q => decide (q.2.ten = ten))).foldl (fun d q => match q.2.edits with
    | e :: _ => match e.phase, e.prep with
      | .mirror, some p => d.tryPublish q.1 e p
      | _, _ => d
    | [] => d) d

/-- The fill of a mirror from its first step (R199): sent at once where the command gives the faults of its reads, else at the next slot boundary. -/
def Dev.startFill (d : Dev) (ten : Nat) (fs : Option (List ColFault)) : Dev :=
  let d := d.noFill ten
  let slots := (d.pgm.seqs.filter (fun q => decide (q.2.ten = ten))).map Prod.fst
  let d := { d with plc := { d.plc with fillSeqs := d.plc.fillSeqs ++ slots } }
  match fs with
  | some fs => d.fillGo fs
  | none => d.fillPin.fillsDone

/-- SET_MIRROR (R199, R202). An earlier SET_MIRROR of the tenant that still fills completes with ST_MIRROR_LOST (log entry 35, DEDUCED). -/
def setMirrorStep (ten : Nat) (node : Option Nat) (fs : List ColFault) (d : Dev) : Dev :=
  if !d.ready then d else
  if !d.active ten then d.mgmtDone 0x0202 (stCode .keyRevoked) [] else
  let inTray := match node with
    | none => false
    | some n => (List.range 8).any (fun i => decide (d.tray i = n)) || decide (2 ^ 12 ≤ n)
  if inTray then d.mgmtDone 0x0202 (stCode .shape) [] else
  let d := if d.pwr.waits.contains (MWait.setMirror ten) then
      ({ d with pwr := { d.pwr with waits := d.pwr.waits.filter (· ≠ MWait.setMirror ten) } }).mgmtDone 0x0202 (stCode .mirrorLost) []
    else d
  let d := (d.modTenant ten (fun x => { x with mirror := node, mirstate := 0 })).unwaitMirror ten
  match node with
  | none => (d.noFill ten).mgmtDone 0x0202 0 []
  | some _ =>
    let d := d.modTenant ten (fun x => { x with mirstate := 1 })
    ({ d with pwr := { d.pwr with waits := d.pwr.waits ++ [MWait.setMirror ten] } }).startFill ten (some fs)

/-- RECONCILE (Table 7.12): a CLAIM for each page-run of the range, which wraps past the last page (log entry 160, DESIGN CHOICE). -/
def reconcileStep (id : RunId) (count peer : Nat) (d : Dev) : Dev :=
  if !d.ready then d else
  if d.trn.fenced then d.mgmtDone 0x0203 (stCode .fenced) [] else
  if !d.active id.ten then d.mgmtDone 0x0203 (stCode .keyRevoked) [] else
  if count = 0 ∨ 65536 < count ∨ (d.peerQp peer).isNone then d.mgmtDone 0x0203 (stCode .shape) [] else
  let ids := (List.range count).map (fun i => { id with page := (id.page + i) % 2 ^ 32 })
  let d := ids.foldl (fun d i => d.sendClaim i peer true) d
  { d with pwr := { d.pwr with waits := d.pwr.waits ++ [MWait.reconcile peer ids] } }

/-- Whether the node holds a page-run's data: in a copy, or in a ledger's entry that is not away. -/
def Dev.holdsData (d : Dev) (id : RunId) : Bool :=
  ((d.run id).bind Run.copy).isSome || (match d.pageOf id with
    | none => false
    | some (_, _, _, e) => match e.loc with
      | .away _ => false
      | _ => true)

/-- Whether ADOPT_HOME and DISCARD_PENDING may act on a record: PENDING or ORPHANED, with its data here. -/
def Dev.openCase (d : Dev) (id : RunId) : Bool := (match d.run id with
  | none => false
  | some r => decide (r.hstate = .pending ∨ r.hstate = .orphaned)) && d.holdsData id

/-- ADOPT_HOME's effect (R198), none while an edit stands in its way, or a fence in that of its CLAIM (R263). -/
def Dev.adopt (d : Dev) (id : RunId) (e : Nat) : Option Dev :=
  match d.run id with
  | none => some d
  | some r =>
    if d.trn.fenced ∧ r.peer ≠ d.pwr.node then none else
    let d := match r.copy with
      | none => some d
      | some _ => d.publishCopy id
    d.map (fun d =>
      let d := d.setHome id .home e r.peer
      (if r.peer = d.pwr.node then d else d.sendClaim id r.peer true).mgmtDone 0x0204 0 [])

/-- ADOPT_HOME. -/
def adoptHomeStep (id : RunId) (e : Nat) (d : Dev) : Dev :=
  if !d.ready then d else
  if !d.active id.ten then d.mgmtDone 0x0204 (stCode .keyRevoked) [] else
  let low := match d.run id with
    | none => true
    | some r => decide (e ≤ r.epoch)
  if !d.openCase id || low || decide (2 ^ 32 ≤ e) then d.mgmtDone 0x0204 (stCode .shape) [] else
  match d.adopt id e with
  | some d => d
  | none => { d with pwr := { d.pwr with waits := d.pwr.waits ++ [MWait.adoptHome id e] } }

/-- DISCARD_PENDING's effect (Table 7.12). -/
def Dev.discardRun (d : Dev) (id : RunId) : Option Dev :=
  match d.run id with
  | none => some d
  | some r =>
    let done (d : Dev) : Dev := d.mgmtDone 0x0205 0 []
    match r.copy with
    | some _ => some (done ((if ((d.run id).bind Run.was).isSome then d.endCopy id else (d.endCopy id).dirDrop id).lodgeEnd (hSlot id.seq)))
    | none => match d.pageOf id with
      | none => some (done ((d.dropRun id).dirDrop id))
      | some (slot, _, _, _) =>
        if d.lodging slot then (d.entryAway id none true).map (fun d => done (((d.dropRun id).dirDrop id).lodgeEnd slot))
        else (d.entryAway id (some r.peer) false).map (fun d => done (d.setHome id .relinquished r.epoch r.peer))

/-- DISCARD_PENDING. -/
def discardPendingStep (id : RunId) (d : Dev) : Dev :=
  if !d.ready then d else
  if !d.active id.ten then d.mgmtDone 0x0205 (stCode .keyRevoked) [] else
  if !d.openCase id then d.mgmtDone 0x0205 (stCode .shape) [] else
  match d.discardRun id with
  | some d => d
  | none => { d with pwr := { d.pwr with waits := d.pwr.waits ++ [MWait.discard id] } }

/-! ### Promotion of shadows (R203, R204) -/

/-- The shadows of a tenant that came from a node, as sequences: origin handle and geometry. -/
def Dev.shadowed (d : Dev) (ten from_ : Nat) : List (Nat × Geom) :=
  ((d.plc.runs.filter (fun r => decide (r.id.ten = ten ∧ r.hstate = .shadow ∧ r.peer = from_))).filterMap (fun r =>
    r.copy.map (fun c => (r.id.seq, c.geo)))).eraseDups

/-- Own slots that are free (R168). -/
def Dev.ownFree (d : Dev) : Nat :=
  let own (s : Nat) : Bool := decide (s / 2 ^ 19 = d.myPos)
  2 ^ 19 - (d.pgm.seqs.filter (fun q => own q.1)).length - (d.plc.retSlots.filter own).length

/-- One shadowed sequence opened in an own slot, its shadows HOME(e + 1): the old and the new handle. -/
def Dev.promoteSeq (d : Dev) (ten : Nat) (o : Nat × Geom) : Option (Bytes × Dev) :=
  match d.ownSlot with
  | none => none
  | some slot =>
    if !d.blkRoom (ldBlocks 4 (cdiv o.2.lanes 16)) then none else
    let sgen := mgetD d.pgm.sgens slot 0
    let v := d.shadowSeq ten (d.partOf ten) o.1 o.2
    let d := d.openSlot slot ten (d.partOf ten) sgen o.1 o.2 0
    match mget d.pgm.seqs slot with
    | none => none
    | some q =>
      let r := v.lanes.foldl (fun (x : Option (Prep × Dev)) l => x.bind (fun y =>
        let s := v.now l.1
        match Dev.newLane q l.1 s.endp s.pages (s.pages.map Prod.fst) y.1 y.2 with
        | .ok z => some z
        | .error _ => none)) (some (emptyPrep, d))
      r.map (fun (p, d) =>
        let d := d.putLanes slot p.lanes p.retire
        let d := d.modSeq slot (fun q => { q with lanes := q.lanes.map (fun l => (l.1, { l.2 with wend := v.wend l.1 })) })
        let ids := v.lanes.flatMap (fun l => (v.now l.1).pages.map (fun x => q.idOf l.1 x.1))
        let d := ids.foldl (fun d id => (d.modRun id (fun r => { r with hstate := .home, epoch := r.epoch + 1, copy := none })).dirDrop id) d
        (leBytes 8 o.1 ++ leBytes 8 (mkHandle slot d.pwr.node sgen), d))

/-- Several sequences, with the handle map (R203). -/
def Dev.promoteAll (ten : Nat) : List (Nat × Geom) → Dev → Option (Bytes × Dev)
  | [], d => some ([], d)
  | o :: r, d => match d.promoteSeq ten o with
    | none => none
    | some (b, d) => (Dev.promoteAll ten r d).map (fun x => (b ++ x.1, x.2))

/-- A shadow whose epoch cannot advance (R10, R190): the promotion is refused and the case journalled. Log entry 133, DESIGN CHOICE. -/
def Dev.worn (d : Dev) (ten from_ : Nat) : Option RunId :=
  (d.plc.runs.find? (fun r => decide (r.id.ten = ten ∧ r.hstate = .shadow ∧ r.peer = from_ ∧ r.epoch = 0xFFFFFFFF))).map Run.id

def Dev.wornEvent (d : Dev) (id : RunId) : Dev := d.placeEvent { type := 5, sub := 1, epoch := 0xFFFFFFFF } 4 id 0

/-- The shadow of a shard is no longer here. -/
def Dev.notFull (d : Dev) (ten from_ : Nat) : Dev := { d with plc := { d.plc with full := d.plc.full.filter (· ≠ (ten, from_)) } }

/-- PROMOTE (R203): the shadows that came from F become homes. A shard with no shadow here is not complete (log entry 36, DEDUCED). -/
def promoteStep (ten failed : Nat) (d : Dev) : Dev :=
  if !d.ready then d else
  if !d.active ten then d.mgmtDone 0x0206 (stCode .keyRevoked) [] else
  let os := d.shadowed ten failed
  if os.isEmpty ∨ !d.plc.full.contains (ten, failed) ∨ !d.mgmtRoom 0x0206 (16 * os.length) then d.mgmtDone 0x0206 (stCode .shape) [] else
  match d.worn ten failed with
  | some id => (d.wornEvent id).mgmtDone 0x0206 (stCode .refusedCapacity) []
  | none =>
  if d.ownFree < os.length then d.mgmtDone 0x0206 (stCode .refusedCapacity) [] else
  match Dev.promoteAll ten os d with
  | none => d.mgmtDone 0x0206 (stCode .refusedCapacity) []
  | some (m, d) => ((d.notFull ten failed).modTenant ten (fun x => { x with mirror := none, mirstate := 0 })).mgmtDone 0x0206 0 m

/-- A fill's entry among the waiting commands. -/
def Dev.fillOf (d : Dev) (ten : Nat) : Option Fill := d.pwr.waits.findSome? (fun w => match w with
  | .fillSpare f => if f.ten = ten then some f else none
  | _ => none)

def Dev.dropFill (d : Dev) (f : Fill) : Dev :=
  ({ d with pwr := { d.pwr with waits := dropFirst (fun w => decide (w = MWait.fillSpare f)) d.pwr.waits } }).notFull f.ten f.mirror

/-- A fill ends unfinished: what it built is freed; a lost mirror is journalled (R204). -/
def Dev.endFill (ten : Nat) (st : St) (d : Dev) : Dev :=
  match d.fillOf ten with
  | none => d
  | some f =>
    let ids := (d.plc.runs.filter (fun r => decide (r.id.ten = ten ∧ r.hstate = .shadow ∧ r.peer = f.mirror))).map Run.id
    let d := (ids.foldl (fun d id => (d.freeCopy id).dropRun id) d).dropFill f
    if st ≠ .mirrorLost then d.mgmtDone 0x0207 (stCode st) [] else
    let j : JInfo := { type := 4, tenant := ten, part := d.partOf ten, peer := f.mirror, arg := f.failed }
    d.journal j (.mgmt 0x0207 (stCode st) [] :: (lastEvt 3 ⟨ten, 0, 0, 0, 0⟩ f.mirror).map (fun x => .field x.1 x.2))

/-- The last SHADOW is in: every page-run becomes HOME(e + 1) and M the mirror (R204). Too few own slots or ledger blocks end the fill with
ST_REFUSED_CAPACITY (log entry 159, DESIGN CHOICE). -/
def Dev.finishFill (ten : Nat) (d : Dev) : Dev :=
  match d.fillOf ten with
  | none => d
  | some f =>
    let os := d.shadowed ten f.mirror
    match d.worn ten f.mirror with
    | some id => Dev.endFill ten .refusedCapacity (d.wornEvent id)
    | none =>
    if d.ownFree < os.length then Dev.endFill ten .refusedCapacity d else
    match Dev.promoteAll ten os d with
    | none => Dev.endFill ten .refusedCapacity d
    | some (m, d) => ((d.modTenant ten (fun x => { x with mirror := some f.mirror, mirstate := 2 })).dropFill f).mgmtDone 0x0207 0 m

/-- FILL_SPARE (R204): the fill begins, or waits behind an earlier one of the tenant (R394); the mirror's SHADOWs come as it is asked, by a message no rule gives (log entry 34, DESIGN CHOICE). -/
def fillSpareStep (ten mirror failed : Nat) (d : Dev) : Dev :=
  if !d.ready then d else
  if !d.active ten then d.mgmtDone 0x0207 (stCode .keyRevoked) [] else
  if 2 ^ 12 ≤ mirror ∨ 2 ^ 12 ≤ failed then d.mgmtDone 0x0207 (stCode .shape) [] else
  { d with pwr := { d.pwr with waits := d.pwr.waits ++ [MWait.fillSpare ⟨ten, mirror, failed⟩] } }

/-- CANCEL_FILL. -/
def cancelFillStep (ten : Nat) (d : Dev) : Dev :=
  if d.ready && !d.active ten then d.mgmtDone 0x0208 (stCode .keyRevoked) [] else
  d.cmd 0x0208 (d.fillOf ten).isSome .shape (fun d => Dev.endFill ten .mirrorLost d)

/-! ### Waiting commands, and the query -/

/-- Placement commands that waited for an edit go on when it has ended, and fills pin. Their SHADOWs go at the next slot boundary, whose command gives
the faults that their reads meet (R206; log entry 163, DESIGN CHOICE). -/
def Dev.settlePlace (d : Dev) : Dev :=
  d.pwr.waits.foldl (fun d w =>
    let drop (d : Dev) : Dev := { d with pwr := { d.pwr with waits := d.pwr.waits.filter (· ≠ w) } }
    match w with
    | .adoptHome id e => ((drop d).adopt id e).getD d
    | .discard id => ((drop d).discardRun id).getD d
    | _ => d) (if d.plc.fillSeqs.isEmpty then d else d.fillPin.fillsDone)

/-- TIER, FAILED, FCAUSE and SHARED of a record, from the page entry or the copy. -/
def Dev.runPlace (d : Dev) (r : Run) : Nat :=
  let bits (e : PageEnt) (shared : Bool) : Nat :=
    let tier := match e.loc with
      | .t0 _ => 0
      | .t1 _ _ _ => 1
      | .t3 _ => 3
      | _ => 2
    pack [(0, 2, tier), (5, 1, b2n e.failed), (6, 3, e.fcause), (9, 1, b2n shared)]
  match r.copy with
  | some c => bits c.ent false
  | none => match d.pageOf r.id with
    | some (_, _, _, e) => bits (d.resolve e) e.shareIdx.isSome
    | none => 2

/-- Run record bits [126:0] (Table 7.3); 7 in HSTATE where there is none. -/
def Dev.runBits (d : Dev) (id : RunId) : Nat := match d.run id with
  | none => 7 * 4
  | some r => d.runPlace r + pack [(2, 3, hCode r.hstate), (16, 12, r.peer), (32, 32, r.epoch), (64, 8, r.count), (72, 32, r.stamp)]

/-- PLC_QCMD_GO (Table 7.19). -/
def plcQcmdStep (d : Dev) : Dev :=
  let k0 := d.reg (rk 0x00800200 0) + d.reg (rk 0x00800200 12) * 2 ^ 12
  let id : RunId := ⟨k0 % 2 ^ 12, k0 / 2 ^ 12, d.reg (rk 0x00800208 0), d.reg (rk 0x00800208 10), d.reg (rk 0x00800208 16)⟩
  let b := d.runBits id
  d.setRegs [(rk 0x00800218 0, b % 2 ^ 64), (rk 0x00800220 0, b / 2 ^ 64), (rk 0x00800220 63, 1)]

end Sys2Proof.Machine
end

