-- ==== Sys2Proof/Machine/Host.lean ====
section
/-! DEFINITION. The host interface (chapter 12): functions and their events (R304, R329), SQ entries (R312 to R315), doorbells
(R308), the admin queue (R316), the query aperture (R319), and DMA channels with their bus errors (R321 to R328). -/

namespace Sys2Proof.Machine

/-! ### Functions -/

/-- Whether a function takes BAR2 and BAR4 requests and may make DMA requests: the link is up, start-up has not failed (R390) and TDISP allows it
(R304). -/
def Dev.fnOpen (d : Dev) (f : Nat) : Bool := d.dma.linkup && decide (d.pwr.state ≠ .starting ∧ d.pwr.state ≠ .failed) && decide (f < 17 ∧ d.tdi f ≠ 2 ∧ d.tdi f ≠ 4)

/-- Whether a function takes a BAR2 or BAR4 request: in RUN only one with the T bit; one without is answered Unsupported Request (R304). -/
def Dev.barOpen (d : Dev) (f : Nat) (tbit : Bool) : Bool := d.fnOpen f && (decide (d.tdi f ≠ 3) || tbit)

/-- Whether a function's queues work: enabled, no function event running, the node ready. -/
def Dev.fnLive (d : Dev) (f : Nat) : Bool := d.fnOpen f && d.awake && (d.fn f).enable && !(d.fn f).resetting && !(decide (f ≠ 0) && d.partHeld (f - 1))

def Dev.sqCount (d : Dev) (f : Nat) : Nat := d.reg (rk (0x01000100 + 8 * f) 16)
def Dev.cqCount (d : Dev) (f : Nat) : Nat := d.reg (rk (0x01000100 + 8 * f) 48)

/-- The channel that is local channel c of a function. -/
def Dev.chOf (d : Dev) (f c : Nat) : Option Nat := ((List.range 64).filter (fun x => decide (d.chOwner x = f)))[c]?

/-- A BAR2 or BAR4 write that is discarded (R305, R319). -/
def Dev.badWrite (d : Dev) : Dev := d.bump (rk 0x01000010 48) 16 1

/-! ### Bus errors on node transfers (Table 12.8) -/

/-- A fetch of a QP context failed: the QP enters error with ERRC 12, and its parked packets go (R266). -/
def Dev.fetchFails (d : Dev) (n : Nat) : Dev :=
  match mget d.trn.qps n with
  | none => d
  | some q =>
    let mine := (d.trn.parked.filter (fun p => decide (p.1 = n))).map Prod.snd
    let d := { d with trn := { d.trn with parked := d.trn.parked.filter (fun p => decide (p.1 ≠ n)) } }
    let d := d.dropXfer (.ctx n)
    let q := { q with fetching := false, state := 2, errc := 12 }
    -- the context is cached where there is room for it; else it stays in the host table, in error
    let d := match d.qpFits q with
      | some d => d.setQp n { q with cached := true, reserved := 0 }
      | none => d.noQpRoom.setQp n { q with changed := true }
    ((mine.foldl (fun d p => d.dropPkt 12 p.hdr) d).flushSends n).escapement

/-- The transfer that an idle running channel takes up: the oldest that comes to it from a halted channel, else the oldest of its own class;
transfers due wait for their function and the link (R329). -/
def Dev.nextXfer (d : Dev) (ch : Nat) : Option Xfer :=
  let due := d.dma.xfers.filter (fun x => x.chan.isNone && (match d.xferRead x.what with
    | none => false
    | some r => d.fnOpen r.1))
  match due.find? (fun x => d.redirected ch x.what) with
  | some x => some x
  | none => due.find? (fun x => (d.homesOf x.what).contains ch)

/-- A node channel takes up a transfer when it is idle, and issues its read once staging units are reserved for every byte that the read
returns; until then the channel waits, and what follows waits behind it (R413). -/
def Dev.runChan (d : Dev) (ch : Nat) : Dev :=
  if !d.chRuns ch then d else
  let d := match (if d.chIdle ch then d.nextXfer ch else none) with
    | none => d
    | some x => { d with dma := { d.dma with xfers := updFirst (fun y => decide (y = x)) (fun y => { y with chan := some ch }) d.dma.xfers } }
  match d.dma.xfers.find? (fun x => decide (x.chan = some ch) && !x.issued) with
  | none => d
  | some x => match d.xferRead x.what with
    | none => d
    | some (f, a, n) =>
      let u := match x.what with
        | .ctx _ => 0
        | .stage _ => stageUnits n
      if !d.backRoom u || !d.fnOpen f then d else
      ({ d with dma := { d.dma with xfers := updFirst (fun y => decide (y = x)) (fun y => { y with issued := true, units := u }) d.dma.xfers } }).emit
        (.hostRead f a n (d.tOf f))

/-- Page-runs of T3 whose stage-back some request waits for (R188). -/
def Dev.stagesDue (d : Dev) : List RunId :=
  let t3 (l : Loc) : Bool := match l with
    | .t3 _ => true
    | _ => false
  (d.stageWants.filter (fun id => (match d.pageOf id with
    | none => false
    | some (_, _, _, e) => t3 e.loc) || (d.oldWait id).isSome)).eraseDups ++
  (d.plc.runs.filter (fun r => (match r.copy with
    | none => false
    | some c => t3 c.ent.loc && !c.ent.failed) && d.shadowWanted r.id)).map Run.id

/-- Node transfers come and go with what waits for them, and the node channels go on with theirs, in ascending number. -/
def Dev.nodeDma (d : Dev) : Dev :=
  let due := d.stagesDue
  let keep (x : Xfer) : Bool := match x.what with
    | .ctx _ => true
    | .stage id => x.issued || due.contains id
  let xs := d.dma.xfers.filter keep
  let new := due.filter (fun id => !xs.any (fun x => decide (x.what = .stage id)))
  let d := { d with dma := { d.dma with xfers := xs ++ new.map (fun id => Xfer.mk (.stage id) none false 0) } }
  if d.chipReset then d.flushOut else d.nodeChans.foldl Dev.runChan d.flushOut

/-- The effect of a transfer's failure: a context fetch's (R266), a stage-back's (R189). -/
def Dev.xferFails (d0 d : Dev) : XWhat → Dev
  | .ctx n => d.fetchFails n
  | .stage id => Dev.endStage d0 (d.dropXfer (.stage id)) id .tierError

/-- The transfer that a node channel has issued. -/
def Dev.issuedOn (d : Dev) (ch : Nat) : Option Xfer := d.dma.xfers.find? (fun x => decide (x.chan = some ch) && x.issued)

/-- A transfer in flight ends as a bus error on its channel. -/
def Dev.xferError (d : Dev) (ch cause : Nat) (x : Xfer) : Dev :=
  let a := ((d.xferRead x.what).map (fun r => r.2.1)).getD 0
  Dev.xferFails d (d.nodeHalts ch cause false (BitVec.ofNat 64 a) (d.xferInfo x.what)) x.what

/-- The node transfers of a function that are in flight end as bus errors; those due wait (R329). -/
def Dev.endTransfers (d : Dev) (f cause : Nat) : Dev :=
  (d.dma.xfers.filter (fun x => x.issued && decide ((d.xferRead x.what).map Prod.fst = some f))).foldl (fun d x => match x.chan with
    | none => d
    | some ch => d.xferError ch cause x) d

/-! ### Function events (R329, Table 12.9) -/

/-- The tenant of a read that a channel is running. -/
def Chan.reading (c : Chan) : List Nat := match c.job with
  | none => []
  | some j => if wf j.desc 0 2 = 0 ∧ c.state = 2 then [wf j.desc 32 12] else []

/-- A channel stops: its ring is unbound and its latch cleared; a read in flight is abandoned. -/
def Chan.stop (c : Chan) : Chan := { Chan.reset with abandoned := c.abandoned ++ c.reading }

/-- The function's own channels stop. -/
def Dev.stopChans (d : Dev) (f : Nat) : Dev :=
  { d with dma := { d.dma with chans := mmap d.dma.chans (fun n c => if d.chOwner n = f then c.stop else c) } }

/-- A page-run whose T3 image is gone becomes FAILED with FCAUSE 4, at once or when the edit that runs on its sequence has ended. -/
def Dev.failT3 (d : Dev) (id : RunId) : Dev :=
  let d := d.freeT3 id
  if d.quiet id then d.markFailed id 4 else d.failAfter id 4

/-- A spill area is withdrawn: requests that wait for its images end, and its page-runs become FAILED. -/
def Dev.loseSpill (d : Dev) (f : Nat) : Dev :=
  let lost (i : Img) : Bool := decide (d.partOf i.id.ten + 1 = f)
  let ids := ((d.plc.runs.filterMap Run.image).filter lost).map Img.id
  let old := d.oldImages.filter lost
  let d := d.setFn f { d.fn f with spill := none }
  let d := ids.foldl (fun d id => (if d.stageWants.contains id then Dev.endStage d d id .tierError else d).failT3 id) d
  -- the images of older versions
  let d := old.foldl (fun d i => if d.stageWants.contains i.id then Dev.endStage d d i.id .tierError else d) d
  let d := old.foldl Dev.freeImg d
  { d with pgm := { d.pgm with seqs := mmap d.pgm.seqs (fun _ q =>
      { q with retired := q.retired.map (fun r => { r with images := r.images.filter (fun i => !lost i) }) }) } }

/-- Whether a forwarded request of a function may open a draft or a reader handle at its holder. -/
def Fwd.opens (f : Nat) (w : Fwd) : Bool :=
  decide (plOp w.desc = 0 ∨ plOp w.desc = 2) && (match w.src with
    | .host g _ _ _ => decide (g = f)
    | _ => false)

/-- DRAFT_ABORT to every holder at which a function opened a draft or a reader, or asked to (R226): it follows the request on the
same QP. Nobody waits for such an answer any more. A fenced node sends nothing. -/
def Dev.draftAborts (d : Dev) (f : Nat) : Dev :=
  let go := ((d.shp.abroad.filter (fun a => decide (a.2 = f))).map Prod.fst ++
    (d.shp.fwds.filter (Fwd.opens f)).filterMap (fun w => (mget d.trn.qps w.qpn).map Qp.remote)).eraseDups
  let d := { d with shp := { d.shp with
    abroad := d.shp.abroad.filter (fun a => decide (a.2 ≠ f))
    fwds := d.shp.fwds.map (fun w => if w.opens f then { w with src := .node } else w) } }
  if d.trn.fenced then d else
  go.foldl (fun d a => match d.peerQp a with
    | none => d
    | some n => d.sendMsg n ⟨6, 5, ((mget d.trn.qps n).map Qp.txclass).getD 2, 0, 0, 0, 0, leBytes 64 (pack [(0, 12, d.pwr.node), (12, 5, f)]), .none⟩) d

/-- A function event begins. `soft`: of a partition or compute-only chip reset, which keeps the spill area, the page-runs and the reader
handles (R369, R370); `flr`: a function-level reset; `cause`: of the bus errors that end the function's transfers. Log entry 67, DEDUCED. Log entry 74, DEDUCED. -/
def Dev.fnEvent (d : Dev) (f : Nat) (soft flr : Bool) (cause : Nat) : Dev :=
  let d := d.stopChans f
  -- a fenced holder changes no draft and no handle, but a reset ends drafts (R227, R366)
  let d := if d.trn.fenced ∧ !soft then d else d.abortDrafts .orphaned (fun x => decide (x.node = d.pwr.node ∧ x.fn = f))
  let d := if soft then d.poolReap else if d.trn.fenced then d.draftAborts f else
    ((d.closeReaders (fun x => decide (x.node = d.pwr.node ∧ x.fn = f))).poolReap).draftAborts f
  let fn := d.fn f
  let d := d.setFn f { fn with
    enable := false, resetting := true, flr := flr, asqErr := false, qapValid := false, sqs := [], cqs := [], asqHead := 0, asqTail := 0,
    acq := Fn.reset.acq, eq := Fn.reset.eq }
  let d := if soft then d else d.endTransfers f cause
  -- a context that was evicted still goes to the QP table; CQ entries of management commands are discarded
  let d := { d with dma := { d.dma with heldOut := d.dma.heldOut.filter (fun o => decide (o.fnOf ≠ some f) || (match o with
    | .hostWrite g a _ _ => d.inQpt g a
    | _ => false)) } }
  let d := if f = 0 then { d with pwr := { d.pwr with inflight := d.pwr.inflight.map (fun m => { m with live := false }) } } else d
  let d := if flr then d.setFn f { d.fn f with vpend := [] } else d
  let d := if flr then { d with dma := { d.dma with chans := mmap d.dma.chans (fun n c => if d.chOwner n = f then { c with abandoned := [] } else c) } }
           else d
  if soft then d else d.loseSpill f

/-- A function event is complete once the work handed on has ended: the partial area is zero-filled, and the PF told (R329). -/
def Dev.fnSettle (d : Dev) : Dev :=
  (List.range 17).foldl (fun d f =>
    let fn := d.fn f
    if !fn.resetting ∨ fn.running ≠ 0 then d else
    let d := d.setFn f { fn with resetting := false, flr := false }
    let d := { d with dma := { d.dma with parea := mdel d.dma.parea f } }
    let d := if fn.flr then d.emit (.frs f) else d
    if f = 0 then d else d.postEvent 0 4 f 0) d

/-- A locked VF enters ERROR: an event to the PF, and a function event (R304). -/
def Dev.tdiError (d : Dev) (f : Nat) (flr : Bool) : Dev :=
  ((d.setFn f { d.fn f with tdi := 4 }).postEvent 0 5 f 0).fnEvent f false flr 6

/-- FUNCTION_LEVEL_RESET: of the PF, every VF has its function event too; a locked VF enters ERROR. -/
def flrStep (f : Nat) (d : Dev) : Dev :=
  if 17 ≤ f ∨ !d.dma.linkup then d else
  let one (d : Dev) (g : Nat) (flr : Bool) : Dev := if 2 ≤ d.tdi g ∧ d.tdi g ≠ 4 then d.tdiError g flr else d.fnEvent g false flr 6
  if f ≠ 0 then one d f true else
  (List.range 16).foldl (fun d v => one d (v + 1) false) (d.fnEvent 0 false true 6)

/-- FUNCTION_RELEASE: ENABLE goes from 1 to 0. -/
def fnReleaseStep (f : Nat) (tbit : Bool) (d : Dev) : Dev := if d.barOpen f tbit && (d.fn f).enable then d.fnEvent f false false 6 else d

/-- TDI_ERROR. -/
def tdiErrorStep (f : Nat) (d : Dev) : Dev := if f < 17 ∧ (d.tdi f = 2 ∨ d.tdi f = 3) then d.tdiError f false else d

/-- STOP_INTERFACE, LOCK_INTERFACE, START_INTERFACE: the TDISP states of R304. -/
def tdiMove (src : List Nat) (dst f : Nat) (d : Dev) : Dev :=
  if f < 17 ∧ f ≠ 0 ∧ src.contains (d.tdi f) then d.setFn f { d.fn f with tdi := dst } else d

/-- PCIE_LINK_LOSS: a function event for every function (R329). -/
def pcieLossStep (d : Dev) : Dev :=
  if !d.dma.linkup then d else
  let d := { d with dma := { d.dma with linkup := false, speed := 0, width := 0 } }
  (List.range 17).foldl (fun d f => d.fnEvent f false false 7) d

/-- FUNCTION_ENABLE: the admin and event queues start (Table 12.12); it waits for rings of 4 to 12 and for a running event (R329). Log entry 66, DEDUCED. -/
def fnEnableStep (f : Nat) (tbit : Bool) (d : Dev) : Dev :=
  let fn := d.fn f
  let ok (l : Nat) : Bool := decide (4 ≤ l ∧ l ≤ 12)
  if !d.barOpen f tbit || !d.awake || fn.enable || fn.resetting || !ok fn.asqLog || !ok fn.acqLog || !ok fn.eqLog then d else
  d.setFn f { fn with
    enable := true, asqHead := 0, asqTail := 0,
    acq := ⟨fn.acqBase, fn.acqLog, fn.vecAcq, 1, 0, 0, true, 0, false, 0⟩,
    eq := ⟨fn.eqBase, fn.eqLog, fn.vecEq, 1, 0, 0, true, 0, false, 0⟩ }

/-! ### Doorbells (R305, R308) -/

def sqTailStep (f s : Nat) (v : W32) (tbit : Bool) (d : Dev) : Dev :=
  if !d.barOpen f tbit then d else
  match mget (d.fn f).sqs s with
  | none => d.badWrite
  | some q => d.setFn f { d.fn f with sqs := mset (d.fn f).sqs s { q with tail := v.toNat % 2 ^ 16 % 2 ^ q.log2 } }

def cqHeadStep (f c : Nat) (v : W32) (tbit : Bool) (d : Dev) : Dev :=
  if !d.barOpen f tbit then d else
  match mget (d.fn f).cqs c with
  | none => d.badWrite
  | some q => d.setFn f { d.fn f with cqs := mset (d.fn f).cqs c (q.doorbell (v.toNat % 2 ^ 16) (decide (fld v.toNat 16 1 = 1))) }

/-- A channel's tail; a channel without a ring keeps none. -/
def chTailStep (f c : Nat) (v : W32) (tbit : Bool) (d : Dev) : Dev :=
  if !d.barOpen f tbit then d else
  match d.chOf f c with
  | none => d.badWrite
  | some n =>
    let x := d.chan n
    if x.state = 0 then d else d.setChan n { x with tail := v.toNat % 2 ^ 16 % 2 ^ x.log2 }

def asqTailStep (f : Nat) (v : W32) (tbit : Bool) (d : Dev) : Dev :=
  if d.barOpen f tbit && (d.fn f).enable then d.setFn f { d.fn f with asqTail := v.toNat % 2 ^ 16 % 2 ^ (d.fn f).asqLog } else d

def acqHeadStep (f : Nat) (v : W32) (tbit : Bool) (d : Dev) : Dev :=
  if d.barOpen f tbit && (d.fn f).enable then
    d.setFn f { d.fn f with acq := (d.fn f).acq.doorbell (v.toNat % 2 ^ 16) (decide (fld v.toNat 16 1 = 1)) } else d

def eqHeadStep (f : Nat) (v : W32) (tbit : Bool) (d : Dev) : Dev :=
  if d.barOpen f tbit && (d.fn f).enable then
    d.setFn f { d.fn f with eq := (d.fn f).eq.doorbell (v.toNat % 2 ^ 16) (decide (fld v.toNat 16 1 = 1)) } else d

/-! ### SQ entries (R312 to R315) -/

/-- The fields of an entry: descriptor, trailer, control. -/
def sqDesc (e : BitVec 2048) : W512 := BitVec.ofNat 512 (fld e.toNat 0 512)
def sqTrailer (e : BitVec 2048) : Bytes := leBytes 128 (fld e.toNat 512 1024)
def sqKind (e : BitVec 2048) : Nat := fld e.toNat 1536 4
def sqRet (e : BitVec 2048) : Bool := decide (fld e.toNat 1540 1 = 1)
def sqKeygen (e : BitVec 2048) : Nat := fld e.toNat 1552 16
def sqCtag (e : BitVec 2048) : Nat := fld e.toNat 1568 32
def sqDptr (e : BitVec 2048) : Nat := fld e.toNat 1600 64

/-- Whether an entry is a pool WRITE. -/
def sqWrite (e : BitVec 2048) : Bool := decide (sqKind e = 3 ∧ plOp (sqDesc e) = 3)
/-- Whether an entry carries a query trailer. -/
def sqInline (e : BitVec 2048) : Bool := decide (sqKind e = 0) && (parseTn (sqDesc e)).qinl

/-- R8 and Table 12.4 for the entry as a whole. -/
def sqOk (e : BitVec 2048) : Bool :=
  decide (sqKind e < 4 ∧ fld e.toNat 1541 11 = 0 ∧ fld e.toNat 1664 384 = 0) &&
  (sqInline e || (sqTrailer e).all (· = 0)) && (if sqWrite e then decide (sqDptr e % 64 = 0) else decide (sqDptr e = 0))

/-- Whether an entry is a pool request that another node holds. -/
def Dev.sqAbroad (d : Dev) (e : BitVec 2048) : Bool := decide (sqKind e = 3 ∧ Config.poolHolder e % 2 ^ 12 ≠ d.pwr.node)

/-- Bytes that an entry's work writes from ROFF: the rows of a region that another node holds have a length that is free here. Log entry
136, DEDUCED. -/
def Dev.sqBytes (d : Dev) (e : BitVec 2048) : Nat :=
  let x := sqDesc e
  match sqKind e with
  | 0 => (parseTn x).rows * (parseTn x).recSize
  | 3 => 16 + (if plOp x = 6 then (plNrm1 x + 1) * (if d.sqAbroad e then Config.foreignRow e else match mget d.shp.regions (plRegion x) with
    | none => 0
    | some g => rpRow g.p) else 0)
  | _ => 16

/-- Return QP and record offset of an entry's descriptor. -/
def sqRqp (e : BitVec 2048) : Nat := workRqp (Work.mk (sqKind e) Src.node 0 0 (sqDesc e) [])
def sqRoff (e : BitVec 2048) : Nat := match sqKind e with
  | 0 => (parseTn (sqDesc e)).roff
  | 1 => dwRoff (sqDesc e)
  | 2 => scRoff (sqDesc e)
  | _ => plRoff (sqDesc e)

/-- Whether tags of granules that the descriptor names are not its tenant's (R38), which R14 weighs with R314. -/
def Dev.sqTags (d : Dev) (qb : QBuf) (e : BitVec 2048) : Bool :=
  let x := sqDesc e
  let p := wf x 12 4
  match sqKind e with
  | 0 => !d.tagsOk qb (parseTn x) (sqKeygen e)
  | 1 => decide (dwOp x = 0 ∧ 64 * dwDoff x + dwDlen x ≤ d.shareSize p) &&
      !qb.owned (d.shareBase p + 64 * dwDoff x) (dwDlen x) (dwTen x) (sqKeygen e)
  | 3 => decide (plOp x = 6 ∧ plGmode x = 0 ∧ 64 * plFirst x + 4 * (plNrm1 x + 1) ≤ d.shareSize p) && !d.sqAbroad e &&
      !qb.owned (d.shareBase p + 64 * plFirst x) (4 * (plNrm1 x + 1)) (plTen x) (sqKeygen e)
  | _ => false

/-- The conditions of R314 on an entry of a function. -/
def Dev.sqConds (d : Dev) (qb : QBuf) (f : Nat) (e : BitVec 2048) : List (St × Nat) :=
  let ten := wf (sqDesc e) 0 12
  let part := wf (sqDesc e) 12 4
  let shape := !sqOk e || decide (f = 0 ∨ part + 1 ≠ f) ||
    (sqRet e && (decide (sqRqp e ≠ 0) || decide (d.pareaSize f < sqRoff e + d.sqBytes e)))
  cond d.trn.fenced .fenced ++
  cond (!d.keyOk ten (sqKeygen e) || !d.admitted ten part || (shape && d.sqTags qb e)) .keyRevoked ++ cond shape .shape

/-- The entry taken: the SQ's head moves and an entry of its CQ is reserved (R310). -/
def Dev.sqTake (d : Dev) (f s : Nat) (q : Sq) : Nat × Dev :=
  let h := (q.head + 1) % 2 ^ q.log2
  let fn := d.fn f
  (h, d.setFn f { fn with sqs := mset fn.sqs s { q with head := h, outst := q.outst + 1 }, running := fn.running + 1
                          cqs := mmod fn.cqs q.cq Cq.reserve })

/-- A pool request whose holder is another node goes there on a peer QP, which the request then names as its return QP (R215, R423). -/
def Dev.forwardPool (d : Dev) (w : Work) (n : Nat) : Dev :=
  let ten := plTen w.desc
  let desc := BitVec.ofNat 512 (setFld w.desc.toNat 96 20 (match mget d.trn.qps n with
    | none => 0
    | some q => q.rqpn))
  let cls := match mget d.trn.qps n with
    | none => 2
    | some q => q.txclass
  ({ d with shp := { d.shp with fwds := d.shp.fwds ++ [Fwd.mk n w.src w.desc] } }).sendMsg n ⟨6, 3, cls, ten, d.gen ten, 0, 0, wBytes desc ++ w.extra, .none⟩

/-- Whether an entry may be fetched (R310, R313): its SQ works, an entry of the CQ is free, and for a tenon one of the tenon table. A
request for another node's pool waits for a peer QP to it (R23). -/
def Dev.sqReady (d : Dev) (f : Nat) (q : Sq) (e : BitVec 2048) : Bool :=
  d.fnLive f && !q.err && q.deleting.isNone && decide (q.head ≠ q.tail) &&
  (match mget (d.fn f).cqs q.cq with
   | none => false
   | some c => decide (0 < c.free)) &&
  (decide (sqKind e ≠ 0) || decide (d.subOut < d.tenonFree)) &&
  (decide (sqKind e ≠ 3 ∨ Config.poolHolder e % 2 ^ 12 = d.pwr.node) || (d.peerQp (Config.poolHolder e % 2 ^ 12)).isSome)

/-- Whether an SQ has an entry waiting that the node may fetch, whatever the entry is (R310, R313). -/
def Dev.sqWaits (d : Dev) (f : Nat) (q : Sq) : Bool :=
  d.fnLive f && !q.err && q.deleting.isNone && decide (q.head ≠ q.tail) && (match mget (d.fn f).cqs q.cq with
    | none => false
    | some c => decide (0 < c.free))

/-- The SQs with entries waiting, in ascending function and number. -/
def Dev.sqsWaiting (d : Dev) : List (Nat × Nat) :=
  (List.range 17).flatMap (fun f => ((d.fn f).sqs.filter (fun q => d.sqWaits f q.2)).map (fun q => (f, q.1)))

/-- The SQ whose turn it is: the last served while it has taken fewer than 8 entries in its turn and has one waiting, else the next after
it, in a round (R313; log entry 120, DEDUCED). -/
def Dev.sqNext (d : Dev) : Option (Nat × Nat) :=
  let ws := d.sqsWaiting
  let (f0, s0, n) := d.dma.sqTurn
  if n < 8 ∧ ws.contains (f0, s0) then some (f0, s0) else
  (ws.filter (fun x => decide (f0 < x.1 ∨ (f0 = x.1 ∧ s0 < x.2))) ++ ws).head?

/-- Whether an SQ is fetched from in its turn. -/
def Dev.sqTurnOk (d : Dev) (f s : Nat) : Bool := decide (d.sqNext = some (f, s))

/-- An SQ whose entry waits, a tenon for a free table entry or a request for a peer QP, lets its turn go (log entry 120, DEDUCED). -/
def Dev.sqPass (d : Dev) (f s : Nat) : Dev := { d with dma := { d.dma with sqTurn := (f, s, 8) } }

/-- The turn after an entry of an SQ. -/
def Dev.sqTurned (d : Dev) (f s : Nat) : Dev :=
  let (f0, s0, n) := d.dma.sqTurn
  { d with dma := { d.dma with sqTurn := (f, s, if f0 = f ∧ s0 = s ∧ n < 8 then n + 1 else 1) } }

/-- A pool request that ends at its SQ is the last one in SHP_LASTERR (R233). -/
def Dev.sqFail (d : Dev) (e : BitVec 2048) (st : St) : Dev :=
  if sqKind e = 3 then d.setRegs (poolLastFields (Work.mk 3 .node (wf (sqDesc e) 12 4) (sqKeygen e) (sqDesc e) []) st) else d

/-- A DPTR read failed on the demand channel, which halts: the request ends with ST_TIER_ERROR, held behind the bus error's journal entry
(R315, R328, R378). -/
def Dev.dptrFails (d : Dev) (src : Src) (e : BitVec 2048) (cause : Nat) (a : W64) : Dev :=
  let x := sqDesc e
  let d1 := match d.classChan 2 with
    | none => d
    | some ch => d.nodeHalts ch cause false a { tenant := plTen x, part := plPart x, tag := plTag x }
  let v := if d.sqAbroad e then 0 else (d.plLast (Work.mk 3 src (plPart x) (sqKeygen e) x [])).1
  Dev.answerAfter d (Dev.fieldsAfter d d1 (poolLastFields (Work.mk 3 src (plPart x) (sqKeygen e) x []) .tierError)) src (plRqp x) (plRoff x) (plTag x)
    (plTen x) 3 3 0 [(0, plRecord x .tierError false v 0)]

/-- SQ_ENTRY: the entry at the head of an SQ is refused with a CQ entry or handed on (R313, R314). `lines`: what the DPTR read gives, or
the cause and address of its bus error. Log entry 57, DEDUCED. Log entry 65, DEDUCED. -/
def sqEntryStep (f s : Nat) (e : BitVec 2048) (lines : DptrRead) (qb : QBuf) (d : Dev) : Dev :=
  match mget (d.fn f).sqs s with
  | none => d
  | some q =>
    if !d.sqWaits f q || !d.sqTurnOk f s || !d.nodeUp then d else
    if !d.sqReady f q e then d.sqPass f s else
    -- a forwarded request's return QP is checked here: its context is fetched first (R266)
    if sqKind e = 3 ∧ Config.poolHolder e % 2 ^ 12 ≠ d.pwr.node ∧ d.rqpAway (.host f s 0 (sqRet e)) (plRqp (sqDesc e)) then d.rqpFetch (plRqp (sqDesc e)) else
    let (h, d) := ((d.sqTurned f s).chCount (d.classChan 0) 256).sqTake f s q
    let tag := sqCtag e + h * 2 ^ 32
    let src := Src.host f s tag (sqRet e)
    match firstCond false (d.sqConds qb f e) with
    | some (st, _) => (d.bump (rk 0x01000010 0) 32 (b2n (decide (st = .keyRevoked)))).sqFail e st |>.hostAnswer f s tag (sqKind e) (stCode st) 0 []
    | none =>
      let d := d.bump (rk 0x01000008 0) 64 1
      let x := sqDesc e
      let w (extra : Bytes) : Work := Work.mk (sqKind e) src (wf x 12 4) (sqKeygen e) x extra
      if sqKind e ≠ 3 then d.pushWork (w (if sqInline e then sqTrailer e else [])) else
      let go (d : Dev) (extra : Bytes) : Dev :=
        let n := Config.poolHolder e % 2 ^ 12
        if n = d.pwr.node then d.pushWork (w extra) else
        if !d.rqpOk src true (plRqp x) (plTen x) (plPart x) then d.noAnswer src else
        match d.peerQp n with
        | none => d
        | some p => d.forwardPool (w extra) p
      if !sqWrite e then go d [] else
      match lines with
      | .lines b => go (d.chCount (d.classChan 2) (64 * (plNlm1 x + 1))) (sliceB b 0 (64 * (plNlm1 x + 1)))
      | .failed cause a => d.dptrFails src e cause a

/-! ### The admin queue (R316, Tables 12.5 and 12.6) -/

def aAop (e : W512) : Nat := wf e 0 8
def aLog2 (e : W512) : Nat := wf e 8 8
def aId (e : W512) : Nat := wf e 16 16
def aCq (e : W512) : Nat := wf e 32 16
def aVec (e : W512) : Nat := wf e 48 8
def aCnt (e : W512) : Nat := wf e 56 8
def aBase (e : W512) : Nat := wf e 64 64
def aLen (e : W512) : Nat := wf e 128 32
def aCtag (e : W512) : Nat := wf e 160 32

/-- Whether the next admin entry may be taken: one at a time, with an admin CQ entry to reserve (R310, R316). -/
def Dev.adminReady (d : Dev) (f : Nat) : Bool :=
  let fn := d.fn f
  d.dma.linkup && d.fnOpen f && d.nodeUp && fn.enable && !fn.resetting && !fn.asqErr && decide (fn.asqHead ≠ fn.asqTail ∧ 0 < fn.acq.free) &&
  !fn.sqs.any (fun q => q.2.deleting.isSome)

/-- The entry taken. -/
def Dev.adminTake (d : Dev) (f : Nat) : Dev :=
  let fn := d.fn f
  (d.chCount (d.classChan 0) 64).setFn f { fn with asqHead := (fn.asqHead + 1) % 2 ^ fn.asqLog, acq := fn.acq.reserve }

/-- An admin entry completes. -/
def Dev.adminDone (d : Dev) (f : Nat) (e : W512) (st : St) : Dev := d.acqWrite f (cqEntry (aCtag e) (stCode st) 3 0 0 (d.fn f).asqHead 0)

/-- One admin operation: refused with ST_SHAPE where its rule or R8 is broken, else its effect. -/
def Dev.admin (d : Dev) (f aop : Nat) (e : W512) (ok : Dev → Bool) (eff : Dev → Dev) : Dev :=
  if !d.adminReady f || !d.awake || decide (aAop e ≠ aop) then d else
  let d := d.adminTake f
  if wf e 192 320 = 0 ∧ aBase e % 4096 = 0 ∧ ok d then (eff d).adminDone f e .ok else d.adminDone f e .shape

def ringLog (n : Nat) : Bool := decide (4 ≤ n ∧ n ≤ 16)

/-- CREATE_CQ. An entry whose AOP is reserved is refused by this row. Log entry 68, DEDUCED. -/
def createCqStep (f : Nat) (e : W512) (d : Dev) : Dev :=
  let aop := if aAop e = 0 ∨ 9 ≤ aAop e then aAop e else 1
  d.admin f aop e (fun d => decide (aAop e = 1 ∧ aId e < d.cqCount f ∧ aVec e < (if f = 0 then 64 else 32) ∧ 1 ≤ aCnt e) && ringLog (aLog2 e) &&
      (mget (d.fn f).cqs (aId e)).isNone) (fun d =>
    d.setFn f { d.fn f with cqs := mset (d.fn f).cqs (aId e) ⟨aBase e, aLog2 e, aVec e, aCnt e, 0, 0, true, 0, false, 0⟩ })

/-- DELETE_CQ. -/
def deleteCqStep (f : Nat) (e : W512) (d : Dev) : Dev :=
  d.admin f 2 e (fun d => (mget (d.fn f).cqs (aId e)).isSome && !(d.fn f).sqs.any (fun q => decide (q.2.cq = aId e)) &&
      !d.dma.chans.any (fun c => decide (d.chOwner c.1 = f ∧ c.2.state ≠ 0 ∧ c.2.cq = aId e))) (fun d =>
    d.setFn f { d.fn f with cqs := mdel (d.fn f).cqs (aId e) })

/-- CREATE_SQ. -/
def createSqStep (f : Nat) (e : W512) (d : Dev) : Dev :=
  d.admin f 3 e (fun d => decide (aId e < d.sqCount f) && ringLog (aLog2 e) && (mget (d.fn f).sqs (aId e)).isNone &&
      (mget (d.fn f).cqs (aCq e)).isSome) (fun d =>
    d.setFn f { d.fn f with sqs := mset (d.fn f).sqs (aId e) ⟨aBase e, aLog2 e, aCq e, 0, 0, false, none, 0⟩ })

/-- DELETE_SQ: no entry is fetched any more; it completes when every fetched entry has its CQ entry. -/
def deleteSqStep (f : Nat) (e : W512) (d : Dev) : Dev :=
  if !d.adminReady f || !d.awake || decide (aAop e ≠ 4) then d else
  let d := d.adminTake f
  match mget (d.fn f).sqs (aId e) with
  | none => d.adminDone f e .shape
  | some q =>
    if wf e 192 320 ≠ 0 ∨ aBase e % 4096 ≠ 0 then d.adminDone f e .shape else
    if q.outst = 0 then (d.setFn f { d.fn f with sqs := mdel (d.fn f).sqs (aId e) }).adminDone f e .ok
    else d.setFn f { d.fn f with sqs := mset (d.fn f).sqs (aId e) { q with deleting := some (aCtag e) } }

/-- SET_CHANNEL. -/
def setChannelStep (f : Nat) (e : W512) (d : Dev) : Dev :=
  d.admin f 5 e (fun d => match d.chOf f (aId e) with
    | none => false
    | some n => decide ((d.chan n).state < 2 ∧ (d.chan n).job = none) &&
        (decide (aLog2 e = 0) || (ringLog (aLog2 e) && (mget (d.fn f).cqs (aCq e)).isSome))) (fun d =>
    match d.chOf f (aId e) with
    | none => d
    | some n =>
      let c := d.chan n
      if aLog2 e = 0 then d.setChan n { Chan.reset with abandoned := c.abandoned }
      else d.setChan n { Chan.reset with state := 1, base := aBase e, log2 := aLog2 e, cq := aCq e, abandoned := c.abandoned })

/-- SET_SPILL_AREA (R187). -/
def setSpillStep (f : Nat) (e : W512) (d : Dev) : Dev :=
  d.admin f 6 e (fun d => decide (f ≠ 0) && (d.spillUsed (f - 1)).isEmpty) (fun d =>
    d.setFn f { d.fn f with spill := if aLen e = 0 then none else some (aBase e, aLen e) })

/-- SET_QP_TABLE (R266). -/
def setQptStep (f : Nat) (e : W512) (d : Dev) : Dev :=
  d.admin f 7 e (fun d => decide (f = 0 ∧ aBase e % 2 ^ 20 = 0) && d.trn.qps.all (fun q => q.2.cached)) (fun d =>
    d.setFn 0 { d.fn 0 with qpt := some (aBase e) })

/-! ### The query aperture (R319) -/

/-- Whether a BAR4 write reaches the aperture: RUN takes the T bit only (R304). -/
def Dev.bar4 (d : Dev) (f : Nat) (tbit : Bool) : Bool := d.barOpen f tbit && decide (f ≠ 0)

/-- QUERY_APERTURE_WRITE: bytes beyond the share are discarded, a write without a tenant in force whole. Log entry 70, DEDUCED. -/
def queryWriteStep (f a : Nat) (data : Bytes) (tbit : Bool) (qb : QBuf) (d : Dev) : QBuf × Dev :=
  if !d.bar4 f tbit ∨ 2 ^ 24 ≤ a then (qb, d) else
  let fn := d.fn f
  let bs := data.take (d.shareSize (f - 1) - a)
  if !fn.qapValid || !d.admitted fn.qapTen (f - 1) || (bs.isEmpty && !data.isEmpty) then (qb, d.badWrite) else
  let p := d.shareBase (f - 1) + a
  (qb.place p fn.qapTen (d.gen fn.qapTen) bs, d.overwrite p bs.length)

/-! ### Channels (R322 to R327) -/

/-- A ring address (R323). -/
def ringAddr (base wrap n : Nat) : Nat :=
  if wrap = 0 then (base + n) % 2 ^ 64 else base / 2 ^ wrap * 2 ^ wrap + (base + n) % 2 ^ wrap

/-- A stretch of a transfer as contiguous pieces: offset in the transfer, address, length. -/
def ringPieces (base wrap : Nat) : (fuel n len : Nat) → List (Nat × Nat × Nat)
  | 0, _, _ => []
  | k + 1, n, len =>
    if len = 0 then [] else
    let t := if wrap = 0 then len else min len (2 ^ wrap - (base + n) % 2 ^ wrap)
    (n, ringAddr base wrap n, t) :: ringPieces base wrap k (n + t) (len - t)

def cdSsp (x : W512) : Nat := wf x 0 2
def cdDsp (x : W512) : Nat := wf x 2 2
def cdCrc (x : W512) : Nat := wf x 10 2
def cdCcont (x : W512) : Bool := decide (wf x 12 1 = 1)
def cdCapp (x : W512) : Bool := decide (wf x 13 1 = 1)
def cdTen (x : W512) : Nat := wf x 32 12
def cdKeygen (x : W512) : Nat := wf x 48 16
def cdLen (x : W512) : Nat := wf x 64 32
def cdSrc (x : W512) (n len : Nat) : List (Nat × Nat × Nat) := ringPieces (wf x 128 64) (wf x 16 5) 4 n len
def cdDst (x : W512) (n len : Nat) : List (Nat × Nat × Nat) := ringPieces (wf x 192 64) (wf x 21 5) 4 n len

/-- Bytes of the CRC that CAPP appends. -/
def cdApp (x : W512) : Nat := if !cdCapp x then 0 else match cdCrc x with
  | 1 => 4
  | 2 => 8
  | _ => 0

/-- The size of a node space of a function. -/
def Dev.spaceSize (d : Dev) (f sp : Nat) : Nat := if f = 0 then 0 else if sp = 1 then d.shareSize (f - 1) else d.pareaSize f

/-- The rules of R322 and R324 on a descriptor. -/
def Dev.cdOk (d : Dev) (f : Nat) (c : Chan) (x : W512) : Bool :=
  let w (lo : Nat) : Bool := decide (wf x lo 5 = 0 ∨ 6 ≤ wf x lo 5)
  let fits (wrap n : Nat) : Bool := decide (wrap = 0 ∨ n ≤ 2 ^ wrap)
  let inside (sp : Nat) (ps : List (Nat × Nat × Nat)) : Bool := decide (sp = 0) || ps.all (fun p => decide (p.2.1 + p.2.2 ≤ d.spaceSize f sp))
  decide (wf x 15 1 = 0 ∧ wf x 26 6 = 0 ∧ wf x 44 4 = 0 ∧ wf x 256 256 = 0 ∧ cdSsp x < 3 ∧ cdDsp x < 3 ∧ cdCrc x < 3 ∧ wf x 4 3 < 7 ∧ wf x 7 3 < 7) &&
  w 16 && w 21 && decide (1 ≤ cdLen x) && (decide (cdSsp x = 0) != decide (cdDsp x = 0)) &&
  decide (wf x 128 64 % 2 ^ wf x 4 3 = 0 ∧ wf x 192 64 % 2 ^ wf x 7 3 = 0 ∧ cdLen x % 2 ^ wf x 4 3 = 0 ∧ cdLen x % 2 ^ wf x 7 3 = 0) &&
  fits (wf x 16 5) (cdLen x) && fits (wf x 21 5) (cdLen x + cdApp x) &&
  inside (cdSsp x) (cdSrc x 0 (cdLen x)) && inside (cdDsp x) (cdDst x 0 (cdLen x + cdApp x)) &&
  (!cdCcont x || decide (c.crcKind = cdCrc x))

/-- A CRC carried over bytes, and its value at the end (R324). -/
def crcCarry (kind run : Nat) (bs : Bytes) : Nat := match kind with
  | 1 => crc32cRun run bs
  | 2 => crc64RefRun run bs
  | _ => 0
def crcOnes (kind : Nat) : Nat := match kind with
  | 1 => 0xFFFFFFFF
  | 2 => 0xFFFFFFFFFFFFFFFF
  | _ => 0
def crcEnd (kind run : Nat) : Nat := run ^^^ crcOnes kind

/-- The bytes of a node space. -/
def Dev.spaceRead (d : Dev) (qb : QBuf) (f sp : Nat) (ps : List (Nat × Nat × Nat)) : Bytes :=
  ps.flatMap (fun p => if sp = 1 then qb.read (d.shareBase (f - 1) + p.2.1) p.2.2 else memRead sramByte (mgetD d.dma.parea f []) p.2.1 p.2.2)

/-- Bytes written to a destination space from offset n0 of the transfer; what they overwrite is marked (R40). -/
def placeBytes (f : Nat) (x : W512) (n0 : Nat) (bs : Bytes) (qb : QBuf) (d : Dev) : QBuf × Dev :=
  (cdDst x n0 bs.length).foldl (fun s p =>
    let b := sliceB bs (p.1 - n0) p.2.2
    match cdDsp x with
    | 0 => (s.1, s.2.emit (.hostWrite f p.2.1 b (s.2.tOf f)))
    | 1 =>
      let a := s.2.shareBase (f - 1) + p.2.1
      (s.1.place a (cdTen x) (cdKeygen x) b, s.2.overwrite a b.length)
    | _ => (s.1, s.2.pareaWrite f p.2.1 b)) (qb, d)

/-- The CQ entry of a descriptor, or the end of its reservation (CMPL). -/
def Dev.cdAnswer (d : Dev) (ch f : Nat) (c : Chan) (x : W512) (idx : Nat) (st : St) (crc : Nat) : Dev :=
  if st ≠ .ok ∨ wf x 14 1 = 1 then d.cqWrite f c.cq (cqEntry (wf x 96 32) (stCode st) 2 0 (d.chLocal ch) idx crc) true
  else d.setFn f { d.fn f with cqs := mmod (d.fn f).cqs c.cq Cq.unreserve }

/-- A descriptor whose every byte is placed: its CRC, appended where CAPP says, and its CQ entry (R324, R325). -/
def finishDesc (ch : Nat) (qb : QBuf) (d : Dev) : QBuf × Dev :=
  let c := d.chan ch
  let f := d.chOwner ch
  match c.job with
  | none => (qb, d)
  | some j =>
    let x := j.desc
    let v := crcEnd (cdCrc x) j.crc
    let (qb, d) := placeBytes f x (cdLen x) (leBytes (cdApp x) v) qb d
    let d := d.bump (rk (0x01001010 + 0x40 * ch) 0) 64 (cdApp x)
    let d := d.setChan ch { c with state := 1, job := none, crcKind := cdCrc x, crcRun := j.crc }
    (qb, d.cdAnswer ch f c x j.idx .ok v)

/-- The transfer's next bytes: whole destination units are placed, a rest stays in the holding register (R323). -/
def moveBytes (ch : Nat) (bs : Bytes) (qb : QBuf) (d : Dev) : QBuf × Dev :=
  let c := d.chan ch
  let f := d.chOwner ch
  match c.job with
  | none => (qb, d)
  | some j =>
    let bs := bs.take (cdLen j.desc - j.got)
    let all := j.held ++ bs
    let n := all.length / 2 ^ wf j.desc 7 3 * 2 ^ wf j.desc 7 3
    let (qb, d) := placeBytes f j.desc (j.got - j.held.length) (all.take n) qb d
    let d := d.bump (rk (0x01001010 + 0x40 * ch) 0) 64 n
    let j := { j with got := j.got + bs.length, crc := crcCarry (cdCrc j.desc) j.crc bs, held := all.drop n }
    let d := d.setChan ch { c with job := some j }
    if j.got = cdLen j.desc then finishDesc ch qb d else (qb, d)

/-- A descriptor begins, at byte 0: node bytes move at once, host bytes are asked for. -/
def startDesc (ch : Nat) (x : W512) (idx : Nat) (qb : QBuf) (d : Dev) : QBuf × Dev :=
  let c := d.chan ch
  let f := d.chOwner ch
  let run := if cdCcont x then c.crcRun else crcOnes (cdCrc x)
  let d := d.setChan ch { c with state := 2, job := some ⟨x, idx, 0, run, []⟩, errAddr := 0, err := 0 }
  if cdSsp x = 0 then (qb, (cdSrc x 0 (cdLen x)).foldl (fun d p => d.emit (.hostRead f p.2.1 p.2.2 (d.tOf f))) d)
  else moveBytes ch (d.spaceRead qb f (cdSsp x) (cdSrc x 0 (cdLen x))) qb d

/-- A request of a function channel met a bus error: the channel halts, latches and posts its event (R327). -/
def Dev.chHalts (d : Dev) (ch cause : Nat) (dir : Bool) (idx done : Nat) (a : W64) (j : JInfo) : Dev :=
  let err := pack [(0, 3, cause), (3, 1, b2n dir), (8, 16, idx), (32, 32, done)]
  (d.setChan ch { d.chan ch with state := 3, errAddr := a, err := BitVec.ofNat 64 err }).busFault ch cause j
    [.event (d.chOwner ch) 2 (d.chLocal ch) (err % 2 ^ 32)]

/-- What the journal entry of a descriptor's bus error names. -/
def cdInfo (f : Nat) (x : W512) : JInfo := { tenant := cdTen x, part := f - 1, tag := wf x 96 32 }

/-- Whether a function channel's next descriptor is due to be fetched: an entry of its CQ is free. -/
def Dev.descDue (d : Dev) (ch : Nat) : Bool :=
  let c := d.chan ch
  let f := d.chOwner ch
  decide (f < 17 ∧ c.state = 1 ∧ c.head ≠ c.tail) && (d.fn f).enable && !(d.fn f).resetting && (match mget (d.fn f).cqs c.cq with
    | none => false
    | some q => decide (q.free ≠ 0))

/-- The fetch of a function channel's next descriptor failed: the channel halts with the entry of its CQ reserved (R326, R327). -/
def Dev.descFails (d : Dev) (ch cause : Nat) (a : W64) : Dev :=
  let c := d.chan ch
  let f := d.chOwner ch
  if !d.descDue ch then d else
  (d.setFn f { d.fn f with cqs := mmod (d.fn f).cqs c.cq Cq.reserve }).chHalts ch cause false c.head 0 a { part := f - 1 }

/-- CHANNEL_DESCRIPTOR: a function channel takes its next descriptor (R322); a VF in CONFIG_LOCKED makes no request, which is a bus error of
cause 6 (R304, R326). Log entry 72, DEDUCED. -/
def channelStep (ch : Nat) (x : W512) (qb : QBuf) (d : Dev) : QBuf × Dev :=
  let c := d.chan ch
  let f := d.chOwner ch
  if d.ctxHeld 3 ch then (qb, d) else
  if ch < 64 ∧ d.awake ∧ d.dma.linkup ∧ f < 17 ∧ d.tdi f = 2 then (qb, d.descFails ch 6 (BitVec.ofNat 64 (c.base + 64 * c.head))) else
  if 64 ≤ ch || !d.fnLive f || decide (c.state ≠ 1) || decide (c.head = c.tail) then (qb, d) else
  match mget (d.fn f).cqs c.cq with
  | none => (qb, d)
  | some q =>
    if q.free = 0 then (qb, d) else
    let d := d.setFn f { d.fn f with cqs := mmod (d.fn f).cqs c.cq Cq.reserve }
    let d := d.setChan ch { c with head := (c.head + 1) % 2 ^ c.log2 }
    let cs := cond (!(d.keyOk (cdTen x) (cdKeygen x) && decide (f ≠ 0) && d.admitted (cdTen x) (f - 1))) .keyRevoked ++ cond (!d.cdOk f c x) .shape
    match firstCond false cs with
    | some (st, _) => (qb, (d.bump (rk 0x01000010 0) 32 (b2n (decide (st = .keyRevoked)))).cdAnswer ch f c x c.head st 0)
    | none => startDesc ch x c.head qb d

/-- DMA_READ_COMPLETION: bytes of a running read, in order; one for an abandoned read is discarded (R325, R350, R365), and which of the two it is, where
both are outstanding, is a free value (log entry 166, DESIGN CHOICE). -/
def readDoneStep (ch : Nat) (data : Bytes) (qb : QBuf) (d : Dev) : QBuf × Dev :=
  let c := d.chan ch
  if 64 ≤ ch ∨ !d.dma.linkup then (qb, d) else
  let late (d : Dev) : QBuf × Dev := (qb, d.setChan ch { c with abandoned := c.abandoned.drop 1 })
  match c.job with
  | some j =>
    if c.state ≠ 2 ∨ cdSsp j.desc ≠ 0 then late d else
    if c.abandoned.isEmpty then moveBytes ch data qb d else
    -- the tag, which the command does not give, tells an abandoned read's completion from the running one's
    let (v, d) := d.fresh
    if v.getLsbD 0 then late d else moveBytes ch data qb d
  | none => late d

/-- What a failed SQ or admin fetch ends: the request's address tells which it was, and of several rings at that address the one whose turn
it is (R313, Table 12.8). -/
def Dev.fetchEnds (d : Dev) (a : Nat) : Dev :=
  let inRing (b log sz : Nat) : Bool := decide (b ≤ a ∧ a < b + sz * 2 ^ log)
  let hits := (List.range 17).flatMap (fun f => ((d.fn f).sqs.filter (fun q => inRing q.2.base q.2.log2 256 && d.sqWaits f q.2)).map (fun q => (f, q)))
  match ((hits.filter (fun h => decide (d.sqNext = some (h.1, h.2.1)))) ++ hits).head? with
  | some (f, s, q) => (d.setFn f { d.fn f with sqs := mset (d.fn f).sqs s { q with err := true } }).hold [.event f 3 s 0]
  | none =>
    match (List.range 17).find? (fun f => (d.fn f).enable && decide ((d.fn f).asqHead ≠ (d.fn f).asqTail) &&
      inRing (d.fn f).asqBase (d.fn f).asqLog 64) with
    | some f =>
      -- no rule gives the number that the event of an admin SQ names (log entry 3, DESIGN CHOICE)
      let (v, d) := d.fresh
      (d.setFn f { d.fn f with asqErr := true }).hold [.event f 3 (v.toNat % 2 ^ 16) 0]
    | none => d

/-- BUS_ERROR (R327, R328): the channel halts, latches the error and posts an event; on a node channel the transfer ends too. Log entry 69, DEDUCED. -/
def busErrorStep (ch cause : Nat) (a : W64) (d : Dev) : Dev :=
  if 64 ≤ ch ∨ cause = 0 ∨ 8 ≤ cause then d else
  let c := d.chan ch
  let f := d.chOwner ch
  if f = 17 then
    if c.state = 3 then d else
    match d.issuedOn ch with
    | some x => Dev.xferFails d (d.nodeHalts ch cause false a (d.xferInfo x.what)) x.what
    | none => (d.nodeHalts ch cause false a {}).fetchEnds a.toNat
  else if 17 < f then d else
  match c.job with
  | none => d.descFails ch cause a
  | some j =>
    if c.state ≠ 2 then d else
    d.chHalts ch cause (decide (cdSsp j.desc ≠ 0)) j.idx (j.got - j.held.length) a (cdInfo f j.desc)

/-- A halted node channel goes on (R328). -/
def Dev.nodeSkip (d : Dev) (ch : Nat) : Dev := d.setChan ch { d.chan ch with state := 1, errAddr := 0, err := 0 }

/-- The descriptor that failed, completed with ST_TIER_ERROR; what its CRC had come to is not stored, so a descriptor that continues it
starts from a free value (log entry 3, DESIGN CHOICE). While the bus error's journal entry waits, its CQ entry waits with it (R378). -/
def Dev.skipDesc (d : Dev) (ch : Nat) : Dev :=
  let c := d.chan ch
  match c.job with
  | none => d
  | some j =>
    let (v, d) := d.fresh
    let d := d.setChan ch { c with state := 1, job := none, errAddr := 0, err := 0, crcKind := cdCrc j.desc, crcRun := v.toNat % (crcOnes (cdCrc j.desc) + 1) }
    let f := d.chOwner ch
    if d.rcv.jq.any (fun e => decide (wf e.data 144 16 = 5 * 4096 + ch)) then
      d.hold [.cq f c.cq (cqEntry (wf j.desc 96 32) (stCode .tierError) 2 0 (d.chLocal ch) j.idx 0)]
    else d.cdAnswer ch f c j.desc j.idx .tierError 0

/-- Whether a write of RESTART or SKIP reaches a channel: of DMA_CH_CTL in BAR0, or of DMA_CP_CTL in the owner's channel page, with a T
bit (R304, R305). -/
def Dev.ctlOpen (d : Dev) (ch : Nat) : Option Bool → Bool
  | none => true
  | some t => d.barOpen (d.chOwner ch) t

/-- A fetch that failed is due again, or its descriptor, which was never read, is completed with ST_TIER_ERROR: its CTAG is a free value
(R327; log entry 3, DESIGN CHOICE). -/
def Dev.refetch (d : Dev) (ch : Nat) (skip : Bool) : Dev :=
  let c := d.chan ch
  let f := d.chOwner ch
  if !skip then
    (d.setFn f { d.fn f with cqs := mmod (d.fn f).cqs c.cq Cq.unreserve }).setChan ch { c with state := 1, errAddr := 0, err := 0 }
  else
    let (v, d) := d.fresh
    let d := d.setChan ch { c with state := 1, errAddr := 0, err := 0, head := (c.head + 1) % 2 ^ c.log2 }
    let e := cqEntry (v.toNat % 2 ^ 32) (stCode .tierError) 2 0 (d.chLocal ch) c.head 0
    if d.rcv.jq.any (fun x => decide (wf x.data 144 16 = 5 * 4096 + ch)) then d.hold [.cq f c.cq e] else d.cqWrite f c.cq e true

/-- RESTART (R327): the failing descriptor again from byte 0; a VF in CONFIG_LOCKED makes no request (R304, R326). -/
def restartStep (ch : Nat) (page : Option Bool) (qb : QBuf) (d : Dev) : QBuf × Dev :=
  let c := d.chan ch
  if 64 ≤ ch ∨ c.state ≠ 3 ∨ !d.ctlOpen ch page then (qb, d) else
  match c.job with
  | none => (qb, if d.chOwner ch = 17 then d.nodeSkip ch else d.refetch ch false)
  | some j =>
    let f := d.chOwner ch
    if d.fnOpen f then startDesc ch j.desc j.idx qb d else
    let d := d.setChan ch { c with job := some { j with got := 0, held := [] } }
    (qb, d.chHalts ch 6 (decide (cdSsp j.desc ≠ 0)) j.idx 0 (BitVec.ofNat 64 (ringAddr (wf j.desc 128 64) (wf j.desc 16 5) 0)) (cdInfo f j.desc))

/-- SKIP (R327). -/
def skipStep (ch : Nat) (page : Option Bool) (d : Dev) : Dev :=
  let c := d.chan ch
  if 64 ≤ ch ∨ c.state ≠ 3 ∨ !d.ctlOpen ch page then d else
  if c.job.isSome then d.skipDesc ch else if d.chOwner ch = 17 then d.nodeSkip ch else d.refetch ch true

/-- IDE_CHECK_FAILURE (R303): the stream becomes Insecure; a completion that a channel waited for is a bus error of cause 4. `a` is the
address of the read, which a function channel's descriptor tells too. -/
def ideFailStep (stream : Nat) (ch : Option Nat) (a : W64) (d : Dev) : Dev :=
  if (mget d.dma.ides stream).isNone then d else
  let d := { d with dma := { d.dma with ides := mmod d.dma.ides stream (fun s => { s with secure := false }) } }
  match ch with
  | none => d
  | some n => busErrorStep n 4 (match (d.chan n).job with
    | none => a
    | some j => BitVec.ofNat 64 (ringAddr (wf j.desc 128 64) (wf j.desc 16 5) j.got)) d

end Sys2Proof.Machine
end

