-- ==== Sys2Proof/Machine/BarRegs.lean ====
section
/-! DEFINITION. Writes of register fields that have no row of their own (R11), in BAR0 and in BAR2 (R305, Table 12.12). -/

namespace Sys2Proof.Machine

/-- A field after an access: `key` and `w` are its bit address and width, `a` and `n` those of the access. Bits that the access does not
reach keep their values. -/
def fieldPut (key w old a n v : Nat) : Nat :=
  let lo := max key a
  let hi := min (key + w) (a + n)
  if hi ≤ lo then old else setFld old (lo - key) (hi - lo) (fld v (lo - a) (hi - lo))

/-- Whether an access has a register's form: 32 or 64 bits, aligned (R12). Log entry 100, DEDUCED. -/
def accOk (off width : Nat) : Bool := decide ((width = 32 ∧ off % 4 = 0) ∨ (width = 64 ∧ off % 8 = 0))

/-- RW fields of BAR0 with their widths. -/
def rwFields : List (Nat × Nat) :=
  [(rk 0x00800100 0, 12), (rk 0x00800200 0, 12), (rk 0x00800200 12, 48), (rk 0x00800208 0, 10), (rk 0x00800208 10, 6), (rk 0x00800208 16, 32),
   (rk 0x00900100 0, 10), (rk 0x00900200 0, 10), (rk 0x00900200 10, 32), (rk 0x00A00100 0, 64), (rk 0x00A00108 0, 48), (rk 0x00A00110 0, 32),
   (rk 0x00A00200 0, 16), (rk 0x00F00100 0, 9), (rk 0x00F00100 16, 5), (rk 0x00F00200 0, 12), (rk 0x01100100 0, 12), (rk 0x01200100 0, 8),
   (rk 0x01400020 0, 64)]

/-- Whether the node takes BAR0 writes: not while it starts, nor after a failed start-up (R390). Log entry 101, DEDUCED. -/
def Dev.bar0Open (d : Dev) : Bool := decide (d.pwr.state ≠ .starting ∧ d.pwr.state ≠ .failed)

/-- A write of BAR0: RW fields take their bits; RO fields, locked fields and unmapped offsets ignore it. -/
def bar0Write (off width : Nat) (v : W64) (d : Dev) : Dev :=
  if !d.bar0Open || !accOk off width then d else
  d.setRegs (rwFields.map (fun f => (f.1, fieldPut f.1 f.2 (d.reg f.1) (rk off 0) width v.toNat)))

/-- The fields of a function page that a write reaches (Table 12.12); ring registers only while ENABLE is 0. -/
def Fn.put (fn : Fn) (a n v : Nat) : Fn :=
  let vec (fn : Fn) : Fn := { fn with
    vecAcq := fieldPut (rk 0x28 0) 8 fn.vecAcq a n v, vecEq := fieldPut (rk 0x28 8) 8 fn.vecEq a n v
    qapTen := fieldPut (rk 0x48 0) 12 fn.qapTen a n v, qapValid := decide (fieldPut (rk 0x48 31) 1 (b2n fn.qapValid) a n v = 1) }
  let base (off old : Nat) : Nat := 4096 * fieldPut (rk off 12) 52 (old / 4096) a n v
  if fn.enable then
    let fn := vec fn
    { fn with acq := { fn.acq with vec := fn.vecAcq }, eq := { fn.eq with vec := fn.vecEq } }
  else
  { vec fn with
    asqLog := fieldPut (rk 0x10 0) 5 fn.asqLog a n v, asqBase := base 0x10 fn.asqBase
    acqLog := fieldPut (rk 0x18 0) 5 fn.acqLog a n v, acqBase := base 0x18 fn.acqBase
    eqLog := fieldPut (rk 0x20 0) 5 fn.eqLog a n v, eqBase := base 0x20 fn.eqBase }

/-- Whether a BAR2 page and offset name a register, a queue or a channel of the function (R305). -/
def Dev.bar2Names (d : Dev) (f off : Nat) : Bool :=
  let p := off / 4096
  let o := off % 4096
  if p = 0 then true
  else if p ≤ 64 then decide (o < 0x30) && (d.chOf f (p - 1)).isSome
  else if 256 ≤ p ∧ p < 4352 then decide (o < 4) && (mget (d.fn f).sqs (p - 256)).isSome
  else decide (4352 ≤ p ∧ o < 4) && (mget (d.fn f).cqs (p - 4352)).isSome

/-- A write of BAR2 other than a doorbell, ENABLE, RESTART or SKIP. -/
def bar2Write (f : Nat) (tbit : Bool) (off width : Nat) (v : W64) (d : Dev) : Dev :=
  if !d.barOpen f tbit || !accOk off width then d else
  if !d.bar2Names f off then d.badWrite else
  if off / 4096 ≠ 0 then d else d.setFn f ((d.fn f).put (rk off 0) width v.toNat)

/-- A W1C bit after an access: a set by the hardware in the same beat holds (Table 0.10). -/
def w1cBit (key : Nat) (old : Bool) (a n v hw : Nat) : Bool :=
  let at_ (x : Nat) : Bool := decide (a ≤ key ∧ key < a + n) && decide (fld x (key - a) 1 = 1)
  at_ hw || (old && !at_ v)

/-- A write of BAR0's W1C bit, RCV_RESET_STATUS.REJECTED. -/
def bar0Clear (off width : Nat) (v hw : W64) (d : Dev) : Dev :=
  if !d.bar0Open || !accOk off width then d else
  let k := rk 0x01200008 16
  d.setReg k (b2n (w1cBit k (decide (d.reg k = 1)) (rk off 0) width v.toNat hw.toNat))

/-- A write of BAR2's W1C bit, DMA_FP_STATUS.EQ_OVF. -/
def bar2Clear (f : Nat) (tbit : Bool) (off width : Nat) (v hw : W64) (d : Dev) : Dev :=
  if !d.barOpen f tbit || !accOk off width then d else
  if !d.bar2Names f off then d.badWrite else
  d.setFn f { d.fn f with eqOvf := w1cBit 6 (d.fn f).eqOvf (rk off 0) width v.toNat hw.toNat }

end Sys2Proof.Machine
end

