-- ==== Sys2Proof/Machine/Banks.lean ====
section
/-! DEFINITION. Banks and self-governance: the arbiter of a bank (R88 to R92), the regulator's refreshes, levels and activity cap
(R105, R106), and cluster levels (R395). Durations are out of scope; a boundary is the instant that the command names. -/

namespace Sys2Proof.Machine

/-- A core die's level. -/
def Phys.dieLevel (p : Phys) (stack die : Nat) : Nat := ((mget p.dies (16 * stack + die)).map DieTherm.level).getD 0

/-- The slot that held a bank ends: a stroke counts for its engine (R107), and its order may be complete. What waited behind it is marked: ordinary
claims behind a stroke, strokes behind an ordinary slot (Table 4.11; log entry 44, DEDUCED). -/
def Dev.slotEnds (d : Dev) (key u : Nat) (b : Bank) : Dev :=
  match b.held with
  | none => d
  | some (.stroke _) => ((d.setBank key { b with held := none, ords := b.ords.map (fun x => { x with waited := true }) }).bump (rk (0x00408000 + 8 * u) 0) 64 1).closeOrds (key / 2048)
  | some (.ordinary _) => d.setBank key { b with held := none, strokes := b.strokes.map (fun s => { s with waited := true }) }
  | some .refresh => d.setBank key { b with held := none }

/-- Whether the bank's engine may issue its oldest stroke: its die is below level 4, the cap is not reached, and it is not stopped. -/
def Dev.mayStroke (d : Dev) (ph : Phys) (stack die u : Nat) : Bool :=
  decide (ph.dieLevel stack die < 4) && !d.capped stack die && !d.isStopped (4096 + u) && !d.isStopped (3 * 4096 + stack)

/-- A refresh of the bank: the activates since a refresh start again. Interval and targeted refreshes that are due share one count (R106, log entry
128, DESIGN CHOICE). -/
def Bank.refresh (b : Bank) : Bank := { b with held := some .refresh, due := b.due - 1, since := 0, acts := 0 }

/-- An activate: the 2,049th since the last refresh makes a targeted refresh due (R106). -/
def Bank.activate (b : Bank) : Bank :=
  { b with since := b.since + 1, acts := b.acts + 1, due := if b.acts + 1 = 2049 then b.due + 1 else b.due }

/-- Grants a stroke; one that waited behind an ordinary slot counts (Table 4.11). -/
def Dev.grantStroke (d : Dev) (stack die key : Nat) (b : Bank) (s : Stroke) : Dev :=
  let k := d.stack stack
  let d := (d.setBank key { b.activate with held := some (.stroke s), turn := false, strokes := dropFirst (fun x => decide (x = s)) b.strokes }).setStack stack
    { k with win := nset k.win die (mgetD k.win die 0 + 1) }
  (if s.waited then d.bump (rk (0x00400020 + 0x100 * stack) 0) 64 1 else d).capMark stack die

/-- Grants the oldest ordinary claim; the turn bit is set while a stroke is pending (R91), and a claim that waited behind a stroke counts. -/
def Dev.grantOrdinary (d : Dev) (stack key : Nat) (b : Bank) (eng : Bool) : Dev :=
  match b.ords with
  | [] => d
  | c :: r =>
    let d := d.setBank key { b.activate with held := some (.ordinary c), turn := b.turn || eng, ords := r }
    if c.waited then d.bump (rk (0x00400018 + 0x100 * stack) 0) 64 1 else d

/-- Whether an append stroke must still wait: an attention stroke of an earlier order on its frame has not ended at its engine (R100). -/
def Dev.appendHeld (d : Dev) (stack die bg : Nat) (s : Stroke) : Bool :=
  s.app && (List.range 4).any (fun n =>
    let b := d.bank (bankKey stack die bg n)
    let first (x : Stroke) : Bool := !x.app && decide (x.ord < s.ord ∧ x.loc = s.loc)
    b.strokes.any first || (match b.held with
      | some (.stroke x) => first x
      | _ => false))

/-- The stroke that a bank's engine may issue next: its oldest, unless a rule holds it. A stroke that may not be issued is no pending claim for the
turn bit or the refresh spacing (R91, R105, R106; log entry 127, DESIGN CHOICE). -/
def Dev.nextStroke (d : Dev) (ph : Phys) (stack die bg : Nat) (b : Bank) : Option Stroke :=
  match b.strokes with
  | [] => none
  | s :: _ => if d.mayStroke ph stack die (engUnit stack die bg) && !d.appendHeld stack die bg s then some s else none

/-- SLOT_BOUNDARY: the slot that held the bank ends, claims that arrived queue, and the next slot is granted: a due refresh that
the spacing allows, the only claimant's, or by the turn bit (R91). -/
def slotStep (stack die bg bank : Nat) (arrivals : List Claim) (fs : List ColFault) (ph : Phys) (d : Dev) : Dev :=
  let key := bankKey stack die bg bank
  let b0 := d.bank key
  let d := ((d.eccAll fs).setBank key { b0 with ords := b0.ords ++ arrivals.map (⟨·, false, none⟩) })
  let d := d.slotEnds key (engUnit stack die bg) (d.bank key)
  let b := d.bank key
  let eng := d.nextStroke ph stack die bg b
  let ord := !b.ords.isEmpty
  if 0 < b.due ∧ (!(eng.isSome || ord) ∨ 2 ≤ b.since) then d.setBank key b.refresh
  else match eng with
    | some s => if !ord ∨ b.turn then d.grantStroke stack die key b s else d.grantOrdinary stack key b true
    | none => if ord then d.grantOrdinary stack key b false else d

/-- REFRESH_DUE (R105). -/
def refreshStep (stack die bg bank : Nat) (d : Dev) : Dev :=
  let key := bankKey stack die bg bank
  let b := d.bank key
  d.setBank key { b with due := b.due + 1 }

/-- ACTIVITY_WINDOW: the stack's stroke counts start again (R106). -/
def windowStep (stack : Nat) (d : Dev) : Dev := d.setStack stack { d.stack stack with win := [] }

/-- One move of a level: up above the next level's entry threshold, down at or below the leave threshold (R105, Table 15.9). -/
def moveLevel (enter leave : List Int) (level : Nat) (temp : Int) : Nat :=
  match enter[level]? with
  | some t => if t < temp then level + 1 else down
  | none => down
where
  /-- A fall by one. -/
  down : Nat := match level with
    | 0 => 0
    | n + 1 => match leave[n]? with
      | some t => if temp ≤ t then n else n + 1
      | none => n + 1

/-- Thresholds of Table 4.6 and Table 15.9. -/
def dieEnter : List Int := [85, 95, 100, 105]
def dieLeave : List Int := [83, 93, 98, 103]
def clEnter : List Int := [100, 110]
def clLeave : List Int := [98, 108]

/-- A peak after a measurement: the highest since a read cleared it. -/
def peakOf (p : Option Int) (temp : Int) : Option Int := match p with
  | none => some temp
  | some x => some (max x temp)

/-- A die's sensor and level after a measurement. -/
def dieMeasure (o : Option DieTherm) (temp : Int) : DieTherm :=
  match o with
  | none => ⟨temp, moveLevel dieEnter dieLeave 0 temp, some temp⟩
  | some t => ⟨temp, moveLevel dieEnter dieLeave t.level temp, peakOf t.peak temp⟩

/-- A cluster's sensor and level after a measurement. -/
def clMeasure (o : Option ClTherm) (temp : Int) : ClTherm := ⟨temp, moveLevel clEnter clLeave ((o.map ClTherm.level).getD 0) temp⟩

/-- The entry of a die that reaches level 4 (Table 14.4, TYPE 11). -/
def hotDie (stack die : Nat) : JInfo := { type := 11, engine := 3 * 4096 + stack, sub := die }

end Sys2Proof.Machine
end

