-- ==== Sys2Proof/Machine/MgmtArgs.lean ====
section
/-! DEFINITION. Arguments of the management commands (R393, Table 15.7): the bytes that an envelope carries for a command, and the envelopes whose
arguments are refused. -/

namespace Sys2Proof.Machine

/-- Widths in bits of a command's arguments, in the order of its defining chapter, and whether data of its own size follows them. None: an argument
with alternatives, whose bytes R393 does not give (log entry 165, DESIGN CHOICE). -/
def argWidths (opc : Nat) : Option (List Nat × Bool) := match opc with
  | 0x0101 => some ([12, 4, 16, 12544, 320], false)
  | 0x0102 => some ([12], false)
  | 0x0103 => some ([12544, 320], false)
  | 0x0106 => some ([], false)
  | 0x0201 => some ([12, 32, 3, 8], false)
  | 0x0203 => some ([12, 48, 10, 6, 32, 24, 12], false)
  | 0x0204 => some ([12, 48, 10, 6, 32, 32], false)
  | 0x0205 => some ([12, 48, 10, 6, 32], false)
  | 0x0206 => some ([12, 12], false)
  | 0x0207 => some ([12, 12, 12], false)
  | 0x0208 => some ([12], false)
  | 0x0211 => some ([10, 12, 4, 3, 2, 3, 40, 17, 1], false)
  | 0x0212 => some ([10], false)
  | 0x0213 => some ([10], false)
  | 0x0214 => some ([12], false)
  | 0x0221 => some ([512], false)
  | 0x0222 => some ([16], false)
  | 0x0223 => some ([112, 32], false)
  | 0x0224 => some ([16], false)
  | 0x0301 => some ([20, 3, 1, 12, 4, 16, 20, 4, 3, 80, 16, 8, 8, 64, 24, 16, 16, 12, 32, 16], false)
  | 0x0302 => some ([20, 80, 16, 8, 8, 4, 3], false)
  | 0x0303 => some ([20], false)
  | 0x0304 => some ([20], false)
  | 0x0305 => some ([24, 256], false)
  | 0x0306 => some ([24], false)
  | 0x0309 => some ([32, 1, 4096], false)
  | 0x030A => some ([32], false)
  | 0x0311 => some ([9, 12, 4, 16, 16, 24, 24], false)
  | 0x0312 => some ([9], false)
  | 0x0313 => some ([12, 8], false)
  | 0x0401 => some ([], true)
  | 0x0402 => some ([6], false)
  | 0x0403 => some ([], true)
  | 0x0404 => some ([3], false)
  | 0x0405 => some ([12, 10, 10, 11, 3, 2, 10], false)
  | 0x0406 => some ([12, 10, 10], false)
  | 0x0501 => some ([3, 3, 24], false)
  | 0x0502 => some ([], false)
  | 0x0503 => some ([32], true)
  | 0x0504 => some ([], false)
  | _ => none

/-- Whole bytes that hold a field (R393). -/
def argSize (w : Nat) : Nat := (w + 7) / 8

/-- Whether each argument fits its field's width. -/
def argsFit : List Nat → Bytes → Bool
  | [], _ => true
  | w :: ws, bs => decide (leNat (bs.take (argSize w)) < 2 ^ w) && argsFit ws (bs.drop (argSize w))

/-- Whether an envelope's arguments have the command's layout: each fits its field, and what pads them is zero (R393). -/
def argsOk (opc : Nat) (bs : Bytes) : Bool := match argWidths opc with
  | none => true
  | some (ws, tail) =>
    let n := sumN (ws.map argSize)
    argsFit ws bs && decide (n ≤ bs.length) && (tail || (decide (bs.length < n + 8) && (bs.drop n).all (fun b => decide (b = 0))))

/-- PATHS as its field holds it. -/
def pathsVal (ps : List Nat) : Nat := pack ((List.range 16).map (fun p => (5 * p, 5, ps.getD p 0)))

/-- A page-run's identity: TENANT, origin handle, LAYER, HGRP and PAGE. -/
def runVals (i : RunId) : List Nat := [i.ten, i.seq, i.layer, i.hgrp, i.page]

/-- A management command's opcode, the values of its arguments, and the data that follows them; none for a row that is no such command, or whose
arguments have alternatives. -/
def argVals : Instr → Option (Nat × List Nat × Bytes)
  | .admitTenant t p g ct wtrk => some (0x0101, [t, p, g, leNat ct, leNat wtrk], [])
  | .removeTenant t => some (0x0102, [t], [])
  | .setFabricKey ct w => some (0x0103, [leNat ct, leNat w], [])
  | .getCert => some (0x0106, [], [])
  | .setPlacement t q ts ps => some (0x0201, [t, q, ts, ps], [])
  | .reconcile i c p => some (0x0203, runVals i ++ [c, p], [])
  | .adoptHome i e => some (0x0204, runVals i ++ [e], [])
  | .discardPending i => some (0x0205, runVals i, [])
  | .promote t f => some (0x0206, [t, f], [])
  | .fillSpare t m f => some (0x0207, [t, m, f], [])
  | .cancelFill t => some (0x0208, [t], [])
  | .createRegion i p => some (0x0211, [i, p.ten, p.part, p.efmt, p.coding, p.k, p.n, p.rowlen, b2n p.t0ok], [])
  | .deleteRegion i => some (0x0212, [i], [])
  | .closeReaders i => some (0x0213, [i], [])
  | .abortOwner n => some (0x0214, [n], [])
  | .dirPut im => some (0x0221, [im.toNat], [])
  | .dirRemove i => some (0x0222, [i], [])
  | .dirFind k c => some (0x0223, [k.toNat, c.toNat], [])
  | .dirRead i => some (0x0224, [i], [])
  | .qpCreate a => some (0x0301, [a.qpn, a.type, b2n a.enc, a.ten, a.part, a.remote, a.rqpn, a.txclass, a.pmaxc, pathsVal a.paths, a.pmask,
      a.cwin, a.swin, a.rbase, a.rakidx, a.raktag, a.cq, a.ckey, a.salt.toNat, a.ridge], [])
  | .qpModify q ps m c sw x p => some (0x0302, [q, pathsVal ps, m, c, sw, x, p], [])
  | .qpDestroy q => some (0x0303, [q], [])
  | .qpClear q => some (0x0304, [q], [])
  | .keyCreate i e => some (0x0305, [i, e.toNat], [])
  | .keyDestroy i => some (0x0306, [i], [])
  | .setFence e s m => some (0x0309, [e, b2n s, sumN (m.eraseDups.map (fun n => 2 ^ n))], [])
  | .unfence e => some (0x030A, [e], [])
  | .setPolicer i t c ci pi cb pb => some (0x0311, [i, t, c, ci, pi, cb, pb], [])
  | .clearPolicer i => some (0x0312, [i], [])
  | .setTenantQuantum t q => some (0x0313, [t, q], [])
  | .loadProgram im => some (0x0401, [], im)
  | .unloadProgram s => some (0x0402, [s], [])
  | .loadTable im => some (0x0403, [], im)
  | .unloadTable s => some (0x0404, [s], [])
  | .setProjection t f n q d l r => some (0x0405, [t, f, n, q, d, l, r], [])
  | .clearProjection t f n => some (0x0406, [t, f, n], [])
  | .reset l k t _ _ _ => some (0x0501, [l, k, t], [])
  | .dormant => some (0x0502, [], [])
  | .imageWrite o bs => some (0x0503, [o], bs)
  | .imageCommit => some (0x0504, [], [])
  | _ => none

/-- The argument bytes of a command (R393). -/
def argBytes (opc : Nat) (vs : List Nat) (tail : Bytes) : Bytes :=
  let ws := ((argWidths opc).map Prod.fst).getD []
  pad8 ((ws.zip vs).flatMap (fun x => leBytes (argSize x.1) x.2) ++ tail)

/-- Whether a command is the one that the oldest envelope with its opcode asks for; one that no envelope carried stands for itself (R394; log entry 12,
DEDUCED). -/
def Dev.asked (d : Dev) (i : Instr) : Bool := match argVals i with
  | none => true
  | some (opc, vs, tail) => match d.inflight opc with
    | none => true
    | some m => decide (m.args = argBytes opc vs tail)

/-- A command with other arguments than the envelope that waits for it changes nothing. -/
def Dev.asks (i : Instr) (f : Dev → Dev) (d : Dev) : Dev := if d.asked i then f d else d

end Sys2Proof.Machine
end

