-- ==== Sys2Proof/Machine/Power.lean ====
section
/-! DEFINITION. Dormant and waking (R397, R398). -/

namespace Sys2Proof.Machine

/-- Whether the node is in Dormant or wakes from it, so that host writes are held (R398). -/
def Dev.asleep (d : Dev) : Bool := decide (d.pwr.state = .dormant ∨ d.pwr.state = .waking)

def Dev.setPower (d : Dev) (s : PState) : Dev := { d with pwr := { d.pwr with state := s } }

/-- A wake cause arrives (R398): Dormant begins to wake; an entry not yet complete is undone at once; a wake under way latches it too. -/
def Dev.wakeCause (d : Dev) (bit : Nat) : Dev :=
  match d.pwr.state with
  | .entering => ({ d with pwr := { d.pwr with state := .ready, causes := 2 ^ bit } }).escapement
  | .dormant => { d with pwr := { d.pwr with state := .waking, causes := 2 ^ bit } }
  | .waking => { d with pwr := { d.pwr with causes := d.pwr.causes ||| 2 ^ bit } }
  | _ => d

/-- Whether work handed on remains, or a link still holds packets or flits not acknowledged (Table 15.11, steps 3 and 5). -/
def Dev.busy (d : Dev) : Bool :=
  !d.atn.queue.isEmpty || !d.atn.table.isEmpty || !d.atn.clQ.isEmpty || !d.pgm.queue.isEmpty || d.pgm.seqs.any (fun q => !q.2.edits.isEmpty) ||
  !d.plc.queue.isEmpty || !d.shp.queue.isEmpty || d.shp.drafts.any (fun x => x.2.pub.isSome) || !d.waitq.isEmpty || !d.rcv.jq.isEmpty ||
  d.dma.chans.any (fun c => decide (c.2.state = 2)) ||
  d.links.any (fun l => l.2.subqs.any (fun s => !s.pkts.isEmpty) || !l.2.replay.isEmpty || !l.2.txbuf.isEmpty)

/-- An entry completes once nothing is under way: the UP links enter LPI, and ENTRIES counts (Table 15.11). Log entry 73, DEDUCED. -/
def Dev.dormTry (d : Dev) : Dev :=
  if d.pwr.state ≠ .entering || d.busy then d else
  let d := ((d.links.filter (fun l => decide (l.2.state = 2))).map Prod.fst).foldl (fun d n => d.linkState n 3) d
  (d.setPower .dormant).bump (rk 0x01300030 0) 32 1

/-- DORMANT (R397). -/
def dormantStep (d : Dev) : Dev :=
  let others := (d.pwr.inflight.filter (fun m => decide (m.opc ≠ 0x0502))).length ≠ 0 ∨ !d.pwr.waits.isEmpty ∨ !d.pwr.norOp.isEmpty ∨ d.sec.td.isSome
  match d.pwr.state with
  | .starting => d
  | .failed => d
  | .ready =>
    if d.rcv.run.isSome ∨ others then d.mgmtDone 0x0502 (stCode .shape) [] else (d.setPower .entering).mgmtDone 0x0502 0 []
  | _ => d.mgmtDone 0x0502 (stCode .shape) []

/-- LINK_PARTNER_LPI_EXIT. -/
def lpiExitStep (n : Nat) (d : Dev) : Dev :=
  match mget d.links n with
  | none => d
  | some l => if l.state = 3 then d.wakeCause 3 else d

/-- A link in LPI at the end of a wake: UP, or DOWN with one retraining (R398, R256). -/
def Dev.lpiEnd (d : Dev) (up : List Nat) (n : Nat) : Dev :=
  match mget d.links n with
  | none => d
  | some l =>
    if l.state ≠ 3 then d else
    -- entering UP fills the buckets and restarts the turn of quantum 0 (R290, R293)
    if up.contains n then (d.setLink n (fillBuckets d.tsh { l with zeroTurn := 4 })).linkState n 2 else
    let d := d.linkState n 0
    ((d.setLink n (match mget d.links n with
      | none => l
      | some l => { l with retried := false })).bump (rk (0x00C00030 + 0x4000 * n) 16) 16 1).linkState n 1

/-- The end of a wake's hold, before the held writes are applied: `up` names the links that left LPI (Table 15.12). -/
def Dev.wakeEnd (d : Dev) (up : List Nat) : Dev :=
  let d := (d.links.map Prod.fst).foldl (fun d n => d.lpiEnd up n) d
  ((d.setPower .ready).bump (rk 0x01300030 32) 32 1).escapement

end Sys2Proof.Machine
end

