-- ==== Sys2Proof/Machine/Rows.lean ====
section
/-! DEFINITION. Meanings of the commands of links, transport, egress, pool, directory, attention, ledger edits, placement and
the tier manager. Each is one operation on the device, after which what waited for it goes on. -/

namespace Sys2Proof.Machine

/-- A projection's reader handle closes once its binding is gone and no tenon admitted under it remains (R346); a fenced node changes no
handle (R227). -/
def Dev.reapProjs (d : Dev) : Dev :=
  let dead (p : Proj) : Bool := !p.live && !d.atn.table.any (fun e => decide (e.2.proj = some p.reader))
  let go := d.shp.projs.filter dead
  if go.isEmpty || d.trn.fenced then d else
  let d := go.foldl (fun d p => d.closeReader p.reader) d
  ({ d with shp := { d.shp with projs := d.shp.projs.filter (fun p => !go.contains p) } }).poolReap

/-- What goes on after a command: waiting commands, bindings, function events, pressure, tenons that waited, the node channels'
transfers, and an entry into Dormant. -/
def Dev.after (d : Dev) (qb : QBuf) : Dev := (((d.settle.dataDone.settlePlace.reapProjs.deletedDown.failLater.fnSettle.pressure).poke qb).nodeDma).dormTry

/-- The journal port of the block that found an entry's event: of the unit that a fault names, of one block for the other types (Table 14.4; log entry
91, DEDUCED). -/
def JEnt.port (e : JEnt) : Nat :=
  let kind := match wf e.data 96 8, wf e.data 112 8 with
    | 2, _ => 11
    | 3, _ => 11
    | 4, _ => 11
    | 5, 1 => 11
    | 5, 2 => 7
    | 5, 3 => 13
    | 5, 4 => 12
    | 5, _ => 7
    | 6, _ => 13
    | 10, _ => 7
    | _, _ => 14
  if [1, 11].contains (wf e.data 96 8) then wf e.data 144 16 else kind * 4096

/-- Whether the work unit that found an event is held (R377): the queue of 64 entries is full, and the port of its block is occupied by an entry that
waits there. -/
def Dev.portHeld (d d' : Dev) : Bool :=
  decide (64 ≤ d.rcv.jq.length) &&
    (d'.rcv.jq.drop d.rcv.jq.length).any (fun e => (d.rcv.jq.drop 64).any (fun o => decide (o.port = e.port)))

/-- A command's effect on the device, and what goes on after it. A command that finds a journalled event while its block's port is occupied waits. -/
def State.run (s : State) (f : Dev → Dev) : Host.Outcome State Fault Refusal :=
  if s.dev.portHeld (f s.dev) then .next s else .next { s with dev := (f s.dev).after s.qb }

/-- The same for a command that also writes the query buffer. -/
def State.runQ (s : State) (f : QBuf → Dev → QBuf × Dev) : Host.Outcome State Fault Refusal :=
  let r := f s.qb s.dev
  if s.dev.portHeld r.2 then .next s else .next { s with qb := r.1, dev := r.2.after r.1 }

/-- A unit that has stopped takes no work: what reaches it waits (R360). -/
def Dev.gateUnit (u : Nat) (f : Dev → Dev) (d : Dev) : Dev := if d.isStopped u then d else f d
/-- The same for the blocks that a command needs, by ENGINE kind (Table 14.3). Log entry 78, DEDUCED. -/
def Dev.gate (ks : List Nat) (f : Dev → Dev) (d : Dev) : Dev := if ks.any (fun k => d.isStopped (k * 4096)) then d else f d
/-- The same for a message of a QP, whose partition's reset holds it too (R369). -/
def Dev.gateQp (qpn : Nat) (f : Dev → Dev) (d : Dev) : Dev := if d.isStopped (7 * 4096) || d.qpHeld qpn then d else f d
/-- The same for a message that writes the query buffer. -/
def gateQpQ (qpn : Nat) (f : QBuf → Dev → QBuf × Dev) (qb : QBuf) (d : Dev) : QBuf × Dev :=
  if d.isStopped (7 * 4096) || d.qpHeld qpn then (qb, d) else f qb d
/-- The same for a command that writes the query buffer. -/
def gateQ (u : Nat) (f : QBuf → Dev → QBuf × Dev) (qb : QBuf) (d : Dev) : QBuf × Dev := if d.isStopped u then (qb, d) else f qb d

/-- FLIT_RECEIVE (R253, R254). -/
def execFlitReceive (link : Nat) (flit : Bytes) (fec : FlitFec) (s : State) : Host.Outcome State Fault Refusal :=
  s.run (Dev.gateUnit (6 * 4096 + link) (flitStep link flit fec.ok fec.corrected fec.uncorrected))
/-- LINK_LOSS (R256, R274, R287). -/
def execLinkLoss (link : Nat) (s : State) : Host.Outcome State Fault Refusal := s.run (fun d => (lossStep link d))
/-- LINK_TRAINING_COMPLETE (R255, R256). -/
def execLinkTrainingComplete (link : Nat) (r : Option Ident) (s : State) : Host.Outcome State Fault Refusal := s.run (Dev.gateUnit (6 * 4096 + link) (trainedStep link r))
/-- RETRAIN (R256). -/
def execRetrain (link : Nat) (s : State) : Host.Outcome State Fault Refusal := s.run (retrainStep link)
/-- PACKET_INGRESS (R261). -/
def execPacketIngress (link : Nat) (hdr : W512) (payload : Bytes) (s : State) : Host.Outcome State Fault Refusal :=
  s.run (Dev.gate [7] (ingressStep link (hdr, payload)))
/-- QP_CONTEXT_FETCH_DONE (R267). -/
def execQpContextFetchDone (qpn : Nat) (image : Bytes) (s : State) : Host.Outcome State Fault Refusal := s.run (Dev.gate [7] (fetchDoneStep qpn image))
/-- QP_CONTEXT_EVICT (R268). -/
def execQpContextEvict (qpn : Nat) (s : State) : Host.Outcome State Fault Refusal := s.run (Dev.gate [7] (evictStep qpn))
/-- ACCESS_KEY_FETCH_DONE (R270). -/
def execAccessKeyFetchDone (idx : Nat) (s : State) : Host.Outcome State Fault Refusal := s.run (Dev.gate [7] (keyFetchStep idx))
/-- SUBMIT_HAND_ON (R272). -/
def execSubmitHandOn (qpn : Nat) (s : State) : Host.Outcome State Fault Refusal := s.run (Dev.gateQp qpn (fun d => if d.awake then handOnStep qpn d else d))
/-- WRITE_IMM_COMPLETION (R310). -/
def execWriteImmCompletion (cq : Nat) (s : State) : Host.Outcome State Fault Refusal := s.run (Dev.gate [7] (fun d => (immStep cq d)))
/-- READ (R259). -/
def execRead (qpn msn : Nat) (s : State) : Host.Outcome State Fault Refusal := s.run (Dev.gateQp qpn (readStep qpn msn s.qb))
/-- CREDIT (R276). -/
def execCredit (qpn : Nat) (s : State) : Host.Outcome State Fault Refusal := s.run (Dev.gate [7] (creditStep qpn))
/-- RESYNC (R273). -/
def execResync (qpn : Nat) (s : State) : Host.Outcome State Fault Refusal := s.run (Dev.gate [7] (fun d => (resyncStep qpn d)))
/-- EGRESS_ENQUEUE (R285). -/
def execEgressEnqueue (link : Nat) (s : State) : Host.Outcome State Fault Refusal := s.run (Dev.gateUnit (6 * 4096 + link) (fun d => (enqueueStep link d)))
/-- SCHEDULER_PICK (R288). -/
def execSchedulerPick (link : Nat) (s : State) : Host.Outcome State Fault Refusal := s.run (Dev.gateUnit (6 * 4096 + link) (fun d => (schedStep link d)))
/-- POLICER_REFILL (R293). -/
def execPolicerRefill (link : Nat) (s : State) : Host.Outcome State Fault Refusal := s.run (refillStep link)
/-- SET_POLICER (R297). -/
def execSetPolicer (inst ten cls cinc pinc cbs pbs : Nat) (s : State) : Host.Outcome State Fault Refusal :=
  s.run (Dev.asks (.setPolicer inst ten cls cinc pinc cbs pbs) (fun d => if d.ready then setPolicerStep inst ⟨ten, cls, cinc, pinc, cbs, pbs⟩ d else d))
/-- CLEAR_POLICER (R297). -/
def execClearPolicer (inst : Nat) (s : State) : Host.Outcome State Fault Refusal :=
  s.run (Dev.asks (.clearPolicer inst) (fun d => if d.ready then clearPolicerStep inst d else d))
/-- SET_TENANT_QUANTUM (R291). -/
def execSetTenantQuantum (ten q : Nat) (s : State) : Host.Outcome State Fault Refusal :=
  s.run (Dev.asks (.setTenantQuantum ten q) (fun d => if d.ready then quantumStep ten q d else d))
/-- QP_CREATE (R265). -/
def execQpCreate (a : QpArgs) (s : State) : Host.Outcome State Fault Refusal :=
  s.run (Dev.asks (.qpCreate a) (qpCreateStep a))
/-- QP_MODIFY (Table 10.9). -/
def execQpModify (qpn : Nat) (paths : List Nat) (pmask cwin swin txclass pmaxc : Nat) (s : State) : Host.Outcome State Fault Refusal :=
  s.run (Dev.asks (.qpModify qpn paths pmask cwin swin txclass pmaxc) (qpModifyStep qpn paths pmask cwin swin txclass pmaxc))
/-- QP_DESTROY (Table 10.9). -/
def execQpDestroy (qpn : Nat) (s : State) : Host.Outcome State Fault Refusal :=
  s.run (Dev.asks (.qpDestroy qpn) (qpDestroyStep qpn))
/-- QP_CLEAR (Table 10.9). -/
def execQpClear (qpn : Nat) (s : State) : Host.Outcome State Fault Refusal :=
  s.run (Dev.asks (.qpClear qpn) (qpClearStep qpn))
/-- KEY_CREATE (R270). -/
def execKeyCreate (idx : Nat) (entry : BitVec 256) (s : State) : Host.Outcome State Fault Refusal :=
  s.run (Dev.asks (.keyCreate idx entry) (keyCreateStep idx entry))
/-- KEY_DESTROY (R270). -/
def execKeyDestroy (idx : Nat) (s : State) : Host.Outcome State Fault Refusal :=
  s.run (Dev.asks (.keyDestroy idx) (keyDestroyStep idx))
/-- SET_RIDGE (R279). -/
def execSetRidge (idx intake onward : Nat) (cs : List Nat) (s : State) : Host.Outcome State Fault Refusal :=
  s.run (setRidgeStep idx intake onward cs)
/-- OPEN_VERSION (R218). -/
def execOpenVersion (s : State) : Host.Outcome State Fault Refusal := s.run (Dev.gate [12] (poolRow 0 openVersionGo s.qb))
/-- CLOSE_VERSION (R218). -/
def execCloseVersion (s : State) : Host.Outcome State Fault Refusal := s.run (Dev.gate [12] (fun d => (poolRow 1 closeVersionGo s.qb d)))
/-- OPEN_DRAFT (R219). -/
def execOpenDraft (s : State) : Host.Outcome State Fault Refusal := s.run (Dev.gate [12] (poolRow 2 openDraftGo s.qb))
/-- POOL_WRITE (R220). -/
def execPoolWrite (fs : List ColFault) (s : State) : Host.Outcome State Fault Refusal := s.run (Dev.gate [12] (poolRow 3 (poolWriteGo fs) s.qb))
/-- DISCARD (R225). -/
def execDiscard (s : State) : Host.Outcome State Fault Refusal := s.run (Dev.gate [12] (fun d => (poolRow 4 discardGo s.qb d)))
/-- PUBLISH (R222). -/
def execPublish (fs : List ColFault) (s : State) : Host.Outcome State Fault Refusal := s.run (Dev.gate [12, 4] (fun d => (poolRow 5 (publishGo fs) s.qb d)))
/-- POOL_PUBLISH_SWAP (R222). -/
def execPoolPublishSwap (draft : Nat) (s : State) : Host.Outcome State Fault Refusal := s.run (Dev.gate [12] (fun d => (swapStep draft d)))
/-- GATHER (R229). -/
def execGather (fs : List ColFault) (s : State) : Host.Outcome State Fault Refusal := s.run (Dev.gate [12, 4] (poolRow 6 (gatherStep fs s.qb) s.qb))
/-- DRAFT_ABORT (R226). -/
def execDraftAbort (s : State) : Host.Outcome State Fault Refusal := s.run (Dev.gate [12] (fun d => (draftAbortStep d)))
/-- PNOW_ADVANCE (R231). -/
def execPnowAdvance (s : State) : Host.Outcome State Fault Refusal := s.run (Dev.gate [12] pnowStep)
/-- SHP_QCMD_GO (Table 8.10). -/
def execShpQcmdGo (s : State) : Host.Outcome State Fault Refusal := s.run (Dev.gate [12] (fun d => if d.awake then shpQcmdStep d else d))
/-- CREATE_REGION (Table 8.5). -/
def execCreateRegion (idx : Nat) (p : RegionProps) (s : State) : Host.Outcome State Fault Refusal :=
  s.run (Dev.asks (.createRegion idx p) (createRegionStep idx p))
/-- DELETE_REGION (Table 8.5). -/
def execDeleteRegion (idx : Nat) (s : State) : Host.Outcome State Fault Refusal :=
  s.run (Dev.asks (.deleteRegion idx) (fun d => (deleteRegionStep idx d)))
/-- CLOSE_READERS (Table 8.5). -/
def execCloseReaders (idx : Nat) (s : State) : Host.Outcome State Fault Refusal :=
  s.run (Dev.asks (.closeReaders idx) (fun d => (closeReadersStep idx d)))
/-- ABORT_OWNER (Table 8.5). -/
def execAbortOwner (node : Nat) (s : State) : Host.Outcome State Fault Refusal :=
  s.run (Dev.asks (.abortOwner node) (fun d => (abortOwnerStep node d)))
/-- DIR_PUT (R248). -/
def execDirPut (image : W512) (s : State) : Host.Outcome State Fault Refusal :=
  s.run (Dev.asks (.dirPut image) (Dev.gate [8] (dirPutStep image)))
/-- DIR_REMOVE (R248). -/
def execDirRemove (idx : Nat) (s : State) : Host.Outcome State Fault Refusal :=
  s.run (Dev.asks (.dirRemove idx) (Dev.gate [8] (dirRemoveStep idx)))
/-- DIR_FIND (R237). -/
def execDirFind (key : BitVec 112) (cursor : W32) (s : State) : Host.Outcome State Fault Refusal :=
  s.run (Dev.asks (.dirFind key cursor) (Dev.gate [8] (dirFindStep key cursor)))
/-- DIR_READ (R248). -/
def execDirRead (idx : Nat) (s : State) : Host.Outcome State Fault Refusal :=
  s.run (Dev.asks (.dirRead idx) (Dev.gate [8] (dirReadStep idx)))
/-- DIR_QCMD_GO (R237): GO clears DONE, whatever keeps the search from running (Table 9.11). -/
def execDirQcmdGo (s : State) : Host.Outcome State Fault Refusal :=
  s.run (fun d => Dev.gate [8] (fun d => if d.awake then dirQcmdStep d else d) (d.setReg (rk 0x00A00128 63) 0))
/-! ### Messages that write the query buffer (R40) -/

/-- Bytes that a message is about to place: address and length of each packet. -/
def Dev.msgSpans (d : Dev) (op qpn msn : Nat) : List (Nat × Nat) :=
  match d.theMsg qpn msn op with
  | none => []
  | some (_, m) => m.pkts.map (fun p => (hAddr p.hdr, hPlen p.hdr))

/-- WRITE and WRITE_IMM, with R40 for the tenons whose queries they overwrite. -/
def writeQ (op qpn msn : Nat) (qb : QBuf) (d : Dev) : QBuf × Dev :=
  let r := writeStep op qpn msn qb d
  (r.1, (d.msgSpans op qpn msn).foldl (fun d s => d.overwrite s.1 s.2 (some (qpn, msn))) r.2)

/-- WRITE (R272). -/
def execWrite (qpn msn : Nat) (s : State) : Host.Outcome State Fault Refusal := s.runQ (gateQpQ qpn (writeQ 0 qpn msn))
/-- WRITE_IMM (R272). -/
def execWriteImm (qpn msn : Nat) (s : State) : Host.Outcome State Fault Refusal := s.runQ (gateQpQ qpn (writeQ 1 qpn msn))

/-- ATOMIC, with R40. -/
def atomicQ (qpn msn : Nat) (qb : QBuf) (d : Dev) : QBuf × Dev :=
  let r := atomicStep qpn msn qb d
  (r.1, match d.servable qpn msn 4 with
    | some (_, m) => r.2.overwrite m.addr 8 (some (qpn, msn))
    | none => r.2)

/-- ATOMIC (R259). -/
def execAtomic (qpn msn : Nat) (s : State) : Host.Outcome State Fault Refusal := s.runQ (gateQpQ qpn (atomicQ qpn msn))
/-- PARTIAL (R60, R423). -/
def execPartialMsg (qpn msn : Nat) (s : State) : Host.Outcome State Fault Refusal := s.run (Dev.gateQp qpn (partialStep qpn msn))
/-- CANCEL_RIDGE (R60). -/
def execCancelRidge (idx : Nat) (tag : Option Nat) (s : State) : Host.Outcome State Fault Refusal :=
  s.run (fun d => d.cmd 0x0308 (mget d.trn.ridges idx).isSome .shape (fun d => d.ridgeCancel idx tag))

/-! ### Attention -/

/-- TENON (R20, R32). -/
def execTenon (s : State) : Host.Outcome State Fault Refusal := s.run (Dev.gate [9] (tenonStep s.qb))
/-- LEAF_BLOCK_READ_DONE (R20). -/
def execLeafBlockReadDone (addr : Nat) (fault : Option ColKind) (s : State) : Host.Outcome State Fault Refusal :=
  s.run (Dev.gate [9] (leafDoneStep s.qb addr fault))
/-- CLUSTER_WORK_ORDER (R424). -/
def execClusterWorkOrder (faults : List ColFault) (s : State) : Host.Outcome State Fault Refusal := s.run (Dev.gate [9] (clusterStep faults s.phys))
/-- FRAME_ORDER (R86). -/
def execFrameOrder (stack : Nat) (faults : List ColFault) (s : State) : Host.Outcome State Fault Refusal := s.run (frameOrderStep stack faults)
/-- SLOT_BOUNDARY (R90). -/
def execSlotBoundary (stack die group bank : Nat) (arrivals : List Claim) (faults : List ColFault) (s : State) : Host.Outcome State Fault Refusal :=
  s.run (fun d => (slotStep stack die group bank arrivals faults s.phys d).fillSend faults)
/-- REFRESH_DUE (R91). -/
def execRefreshDue (stack die group bank : Nat) (s : State) : Host.Outcome State Fault Refusal :=
  s.run (fun d => if d.asleep then d else refreshStep stack die group bank d)
/-- ACTIVITY_WINDOW (R106). -/
def execActivityWindow (stack : Nat) (s : State) : Host.Outcome State Fault Refusal := s.run (windowStep stack)
/-- STACK_MERGE (R101). -/
def execStackMerge (stack tidx : Nat) (s : State) : Host.Outcome State Fault Refusal := s.run (Dev.gateUnit (3 * 4096 + stack) (stackMergeStep stack tidx))
/-- FAULT_REPORT (R26). -/
def execFaultReport (s : State) : Host.Outcome State Fault Refusal := s.run (Dev.gate [9] faultReportStep)
/-- TENON_MERGE (R56). -/
def execTenonMerge (read : MergeRead) (s : State) : Host.Outcome State Fault Refusal := s.run (Dev.gate [9] (tenonMergeStep read.tidx read.faults))

/-- REGULATOR_LEVEL_CHANGE (R105): a core die's sensor is read and its level moves; reaching level 4 is journalled. -/
def execRegulatorLevelChange (stack die : Nat) (temp : Int) (s : State) : Host.Outcome State Fault Refusal :=
  if 8 ≤ stack ∨ 16 ≤ die then .next s else
  let k := 16 * stack + die
  let o := mget s.phys.dies k
  let t := dieMeasure o temp
  let d := if t.level = 4 ∧ (o.map DieTherm.level).getD 0 ≠ 4 then s.dev.journal (hotDie stack die) [] else s.dev
  if s.dev.portHeld d then .next s else .next { s with phys := { s.phys with dies := mset s.phys.dies k t }, dev := d }

/-- CLUSTER_LEVEL_CHANGE (R395). -/
def execClusterLevelChange (cluster : Nat) (temp : Int) (s : State) : Host.Outcome State Fault Refusal :=
  if 24 ≤ cluster then .next s else
  let cls := mset s.phys.cls cluster (clMeasure (mget s.phys.cls cluster) temp)
  let hot := cls.foldl (fun m c => max m c.2.temp) temp
  .next { s with phys := { s.phys with cls := cls, mainT := hot, mainPk := peakOf s.phys.mainPk hot } }

/-! ### Edits and sequence commands -/

/-- APPEND (R133, R137). -/
def execAppend (slot : Nat) (faults : List ColFault) (s : State) : Host.Outcome State Fault Refusal := s.run (Dev.gate [10] (editRow 0 slot faults s.qb))
/-- TRIM (R133). -/
def execTrim (slot : Nat) (s : State) : Host.Outcome State Fault Refusal := s.run (Dev.gate [10] (editRow 1 slot [] s.qb))
/-- KEEP (R133). -/
def execKeep (slot : Nat) (faults : List ColFault) (s : State) : Host.Outcome State Fault Refusal := s.run (Dev.gate [10] (editRow 2 slot faults s.qb))
/-- FORK (R141). -/
def execFork (slot : Nat) (faults : List ColFault) (s : State) : Host.Outcome State Fault Refusal := s.run (Dev.gate [10] (editRow 3 slot faults s.qb))
/-- EDIT_PUBLISH (R128, R129). -/
def execEditPublish (slot : Nat) (s : State) : Host.Outcome State Fault Refusal := s.run (Dev.gate [10] (editPublishStep slot))
/-- OPEN (R183). -/
def execOpenSeq (s : State) : Host.Outcome State Fault Refusal := s.run (Dev.gate [10] openStep)
/-- CLOSE (R186). -/
def execCloseSeq (slot : Nat) (s : State) : Host.Outcome State Fault Refusal := s.run (Dev.gate [10] (editRow 4 slot [] s.qb))

/-! ### Placement messages -/

/-- OFFER (R193). -/
def execOffer (faults : List ColFault) (s : State) : Host.Outcome State Fault Refusal := s.run (Dev.gate [11] (fun d => placeRow 0 offerGo (d.eccAll faults)))
/-- ACCEPT (R192). -/
def execAccept (s : State) : Host.Outcome State Fault Refusal := s.run (Dev.gate [11] acceptStep)
/-- COMMIT (R192). -/
def execCommit (s : State) : Host.Outcome State Fault Refusal := s.run (Dev.gate [11] (placeRow 2 commitGo))
/-- CLAIMED (R192). -/
def execClaimed (s : State) : Host.Outcome State Fault Refusal := s.run (Dev.gate [11] (silentRow 3 claimedGo))
/-- CLAIM (R196). -/
def execClaim (s : State) : Host.Outcome State Fault Refusal := s.run (Dev.gate [11] (placeRow 4 claimGo))
/-- DECLINE (R192). -/
def execDecline (s : State) : Host.Outcome State Fault Refusal := s.run (Dev.gate [11] (silentRow 5 (declineGo Dev.endFill)))
/-- RELEASE (R197). -/
def execRelease (s : State) : Host.Outcome State Fault Refusal := s.run (Dev.gate [11] (placeRow 6 releaseGo))
/-- MIRROR_EDIT (R201). -/
def execMirrorEdit (s : State) : Host.Outcome State Fault Refusal := s.run (Dev.gate [11] (placeRow 7 mirrorEditGo))
/-- MIRROR_ACK (R201). -/
def execMirrorAck (s : State) : Host.Outcome State Fault Refusal := s.run (Dev.gate [11] (silentRow 8 mirrorAckGo))
/-- SHADOW (R200). -/
def execShadow (s : State) : Host.Outcome State Fault Refusal := s.run (Dev.gate [11] (placeRowWith 9 (shadowNo Dev.endFill) (shadowGo Dev.endFill Dev.finishFill)))

/-! ### The tier manager -/

/-- TNOW_ADVANCE (R172). -/
def execTnowAdvance (s : State) : Host.Outcome State Fault Refusal := s.run (Dev.gate [11] tnowStep)
/-- TNOW_REBASE (R173). -/
def execTnowRebase (s : State) : Host.Outcome State Fault Refusal := s.run (Dev.gate [11] tnowRebaseStep)
/-- PROMOTION (R175, R177). -/
def execPromotion (id : RunId) (faults : List ColFault) (s : State) : Host.Outcome State Fault Refusal := s.run (Dev.gate [11] (fun d => if d.awake then promotionStep id faults d else d))
/-- DEMOTION (R177). -/
def execDemotion (id : RunId) (faults : List ColFault) (s : State) : Host.Outcome State Fault Refusal := s.run (Dev.gate [11] (fun d => if d.awake then demotionStep id faults d else d))
/-- LENDING (R178, R192). -/
def execLending (id : RunId) (faults : List ColFault) (s : State) : Host.Outcome State Fault Refusal := s.run (Dev.gate [11] (fun d => if d.awake then lendingStep id faults d else d))
/-- SPILL (R178, R187). -/
def execSpill (id : RunId) (run : SpillRun) (s : State) : Host.Outcome State Fault Refusal :=
  s.run (Dev.gate [11, 4] (fun d => if d.awake then spillStep id run.faults run.bus d else d))
/-- STAGE_BACK (R188). -/
def execStageBack (id : RunId) (image : Bytes) (s : State) : Host.Outcome State Fault Refusal := s.run (Dev.gate [11, 4] (stageBackStep id image))
/-- RETURN (R175). -/
def execReturnRun (id : RunId) (faults : List ColFault) (s : State) : Host.Outcome State Fault Refusal := s.run (Dev.gate [11] (fun d => if d.awake then returnStep id faults d else d))
/-- TILE_REREAD (R206). -/
def execTileReread (id : RunId) (faults : List ColFault) (s : State) : Host.Outcome State Fault Refusal := s.run (Dev.gate [11] (tileRereadStep id faults))
/-- PLC_QCMD_GO (Table 7.19). -/
def execPlcQcmdGo (s : State) : Host.Outcome State Fault Refusal := s.run (Dev.gate [11] (fun d => if d.awake then plcQcmdStep d else d))

/-! ### Placement commands (Table 7.12) -/

/-- SET_PLACEMENT (R169). -/
def execSetPlacement (ten quota tiers peers : Nat) (s : State) : Host.Outcome State Fault Refusal :=
  s.run (Dev.asks (.setPlacement ten quota tiers peers) (setPlacementStep ten quota tiers peers))
/-- SET_MIRROR (R199). -/
def execSetMirror (ten : Nat) (mirror : MirrorTo) (s : State) : Host.Outcome State Fault Refusal := s.run (setMirrorStep ten mirror.node mirror.faults)
/-- RECONCILE (R196). -/
def execReconcile (id : RunId) (count peer : Nat) (s : State) : Host.Outcome State Fault Refusal :=
  s.run (Dev.asks (.reconcile id count peer) (reconcileStep id count peer))
/-- ADOPT_HOME (R198). -/
def execAdoptHome (id : RunId) (e : Nat) (s : State) : Host.Outcome State Fault Refusal :=
  s.run (Dev.asks (.adoptHome id e) (adoptHomeStep id e))
/-- DISCARD_PENDING (R198). -/
def execDiscardPending (id : RunId) (s : State) : Host.Outcome State Fault Refusal :=
  s.run (Dev.asks (.discardPending id) (discardPendingStep id))
/-- PROMOTE (R203). -/
def execPromote (ten failed : Nat) (s : State) : Host.Outcome State Fault Refusal :=
  s.run (Dev.asks (.promote ten failed) (promoteStep ten failed))
/-- FILL_SPARE (R204). -/
def execFillSpare (ten mirror failed : Nat) (s : State) : Host.Outcome State Fault Refusal :=
  s.run (Dev.asks (.fillSpare ten mirror failed) (fillSpareStep ten mirror failed))
/-- CANCEL_FILL (R204). -/
def execCancelFill (ten : Nat) (s : State) : Host.Outcome State Fault Refusal :=
  s.run (Dev.asks (.cancelFill ten) (cancelFillStep ten))

end Sys2Proof.Machine
end

