-- ==== Sys2Proof/Machine/HostRows.lean ====
section
/-! DEFINITION. Meanings of the commands of the host interface: doorbells, entries, channels, function events, the apertures, and the
wake that applies held writes. -/

namespace Sys2Proof.Machine

/-- The effect of a BAR2 or BAR4 write that a wake held (R398). -/
def heldWrite (i : Instr) (qb : QBuf) (d : Dev) : QBuf × Dev :=
  match i with
  | .sqTailDoorbell f s v => (qb, sqTailStep f s v.value v.tbit d)
  | .cqHeadDoorbell f c v => (qb, cqHeadStep f c v.value v.tbit d)
  | .channelTailDoorbell f c v => (qb, chTailStep f c v.value v.tbit d)
  | .adminSqTailDoorbell f v => (qb, asqTailStep f v.value v.tbit d)
  | .adminCqHeadDoorbell f v => (qb, acqHeadStep f v.value v.tbit d)
  | .eqHeadDoorbell f v => (qb, eqHeadStep f v.value v.tbit d)
  | .functionEnable w => (qb, fnEnableStep w.fn w.tbit d)
  | .functionRelease w => (qb, fnReleaseStep w.fn w.tbit d)
  | .queryApertureWrite f a bs t => queryWriteStep f a bs t qb d
  | .registerWrite ⟨.bar2 f t, off, w, v⟩ => (qb, bar2Write f t off w v d)
  | .restart w => restartStep w.ch w.page qb d
  | .skip w => (qb, skipStep w.ch w.page d)
  | .w1cRegisterWrite ⟨.bar2 f t, off, w, v⟩ hw => (qb, bar2Clear f t off w v hw d)
  | _ => (qb, d)

/-- Held writes applied in order. -/
def heldWrites : List Instr → QBuf → Dev → QBuf × Dev
  | [], qb, d => (qb, d)
  | i :: r, qb, d => let x := heldWrite i qb d
                     heldWrites r x.1 x.2

/-- A BAR2 or BAR4 write: a wake cause, held while the node is asleep (R398). -/
def barWrite (i : Instr) (f : QBuf → Dev → QBuf × Dev) (qb : QBuf) (d : Dev) : QBuf × Dev :=
  let d := d.wakeCause 1
  if d.asleep then (qb, { d with dma := { d.dma with heldWrites := d.dma.heldWrites ++ [i] } }) else f qb d

/-- A write that touches the device alone. -/
def barDev (i : Instr) (f : Dev → Dev) : QBuf → Dev → QBuf × Dev := barWrite i (fun qb d => (qb, f d))

/-- SQ_TAIL_DOORBELL (R308). -/
def execSqTailDoorbell (fn sq : Nat) (v : RingWrite) (s : State) : Host.Outcome State Fault Refusal :=
  s.runQ (barDev (.sqTailDoorbell fn sq v) (sqTailStep fn sq v.value v.tbit))
/-- CQ_HEAD_DOORBELL (R308). -/
def execCqHeadDoorbell (fn cq : Nat) (v : RingWrite) (s : State) : Host.Outcome State Fault Refusal :=
  s.runQ (barDev (.cqHeadDoorbell fn cq v) (cqHeadStep fn cq v.value v.tbit))
/-- CHANNEL_TAIL_DOORBELL (R308). -/
def execChannelTailDoorbell (fn ch : Nat) (v : RingWrite) (s : State) : Host.Outcome State Fault Refusal :=
  s.runQ (barDev (.channelTailDoorbell fn ch v) (chTailStep fn ch v.value v.tbit))
/-- ADMIN_SQ_TAIL_DOORBELL (Table 12.12). -/
def execAdminSqTailDoorbell (fn : Nat) (v : RingWrite) (s : State) : Host.Outcome State Fault Refusal :=
  s.runQ (barDev (.adminSqTailDoorbell fn v) (asqTailStep fn v.value v.tbit))
/-- ADMIN_CQ_HEAD_DOORBELL (Table 12.12). -/
def execAdminCqHeadDoorbell (fn : Nat) (v : RingWrite) (s : State) : Host.Outcome State Fault Refusal :=
  s.runQ (barDev (.adminCqHeadDoorbell fn v) (acqHeadStep fn v.value v.tbit))
/-- EQ_HEAD_DOORBELL (Table 12.12). -/
def execEqHeadDoorbell (fn : Nat) (v : RingWrite) (s : State) : Host.Outcome State Fault Refusal :=
  s.runQ (barDev (.eqHeadDoorbell fn v) (eqHeadStep fn v.value v.tbit))
/-- FUNCTION_ENABLE (Table 12.12). -/
def execFunctionEnable (w : FnWrite) (s : State) : Host.Outcome State Fault Refusal := s.runQ (barDev (.functionEnable w) (fnEnableStep w.fn w.tbit))
/-- FUNCTION_RELEASE (R329). -/
def execFunctionRelease (w : FnWrite) (s : State) : Host.Outcome State Fault Refusal := s.runQ (barDev (.functionRelease w) (fnReleaseStep w.fn w.tbit))
/-- QUERY_APERTURE_WRITE (R319). -/
def execQueryApertureWrite (fn addr : Nat) (data : Bytes) (tbit : Bool) (s : State) : Host.Outcome State Fault Refusal :=
  s.runQ (barWrite (.queryApertureWrite fn addr data tbit) (queryWriteStep fn addr data tbit))
/-- PARTIAL_APERTURE_WRITE: discarded (R320); it still wakes the node (R398). -/
def execPartialApertureWrite (fn addr : Nat) (data : Bytes) (tbit : Bool) (s : State) : Host.Outcome State Fault Refusal :=
  s.runQ (barDev (.partialApertureWrite fn addr data tbit) id)
/-- SQ_ENTRY (R313). -/
def execSqEntry (fn sq : Nat) (entry : BitVec 2048) (lines : DptrRead) (s : State) : Host.Outcome State Fault Refusal :=
  s.run (sqEntryStep fn sq entry lines s.qb)
/-- CHANNEL_DESCRIPTOR (R322). -/
def execChannelDescriptor (ch : Nat) (desc : W512) (s : State) : Host.Outcome State Fault Refusal := s.runQ (gateQ (5 * 4096 + ch) (channelStep ch desc))
/-- DMA_READ_COMPLETION (R325). -/
def execDmaReadCompletion (ch : Nat) (data : Bytes) (s : State) : Host.Outcome State Fault Refusal := s.runQ (gateQ (5 * 4096 + ch) (readDoneStep ch data))
/-- BUS_ERROR (R327). -/
def execBusError (ch cause : Nat) (addr : W64) (s : State) : Host.Outcome State Fault Refusal := s.run (busErrorStep ch cause addr)
/-- A write of a channel's control register: of DMA_CP_CTL it is a BAR2 write, in the order of its function (R307). -/
def ctlWrite (i : Instr) (page : Option Bool) (f : QBuf → Dev → QBuf × Dev) : QBuf → Dev → QBuf × Dev :=
  match page with
  | none => f
  | some _ => barWrite i f
/-- RESTART (R327). -/
def execRestart (w : ChWrite) (s : State) : Host.Outcome State Fault Refusal := s.runQ (ctlWrite (.restart w) w.page (restartStep w.ch w.page))
/-- SKIP (R327). -/
def execSkip (w : ChWrite) (s : State) : Host.Outcome State Fault Refusal :=
  s.runQ (ctlWrite (.skip w) w.page (fun qb d => (qb, skipStep w.ch w.page d)))
/-- CREATE_CQ (Table 12.6). -/
def execCreateCq (fn : Nat) (entry : W512) (s : State) : Host.Outcome State Fault Refusal := s.run (createCqStep fn entry)
/-- DELETE_CQ (Table 12.6). -/
def execDeleteCq (fn : Nat) (entry : W512) (s : State) : Host.Outcome State Fault Refusal := s.run (deleteCqStep fn entry)
/-- CREATE_SQ (Table 12.6). -/
def execCreateSq (fn : Nat) (entry : W512) (s : State) : Host.Outcome State Fault Refusal := s.run (createSqStep fn entry)
/-- DELETE_SQ (Table 12.6). -/
def execDeleteSq (fn : Nat) (entry : W512) (s : State) : Host.Outcome State Fault Refusal := s.run (deleteSqStep fn entry)
/-- SET_CHANNEL (Table 12.6). -/
def execSetChannel (fn : Nat) (entry : W512) (s : State) : Host.Outcome State Fault Refusal := s.run (setChannelStep fn entry)
/-- SET_SPILL_AREA (Table 12.6). -/
def execSetSpillArea (fn : Nat) (entry : W512) (s : State) : Host.Outcome State Fault Refusal := s.run (setSpillStep fn entry)
/-- SET_QP_TABLE (Table 12.6). -/
def execSetQpTable (fn : Nat) (entry : W512) (s : State) : Host.Outcome State Fault Refusal := s.run (setQptStep fn entry)
/-- FUNCTION_LEVEL_RESET (R329). -/
def execFunctionLevelReset (fn : Nat) (s : State) : Host.Outcome State Fault Refusal := s.run (flrStep fn)
/-- TDI_ERROR (R304). -/
def execTdiError (fn : Nat) (s : State) : Host.Outcome State Fault Refusal := s.run (tdiErrorStep fn)
/-- STOP_INTERFACE (R304). -/
def execStopInterface (fn : Nat) (s : State) : Host.Outcome State Fault Refusal := s.run (tdiMove [2, 3, 4] 1 fn)
/-- LOCK_INTERFACE (R304). -/
def execLockInterface (fn : Nat) (s : State) : Host.Outcome State Fault Refusal := s.run (tdiMove [1] 2 fn)
/-- START_INTERFACE (R304). -/
def execStartInterface (fn : Nat) (s : State) : Host.Outcome State Fault Refusal := s.run (tdiMove [2] 3 fn)
/-- PCIE_LINK_LOSS (R329). -/
def execPcieLinkLoss (s : State) : Host.Outcome State Fault Refusal := s.run pcieLossStep
/-- IDE_CHECK_FAILURE (R303). -/
def execIdeCheckFailure (stream : Nat) (hit : IdeHit) (s : State) : Host.Outcome State Fault Refusal := s.run (ideFailStep stream hit.ch hit.addr)
/-- DORMANT (R397). -/
def execDormant (s : State) : Host.Outcome State Fault Refusal :=
  s.run (Dev.asks .dormant dormantStep)
/-- WAKE (R398): PWR_CTL.WAKE is ignored unless the node enters Dormant or is in it. -/
def execWake (s : State) : Host.Outcome State Fault Refusal :=
  s.run (fun d => if d.pwr.state = .entering ∨ d.pwr.state = .dormant then d.wakeCause 0 else d)
/-- LINK_PARTNER_LPI_EXIT (R398). -/
def execLinkPartnerLpiExit (link : Nat) (s : State) : Host.Outcome State Fault Refusal := s.run (lpiExitStep link)
/-- I3C_WAKE (R398, R403); the target does not answer while PWROK is low. -/
def execI3cWake (s : State) : Host.Outcome State Fault Refusal := s.run (fun d => if s.phys.pwrok then d.wakeCause 4 else d)

/-- The end of a wake: links, power state, held writes in order (Table 15.12). -/
def wakeExpiry (up : List Nat) (qb : QBuf) (d : Dev) : QBuf × Dev :=
  if d.pwr.state ≠ .waking then (qb, d) else
  let hs := d.dma.heldWrites
  heldWrites hs qb (({ d with dma := { d.dma with heldWrites := [] } }).wakeEnd up)
/-- WAKE_HOLD_EXPIRY (R398). -/
def execWakeHoldExpiry (linksUp : List Nat) (s : State) : Host.Outcome State Fault Refusal := s.runQ (wakeExpiry linksUp)

end Sys2Proof.Machine
end

