-- ==== Sys2Proof/Machine/Ending.lean ====
section
/-! DEFINITION. Ending work before its own completion, as a reset (R366), a fence (R25, R227) or a teardown (Table 13.6) does:
tenons, edits, requests that wait for their block, and the packets that they left to send. -/

namespace Sys2Proof.Machine

/-! ### Packets not yet handed to the link layer -/

/-- Packets that pass a test leave the waiting list and every egress store. -/
def Dev.dropPkts (d : Dev) (p : OutPkt → Bool) : Dev :=
  let ps := (d.waitq ++ d.links.flatMap (fun l => l.2.subqs.flatMap SubQ.pkts)).filter p
  ps.foldl Dev.txGone { d with
    waitq := d.waitq.filter (fun x => !p x)
    links := mmap d.links (fun _ l => { l with
      subqs := (l.subqs.map (fun s => { s with pkts := s.pkts.filter (fun x => !p x) })).filter (fun s => !s.pkts.isEmpty) }) }

/-- The packets that pass a test, those that wait first. -/
def Dev.pktsOf (d : Dev) (p : OutPkt → Bool) : List OutPkt :=
  (d.waitq ++ d.links.flatMap (fun l => l.2.subqs.flatMap SubQ.pkts)).filter p

/-- Whether a tag is of records of a tenon. -/
def PktTag.isOf (t : Nat) : PktTag → Bool
  | .record u _ => decide (u = t)
  | _ => false

/-- Whether a packet carries records of a tenon. -/
def isRecord (t : Nat) (p : OutPkt) : Bool := p.tag.isOf t

/-- Messages that wait for a QP's context and pass a test leave. -/
def Dev.dropSends (d : Dev) (p : Nat × SendReq × Bool → Bool) : Dev :=
  { d with trn := { d.trn with sendWait := d.trn.sendWait.filter (fun x => !p x) } }

/-- A packet of an egress store with other bytes of the same length: closed again on its path, under the next sequence number. -/
def Dev.reclose (d : Dev) (q : Qp) (p : OutPkt) (bs : Bytes) : OutPkt × Qp :=
  let (p', q') := finishPkt d q (wf p.hdr 48 4) { p with payload := sliceB bs (wf p.hdr 320 32) (wf p.hdr 216 13) }
  (p', { q' with turn := q.turn })

/-- The packets of a subqueue with the records of a tenon replaced. -/
def Dev.recloseAll (d : Dev) (t : Nat) (bs : Bytes) : List OutPkt → Qp → List OutPkt × Qp
  | [], q => ([], q)
  | p :: r, q =>
    let (p, q) := if isRecord t p then d.reclose q p bs else (p, q)
    let (r, q) := d.recloseAll t bs r q
    (p :: r, q)

/-- The same over subqueues. -/
def Dev.recloseSubs (d : Dev) (t : Nat) (bs : Bytes) : List SubQ → Qp → List SubQ × Qp
  | [], q => ([], q)
  | s :: r, q =>
    let (ps, q) := d.recloseAll t bs s.pkts q
    let (r, q) := d.recloseSubs t bs r q
    ({ s with pkts := ps } :: r, q)

/-- Records that no packet of which was handed over are replaced where they wait; their message keeps its number. Log entry 76, DEDUCED. -/
def Dev.restate (d : Dev) (t rqp : Nat) (bs : Bytes) : Dev :=
  let d : Dev := { d with
    waitq := d.waitq.map (fun p => if isRecord t p then { p with payload := sliceB bs (wf p.hdr 320 32) (wf p.hdr 216 13) } else p)
    trn := { d.trn with sendWait := d.trn.sendWait.map (fun (x : Nat × SendReq × Bool) => if x.2.1.tag.isOf t then (x.1, { x.2.1 with payload := bs }, x.2.2) else x) } }
  d.links.foldl (fun d l => match mget d.trn.qps rqp with
    | none => d
    | some q =>
      let (ss, q) := d.recloseSubs t bs l.2.subqs q
      (d.setQp rqp q).setLink l.1 { l.2 with subqs := ss }) d

/-! ### Tenons -/

/-- Whether every work order of a tenon is complete (Table 13.6): nothing to deliver, no stroke pending or running. -/
def Dev.ordersDone (d : Dev) (i : Nat) (e : Tenon) : Bool :=
  decide (e.phase = .working ∧ e.clLeft = 0) && e.left.isEmpty && (List.range 8).all (fun s => !d.stackBusy s i e)

/-- A tenon ends with a status. One whose records wait has them replaced while none was handed over; `rest`: what remains of records
partly handed over is discarded, else it departs; `all`: records of completed work are discarded (Table 13.6). One that another
condition ended first keeps that status (R26). -/
def Dev.stopTenon (d : Dev) (i : Nat) (st : St) (rest all : Bool) : Dev :=
  match mget d.atn.table i with
  | none => d
  | some e =>
    let gone (d : Dev) : Dev := (d.modTenon i (fun e => { e with result := some (st, 0) })).departed (.record i true)
    match e.phase, e.result with
    | .departing, _ =>
      if e.sent = 0 ∧ !all then (d.restate i e.tn.rqp (statusRecs e.tn st 0)).modTenon i (fun e => { e with result := some (st, 0) })
      else if rest || all then gone ((d.dropPkts (isRecord i)).dropSends (fun x => x.2.1.tag.isOf i)) else d
    | .ended, none => d
    | .ended, some (s, info) => d.sendRecords i (statusRecs e.tn s info) s info
    | _, _ =>
      let d' := d.dropOrders i (decide (st = .keyRevoked))
      if all && d.ordersDone i e then gone d' else d'.sendRecords i (statusRecs e.tn st 0) st 0

/-- Every tenon that passes a test. -/
def Dev.stopTenons (d : Dev) (p : Nat → Tenon → Bool) (st : St) (rest all : Bool) : Dev :=
  ((d.atn.table.filter (fun e => p e.1 e.2)).map Prod.fst).foldl (fun d i => d.stopTenon i st rest all) d

/-- Tenons that wait for the dispatcher; one that finds no entry of the table stays. -/
def Dev.stopQueue (d : Dev) (p : Work → Bool) (st : St) : Dev :=
  d.atn.queue.foldl (fun d w =>
    if !p w then d else
    match d.freeTidx with
    | none => d
    | some i =>
      let r := dropFirst (fun x => decide (x = w)) d.atn.queue
      let d := { d with atn := { d.atn with queue := r, spoilt := d.atn.spoilt.filter r.contains } }
      let t := parseTn w.desc
      if d.rqpOk w.src false t.rqp t.ten t.part then d.turnAway i w t st 0 else
      match w.src with
      | .qp n => ((d.noAnswer w.src).giveBack n 0 1).escapement
      | _ => d.noAnswer w.src) d

/-! ### Edits, sequence commands and pool requests -/

/-- The edit that runs on a sequence ends. A transfer keeps its OFFERED record, which RECONCILE settles (R374); the marking of a
FAILED page-run goes on. -/
def Dev.stopEdit (d : Dev) (slot : Nat) (st : St) : Dev :=
  match d.running slot with
  | none => d
  | some e => match e.move with
    | some (.mark, _, _) => d
    | some (_, id, _) =>
      let hs := ((d.run id).map Run.hstate).getD .home
      (Dev.endEdit d d slot e st 0).modRun id (fun r => if hs = HState.offered then { r with hstate := .offered } else r)
    | none => Dev.endEdit d d slot e st 0

/-- The edits of every sequence that passes a test. -/
def Dev.stopEdits (d : Dev) (p : Seq → Bool) (st : St) : Dev :=
  ((d.pgm.seqs.filter (fun q => p q.2)).map Prod.fst).foldl (fun d s => d.stopEdit s st) d

/-- Dowel descriptors and sequence commands that wait for the ledger manager. -/
def Dev.stopSeqWork (d : Dev) (p : Work → Bool) (st : St) : Dev :=
  let go := d.pgm.queue.filter p
  go.foldl (fun d w =>
    if !d.rqpOk w.src false w.rqp w.ten (wf w.desc 12 4) then d.noAnswer w.src else
    if w.op = 5 then (Dev.editCount d d w none 0 st).refuse w.src w.rqp w.roff w.tag w.ten 2 (stCode st) 0 [(0, scRecord w.desc st 0)]
    else d.editRefuse w st 0) { d with pgm := { d.pgm with queue := d.pgm.queue.filter (fun w => !p w) } }

/-- Pool requests that wait for the pool controller. -/
def Dev.stopPoolWork (d : Dev) (p : Work → Bool) (st : St) : Dev :=
  let go := d.shp.queue.filter p
  go.foldl (fun d w =>
    if d.rqpOk w.src true (plRqp w.desc) (plTen w.desc) (plPart w.desc) then d.poolRefuse w st else d.noAnswer w.src)
    { d with shp := { d.shp with queue := d.shp.queue.filter (fun w => !p w) } }

/-- Pool requests forwarded to other holders: their answers, when they come, find none waiting. -/
def Dev.stopFwds (d : Dev) (p : W512 → Bool) (st : St) : Dev :=
  let go := d.shp.fwds.filter (fun w => p w.desc)
  go.foldl (fun d w =>
    let recs := if plOp w.desc = 6 then [(0, gatherRecord w.desc st 0 0)] else [(0, plRecord w.desc st false 0 0)]
    d.answer w.src (plRqp w.desc) (plRoff w.desc) (plTag w.desc) (plTen w.desc) 3 (stCode st) 0 recs)
    { d with shp := { d.shp with fwds := d.shp.fwds.filter (fun w => !p w.desc) } }

/-- OFFERs that wait for the tier manager are declined (R366). -/
def Dev.stopOffers (d : Dev) (p : Work → Bool) : Dev :=
  let is (w : Work) : Bool := decide (pbKind w.body = 0) && p w
  (d.plc.queue.filter is).foldl (fun d w => d.declined w .fenced) { d with plc := { d.plc with queue := d.plc.queue.filter (fun w => !is w) } }

/-- Waiting ridge entries (R63). -/
def Dev.stopRidges (d : Dev) (p : Merge → Bool) : Dev :=
  (d.trn.merges.filter p).foldl (fun d m => d.ridgeEmit m (ridgeStatusRecs m.form (stCode .fenced) 0)) d

end Sys2Proof.Machine
end

