-- ==== Sys2Proof/Machine/Security.lean ====
section
/-! DEFINITION. Fence commands (R262), program and table loads (R78 to R82, R152, R153), projection bindings (R346), admission and
connection secrets (R344, R345), and the report (R357). -/

namespace Sys2Proof.Machine

/-! ### Fences (R262, Table 10.9) -/

/-- A tenon whose records were produced, none of which has entered an egress store, let alone departed. -/
def Dev.unsent (d : Dev) (t : Nat) (e : Tenon) : Bool :=
  decide (e.phase = .departing ∧ e.sent = 0) && !d.links.any (fun l => l.2.subqs.any (fun s => s.pkts.any (fun p => isRecord t p)))

/-- The records of a tenon that wait at their producer become ST_FENCED without data, in the packets that they have (R25; log entry 119,
DEDUCED). -/
def Dev.fenceRecords (d : Dev) (t : Nat) (e : Tenon) : Dev :=
  let bs := statusRecs e.tn .fenced 0
  { d with
    waitq := d.waitq.map (fun p => if isRecord t p then { p with payload := sliceB bs (wf p.hdr 320 32) p.payload.length } else p)
    trn := { d.trn with sendWait := d.trn.sendWait.map (fun x => if x.2.1.tag.isOf t then (x.1, { x.2.1 with payload := bs }, x.2.2) else x) }
    atn := { d.atn with table := mset d.atn.table t { e with result := some (.fenced, 0) } } }

/-- A gather's messages when a fence ends it: its rows go, and its record says ST_FENCED with no row (R227). -/
def fenceMsg (x : W512) (n : Nat) (r : SendReq) : Option SendReq :=
  if !gatherMsg x n r then some r else
  if r.payload.length ≠ 16 then none else
  some { r with payload := gatherRecord x .fenced 0 0, tag := match r.tag with
    | .host f sq c k _ _ => .host f sq c k (stCode .fenced) 0
    | t => t }

/-- A gather none of whose rows was handed over ends with ST_FENCED and no data (R25, R227; log entry 169, DEDUCED). -/
def Dev.fenceGather (d : Dev) (g : W512 × Nat) : Dev :=
  if d.rowsWait g.1 ≠ g.2 then d else
  let x := g.1
  { (d.setRegs [(rk 0x00900040 0, stCode .fenced), (rk 0x00900040 8, 6), (rk 0x00900040 12, plRegion x), (rk 0x00900040 22, plTen x)]) with
    trn := { d.trn with sendWait := d.trn.sendWait.filterMap (fun m => (fenceMsg x m.1 m.2.1).map (fun r => (m.1, r, m.2.2))) }
    rcv := { d.rcv with jq := d.rcv.jq.map (fun e => { e with held := e.held.filterMap (fun h => match h with
      | .send n r => (fenceMsg x n r).map (Held.send n)
      | h => some h) }) }
    shp := { d.shp with gathers := d.shp.gathers.filter (· ≠ g) } }

/-- What the node itself ends when it becomes fenced: tenons none of whose records has departed (R25), edits before their publish (R139),
publishes before their swap (R227). Packets already queued depart (R287); its own transfers stay (R194). `d0` is the node before
the journal entry, which holds the answers (R378). -/
def Dev.fenceSelf (d0 d : Dev) : Dev :=
  let d := (d.atn.table.filter (fun e => d.unsent e.1 e.2)).foldl (fun d e => d.fenceRecords e.1 e.2) d
  let hold := decide (d0.rcv.jq.length < d.rcv.jq.length)
  let ts := (d.atn.table.filter (fun e => decide (e.2.phase ≠ .ended ∧ e.2.phase ≠ .departing))).map Prod.fst
  let d := ts.foldl (fun d i =>
    let d := d.tenonEnds i .fenced 0 hold
    if hold then d.hold [.tenon i .fenced 0] else d) d
  let es := d.pgm.seqs.filterMap (fun q => q.2.edits.head?.bind (fun e => if e.move.isNone then some (q.1, e) else none))
  let d := es.foldl (fun d e => Dev.endEdit d0 d e.1 e.2 .fenced 0) d
  let d := d.shp.gathers.foldl Dev.fenceGather d
  d.shp.drafts.foldl (fun d x => match x.2.pub with
    | none => d
    | some (w, _, _) => Dev.poolAnswerAfter d0 (d.unprepare x.1 x.2) w .fenced false 0 (d.plLast w).2) d

/-- The journal entry of a fence change, which holds the command's completion (Table 14.4). -/
def fenceEntry (e sub : Nat) : JInfo := { type := 10, epoch := e, sub := sub }

/-- SET_FENCE: an epoch not below the node's, and the map of fenced nodes; SELF makes the node FENCED. Log entry 75, DEDUCED. -/
def setFenceStep (e : Nat) (self : Bool) (map : List Nat) (d : Dev) : Dev :=
  if !d.ready then d else
  if e < d.trn.epoch ∨ 2 ^ 32 ≤ e ∨ map.any (fun n => decide (2 ^ 12 ≤ n)) then d.mgmtDone 0x0309 (stCode .shape) [] else
  let d1 := { d with trn := { d.trn with epoch := e, map := (map.mergeSort (· ≤ ·)).eraseDups, fenced := d.trn.fenced || self } }
  let d1 := d1.journal (fenceEntry e (if self then 1 else 2)) []
  let d1 := if self then Dev.fenceSelf d d1 else d1
  if d.rcv.jq.length < d1.rcv.jq.length then d1.hold [.mgmt 0x0309 0 []] else d1.mgmtDone 0x0309 0 []

/-- UNFENCE: an epoch above the node's; one at its largest value admits none, which the journal records (R10). -/
def unfenceStep (e : Nat) (d : Dev) : Dev :=
  if !d.ready then d else
  if d.trn.epoch = 0xFFFFFFFF then d.journal { type := 5, sub := 2, epoch := d.trn.epoch } [.mgmt 0x030A (stCode .shape) []] else
  if e ≤ d.trn.epoch ∨ 2 ^ 32 ≤ e then d.mgmtDone 0x030A (stCode .shape) [] else
  -- ridge entries that were complete while the node was fenced are sent now
  d.trn.merges.foldl Dev.ridgeTry (({ d with trn := { d.trn with epoch := e, fenced := false } }).journal (fenceEntry e 3) [.mgmt 0x030A 0 []])

/-! ### Score programs (R78 to R82) -/

/-- A refused score-program command, recorded (R85). -/
def Dev.spRefuse (d : Dev) (opc slot reason insn : Nat) : Dev :=
  (d.setRegs [(rk 0x00201010 0, slot), (rk 0x00201010 8, reason), (rk 0x00201010 12, insn)]).mgmtDone opc (stCode .programFault) []

/-- The log event of a program slot (Table 13.10). -/
def spEvent (image : Bytes) (evt : Nat) : Nat :=
  let h := leAt image 0 16
  pack [(0, 8, 4), (8, 6, fld h 8 6), (14, 2, fld h 14 2), (16, 4, fld h 16 4), (20, 12, fld h 20 12), (120, 4, evt)]

/-- LOAD_PROGRAM. -/
def loadProgramStep (image : Bytes) (d : Dev) : Dev :=
  if !d.ready then d else
  match spCheck image d.admitted with
  | some (r, slot, insn) => d.spRefuse 0x0401 slot r insn
  | none =>
    let slot := fld (leAt image 0 16) 8 6
    if (mget d.atn.progs slot).isSome then d.spRefuse 0x0401 slot 2 0 else
    let dig := shake256 64 image
    let d := { d with atn := { d.atn with progs := mset d.atn.progs slot ⟨1, image, dig⟩ } }
    (d.mlog (spEvent image 0) dig).mgmtDone 0x0401 0 []

/-- UNLOAD_PROGRAM: the slot drains; the command completes when it is empty (R79, R80). Log entry 82, DEDUCED. -/
def unloadProgramStep (slot : Nat) (d : Dev) : Dev :=
  if !d.ready then d else
  if slot = 0 then d.spRefuse 0x0402 0 1 0 else
  match mget d.atn.progs slot with
  | none => d.spRefuse 0x0402 (slot % 64) 8 0
  | some p =>
    if p.state ≠ 1 then d.spRefuse 0x0402 slot 8 0 else
    ({ d with atn := { d.atn with progs := mset d.atn.progs slot { p with state := 2 } }
              pwr := { d.pwr with waits := d.pwr.waits ++ [MWait.unloadProgram slot] } }).drainProgs

/-! ### Decoding tables (R152, R153) -/

/-- A refused table command, recorded (R164). -/
def Dev.tblRefuse (d : Dev) (opc slot reason : Nat) : Dev :=
  (d.setRegs [(rk 0x00700008 0, slot % 8), (rk 0x00700008 4, reason)]).mgmtDone opc (stCode .shape) []

/-- LOAD_TABLE. -/
def loadTableStep (image : Bytes) (d : Dev) : Dev :=
  if !d.ready then d else
  let busy (slot ef : Nat) : Bool := d.cmp.any (fun e => decide (e.1 ≠ slot ∧ e.2.state = 1 ∧ tblEfmt e.2.image = ef ∧ fld (leAt e.2.image 0 16) 14 1 = 1))
  match tblCheck image busy with
  | some (r, slot) => d.tblRefuse 0x0403 slot r
  | none =>
    let h := leAt image 0 16
    let slot := fld h 8 3
    if (mget d.cmp slot).isSome then d.tblRefuse 0x0403 slot 1 else
    let dig := shake256 64 image
    let ev := pack [(0, 8, 5), (8, 6, slot), (32, 8, fld h 16 8), (40, 3, fld h 11 3)]
    (({ d with cmp := mset d.cmp slot ⟨1, image, dig, 0⟩ }).mlog ev dig).mgmtDone 0x0403 0 []

/-- UNLOAD_TABLE. -/
def unloadTableStep (slot : Nat) (d : Dev) : Dev :=
  if !d.ready then d else
  match mget d.cmp slot with
  | none => d.tblRefuse 0x0404 slot 10
  | some t =>
    if t.state ≠ 1 then d.tblRefuse 0x0404 slot 10 else
    ({ d with cmp := mset d.cmp slot { t with state := 2 }, pwr := { d.pwr with waits := d.pwr.waits ++ [MWait.unloadTable slot] } }).endTable slot

/-! ### Projection bindings (R346) -/

/-- The log event of a binding (Table 13.10). -/
def Dev.projEvent (d : Dev) (ten region ver first nlm1 evt : Nat) : Nat :=
  pack [(0, 8, 7), (16, 4, d.partOf ten), (20, 12, ten), (48, 10, region), (64, 32, ver), (96, 10, first), (106, 10, nlm1), (120, 4, evt)]

/-- Whether two bindings of a tenant share a layer. -/
def projMeets (p : Proj) (ten first nlm1 : Nat) : Bool := p.live && decide (p.ten = ten ∧ p.first ≤ first + nlm1 ∧ first ≤ p.first + p.nlm1)

/-- The rules of a binding on its region. -/
def Dev.projFits (d : Dev) (ten nlm1 nq dcode lcode region : Nat) : Bool := match mget d.shp.regions region with
  | none => false
  | some g => decide (g.p.ten = ten ∧ g.p.efmt = 0 ∧ g.p.coding = 0 ∧ (nlm1 + 1) * nq * 2 * latOf lcode * dimOf dcode ≤ g.p.n) && !g.deleting

/-- The version digest that a reader handle holds. -/
def Dev.verDigest (d : Dev) (region ver : Nat) : Bytes := match mget d.shp.regions region with
  | none => []
  | some g => ((g.versions.find? (fun v => decide (v.num = ver))).map Version.digest).getD []

/-- SET_PROJECTION: a reader handle on the current version serves the layers from now on; bindings of the same region that it meets give way. A
fenced node opens no handle (R227, log entry 142, DESIGN CHOICE). -/
def setProjectionStep (ten first nlm1 nq dcode lcode region : Nat) (d : Dev) : Dev := d.poolCmd 0x0405 fun d =>
  if !d.active ten then d.mgmtDone 0x0405 (stCode .keyRevoked) [] else
  let other := d.shp.projs.any (fun p => projMeets p ten first nlm1 && decide (p.region ≠ region))
  if !(decide (first < 1024 ∧ nlm1 < 1024 ∧ first + nlm1 < 1024 ∧ 1 ≤ nq ∧ nq ≤ 1024 ∧ dcode < 5 ∧ lcode < 4) && d.projFits ten nlm1 nq dcode lcode region) || other then
    d.mgmtDone 0x0405 (stCode .shape) [] else
  match d.readerSlot, mget d.shp.regions region with
  | some s, some g =>
    let gen := mgetD d.shp.readerGen s 0
    let ps := d.shp.projs.map (fun p => if projMeets p ten first nlm1 then { p with live := false } else p)
    let d := { d with shp := { d.shp with
      readers := mset d.shp.readers s ⟨gen, region, g.current, d.pwr.node, 31⟩
      projs := ps ++ [Proj.mk ten first nlm1 nq dcode lcode region s true] } }
    (d.mlog (d.projEvent ten region g.current first nlm1 0) (d.verDigest region g.current)).mgmtDone 0x0405 0 []
  | _, _ => d.mgmtDone 0x0405 (stCode .refusedCapacity) []

/-- CLEAR_PROJECTION names a binding by its layers. Log entry 81, DEDUCED. -/
def clearProjectionStep (ten first nlm1 : Nat) (d : Dev) : Dev :=
  if !d.ready then d else
  if !d.active ten then d.mgmtDone 0x0406 (stCode .keyRevoked) [] else
  let is (p : Proj) : Bool := p.live && decide (p.ten = ten ∧ p.first = first ∧ p.nlm1 = nlm1)
  match d.shp.projs.find? is with
  | none => d.mgmtDone 0x0406 (stCode .shape) []
  | some p =>
    let ver := ((mget d.shp.readers p.reader).map Reader.ver).getD 0
    let d := { d with shp := { d.shp with projs := d.shp.projs.map (fun p => if is p then { p with live := false } else p) } }
    (d.mlog (d.projEvent ten p.region ver first nlm1 1) (d.verDigest p.region ver)).mgmtDone 0x0406 0 []

/-! ### Admission (R344, R345) -/

/-- The log event of an admission or a removal (R356). -/
def Dev.tenantLog (d : Dev) (ten part gen evt : Nat) : Dev :=
  -- the bits that Table 13.10 reserves are 0
  let e := [(45, 3), (58, 6), (116, 4), (124, 4)].foldl (fun e r => setFld e r.1 r.2 0) (Config.tenantEvent ten part gen).toNat
  { d with sec := { d.sec with logd := shake256 64 (d.sec.logd ++ leBytes 80 (setFld e 120 4 evt)), logn := d.sec.logn + 1 } }

/-- The seed of a layer-1 key (Table 13.8). -/
def Dev.layerSeed (d : Dev) (label : String) : Bytes := shake256 64 (d.sec.cdi1 ++ ascii label)

/-- The key-encryption key of a delivery (R344 steps 1 and 2). -/
def Dev.kek (d : Dev) (label : String) (ct : Bytes) (ten part g : Nat) : Bytes :=
  derive (ascii label ++ Config.kemDecaps (d.layerSeed "ADMIT") ct) "" (leBytes 2 ten ++ leBytes 2 part ++ leBytes 2 g ++ leBytes 2 d.pwr.node)

/-- An unwrap that fails its integrity check: counted, frozen and journalled; the completion waits for the entry (R378). -/
def Dev.unwrapFails (d : Dev) (opc ten part : Nat) : Dev :=
  (d.bump (rk 0x01100020 32) 16 1).fault { code := 4, sub := 3, engine := 13 * 4096, tenant := ten, part := part } true
    [.mgmt opc (stCode .integrity) []]

/-- A wrapped key of 32 bytes. -/
def unwrapKey (kek w : Bytes) : Option Bytes := if w.length = 40 then kwUnwrap kek w else none

/-- ADMIT_TENANT. Log entry 111, DEDUCED. -/
def admitStep (ten part g : Nat) (ct wtrk : Bytes) (d : Dev) : Dev :=
  if !d.ready then d else
  let t := d.tenant ten
  if 2 ^ 12 ≤ ten ∨ 16 ≤ part ∨ 2 ^ 16 ≤ g ∨ ct.length ≠ 1568 ∨ wtrk.length ≠ 40 then d.mgmtDone 0x0101 (stCode .shape) [] else
  if g < t.gen ∨ g = 0xFFFF then d.mgmtDone 0x0101 (stCode .keyRevoked) [] else
  if t.state ≠ 0 then d.mgmtDone 0x0101 (stCode .shape) [] else
  match unwrapKey (d.kek "ADMIT" ct ten part g) wtrk with
  | none => d.unwrapFails 0x0101 ten part
  | some trk =>
    let d := { d with sec := { d.sec with tenants := mset d.sec.tenants ten ⟨1, part, g, trk, 0, 0, 0, none, 0, 16⟩ } }
    (d.tenantLog ten part g 2).mgmtDone 0x0101 0 []

/-- SET_FABRIC_KEY. -/
def fabricKeyStep (ct wfwk : Bytes) (d : Dev) : Dev :=
  if !d.ready then d else
  if ct.length ≠ 1568 ∨ wfwk.length ≠ 40 then d.mgmtDone 0x0103 (stCode .shape) [] else
  match unwrapKey (d.kek "FABRIC" ct 0 0 Config.fabricGen) wfwk with
  | none => d.unwrapFails 0x0103 0 0
  | some k => ({ d with sec := { d.sec with fwk := some k } }).mgmtDone 0x0103 0 []

/-- SET_CONN_KEY: the slot's two keys from its connection secret. A fabric secret unwraps under no key while the node holds no FWK. Log entry 79, DEDUCED. -/
def connKeyStep (slot ten : Nat) (fabric : Bool) (salt : W32) (wcs : Bytes) (d : Dev) : Dev :=
  if !d.ready then d else
  if !fabric && !d.active ten then d.mgmtDone 0x0104 (stCode .keyRevoked) [] else
  if 4096 ≤ slot ∨ wcs.length ≠ 40 then d.mgmtDone 0x0104 (stCode .shape) [] else
  let ten' := if fabric then 0 else ten
  match (if fabric then d.sec.fwk else some (d.tkey ten "WRAP")).bind (fun k => unwrapKey k wcs) with
  | none => d.unwrapFails 0x0104 ten' (d.partOf ten')
  | some cs =>
    let qpn := (mget d.sec.ckeys slot).bind CKey.qpn
    let k : CKey := ⟨if fabric then none else some ten, salt, derive cs "LO" [], derive cs "HI" [], qpn⟩
    ({ d with sec := { d.sec with ckeys := mset d.sec.ckeys slot k } }).mgmtDone 0x0104 0 []

/-! ### The report (R357) -/

/-- TOP_ID (Table 0.2). -/
def topId : Nat := pack [(0, 16, 0x0960), (16, 8, Config.stepping.toNat), (24, 8, 1)]

/-- A report entry: Table 13.10's bits, and its digest. -/
def repEntry (bits : Nat) (dig : Bytes) : Bytes := leBytes 16 bits ++ sliceB dig 0 64

/-- Whether a program slot's scope admits a tenant; none for a node-wide report. -/
def Dev.scopeFor (d : Dev) (who : Option Nat) (image : Bytes) : Bool :=
  let h := leAt image 0 16
  match who with
  | none => true
  | some t => match fld h 14 2 with
    | 0 => decide (fld h 20 12 = t ∧ fld h 16 4 = d.partOf t)
    | 1 => decide (fld h 16 4 = d.partOf t)
    | _ => true

/-- Entries in the order of R357. -/
def Dev.repEntries (d : Dev) (who : Option Nat) : List Bytes :=
  let own (t : Nat) : Bool := decide (who = none ∨ who = some t)
  let progs := (0, spIdentity, shake256 64 spIdentity) :: d.atn.progs.map (fun e => (e.1, e.2.image, e.2.digest))
  let regs := (d.shp.regions.filter (fun g => own g.2.p.ten && !g.2.deleting)).mergeSort (fun a b => decide (a.2.p.ten ≤ b.2.p.ten))
  let projs := (d.shp.projs.filter (fun p => p.live && own p.ten)).mergeSort (fun a b =>
    decide (a.ten < b.ten ∨ (a.ten = b.ten ∧ (a.region < b.region ∨ (a.region = b.region ∧ a.first ≤ b.first)))))
  [repEntry 1 Config.romDigest, repEntry 2 d.sec.fwDigest, repEntry 3 d.sec.imgDigest] ++
  (progs.filter (fun x => d.scopeFor who x.2.1)).map (fun x =>
    repEntry (setFld (spEvent x.2.1 0) 8 6 x.1) x.2.2) ++
  d.cmp.map (fun e => repEntry (pack [(0, 8, 5), (8, 6, e.1), (32, 8, tblGen e.2.image), (40, 3, tblEfmt e.2.image)]) e.2.digest) ++
  regs.map (fun g => repEntry (pack [(0, 8, 6), (16, 4, g.2.p.part), (20, 12, g.2.p.ten), (40, 3, g.2.p.efmt), (43, 2, g.2.p.coding), (48, 10, g.1),
    (64, 32, g.2.current)]) (d.verDigest g.1 g.2.current)) ++
  projs.map (fun p =>
    let v := ((mget d.shp.readers p.reader).map Reader.ver).getD 0
    repEntry (d.projEvent p.ten p.region v p.first p.nlm1 0) (d.verDigest p.region v))

/-- The report's bytes but for SIG (Table 13.9). -/
def Dev.repBody (d : Dev) (nonce : Bytes) (who : Option Nat) : Bytes :=
  let es := d.repEntries who
  leBytes 4 0x52454A4C ++ leBytes 2 1 ++ leBytes 2 (b2n who.isNone) ++ leBytes 4 (6264 + 80 * es.length) ++ leBytes 4 es.length ++
  sliceB nonce 0 64 ++ leBytes 4 topId ++ leBytes 2 d.pwr.node ++ leBytes 2 (d.reg (rk 0x00E00000 32)) ++
  leBytes 2 (who.getD 0) ++ leBytes 1 ((who.map d.partOf).getD 0) ++ leBytes 1 0 ++ leBytes 2 ((who.map d.gen).getD 0) ++ leBytes 2 0 ++
  leBytes 8 (d.reg (rk 0x01100018 0)) ++ leBytes 8 d.sec.logn ++ sliceB d.sec.logd 0 64 ++ sliceB d.sec.devDigest 0 64 ++
  sliceB (Config.falconPublic (d.layerSeed "ALIAS")) 0 1793 ++ leBytes 7 0 ++ sliceB (Config.kemPublic (d.layerSeed "ADMIT")) 0 1568 ++
  sliceB (Config.spdmPublic (d.layerSeed "SPDM")) 0 96 ++ sliceB d.sec.aliasSig 0 1280 ++ es.flatMap id

/-- GET_REPORT. -/
def getReportStep (nonce : Bytes) (ten : Nat) (nodewide : Bool) (d : Dev) : Dev :=
  if !d.ready then d else
  if !nodewide && !d.active ten then d.mgmtDone 0x0105 (stCode .keyRevoked) [] else
  let who := if nodewide then none else some ten
  if nonce.length ≠ 64 ∨ !d.mgmtRoom 0x0105 (6264 + 80 * (d.repEntries who).length) then d.mgmtDone 0x0105 (stCode .shape) [] else
  let d := d.bump (rk 0x01100018 0) 64 1
  let b := d.repBody nonce who
  d.mgmtDone 0x0105 0 (b ++ sliceB (Config.falconSign (d.layerSeed "ALIAS") b) 0 1280)

/-- A command whose data must fit its response. -/
def Dev.cmdData (d : Dev) (opc : Nat) (data : Bytes) : Dev :=
  if !d.ready then d else if d.mgmtRoom opc (pad8 data).length then d.mgmtDone opc 0 data else d.mgmtDone opc (stCode .shape) []

/-- GET_CERT: the CERT section (R393). -/
def getCertStep (d : Dev) : Dev := d.cmdData 0x0106 d.sec.cert

end Sys2Proof.Machine
end

