-- ==== Sys2Proof/Machine/Teardown.lean ====
section
/-! DEFINITION. Tenant teardown (R349 to R353): the steps of Table 13.5, the residue (R351), and the background zero-fill (R352). -/

namespace Sys2Proof.Machine

/-! ### Step 1 -/

/-- The bump: the slot is REMOVING at the next generation, and the stacks' key-cache entries of the tenant are invalid (R102). -/
def Dev.tdBump (d : Dev) (ten : Nat) : Dev :=
  let d := d.modTenant ten (fun t => { t with state := 2, gen := t.gen + 1 })
  { d with bnk := { d.bnk with stks := mmap d.bnk.stks (fun _ s => { s with keys := s.keys.filter (fun k => decide (k.1 ≠ ten)) }) } }

/-! ### Step 2 -/

/-- Whether a produced packet is a tenant's. -/
def tenPkt (ten : Nat) (p : OutPkt) : Bool := decide (pktTen p.hdr = ten)

def PktTag.isRecord : PktTag → Bool
  | .record _ _ => true
  | _ => false

/-- The tenant's packets leave the egress side, counted; those of tenons end with their tenons. So do messages that wait for the context of
their QP, of which no packet is made yet. -/
def Dev.tdEgress (d : Dev) (ten : Nat) : Dev :=
  let ps := d.pktsOf (tenPkt ten)
  let d := d.bump (rk 0x01100038 0) 32 ps.length
  let go (p : OutPkt) : Bool := tenPkt ten p && !p.tag.isRecord
  let d := ((ps.filter go).map OutPkt.tag).foldl Dev.departed (d.dropPkts go)
  let mine (x : Nat × SendReq × Bool) : Bool := decide (x.2.1.ten = ten ∧ x.2.1.op ≠ 8 ∧ x.2.1.op ≠ 9) && !x.2.1.tag.isRecord
  let ms := d.trn.sendWait.filter mine
  (ms.map (fun x => x.2.1.tag)).foldl Dev.departed (d.dropSends mine)

/-- Counts packets discarded on the ingress side. -/
def Dev.tdCount (d : Dev) (n : Nat) : Dev := d.bump (rk 0x01100038 32) 32 n

/-- The tenant's messages on a QP not yet handed on: discarded, complete for their order, their credits returned. -/
def Dev.tdMsgs (d : Dev) (ten n : Nat) : Dev :=
  match mget d.trn.qps n with
  | none => d
  | some q =>
    let mine (m : Msg) : Bool := !m.done && decide (hTen m.hdr = ten)
    let ms := q.msgs.filter mine
    if ms.isEmpty then d else
    let held := sumN (ms.map (fun m => m.pkts.length + m.data.length))
    let q := { q with msgs := q.msgs.map (fun m => if mine m then { m with pkts := [], data := [], ranges := [(0, hMlen m.hdr)], done := true } else m) }
    ((d.setQp n q).tdCount held).settleCredit n held (ms.filter (fun m => takesSub q m.hdr)).length

/-- Packets of the tenant that wait on the ingress side: messages, parked packets, packets held for a key or a message, and completions
of WRITE_IMM on its QPs. -/
def Dev.tdIngress (d : Dev) (ten : Nat) : Dev :=
  let mine (p : InPkt) : Bool := decide (hTen p.hdr = ten) && !hCtl p.hdr
  let parked := (d.trn.parked.filter (fun p => mine p.2)).map Prod.snd
  let keys := d.trn.keyWait.filter (fun w => mine w.2.2)
  let opens := d.trn.openWait.filter (fun w => mine w.2)
  let imms := d.trn.immWait.filter (fun w => match mget d.trn.qps w.qpn with
    | none => false
    | some q => decide (q.ten = ten ∧ q.type ≠ 1))
  let d := { d with trn := { d.trn with
    parked := d.trn.parked.filter (fun p => !mine p.2)
    keyWait := d.trn.keyWait.filter (fun w => !mine w.2.2)
    openWait := d.trn.openWait.filter (fun w => !mine w.2)
    immWait := d.trn.immWait.filter (fun w => !imms.contains w) } }
  let d := d.tdCount (parked.length + keys.length + opens.length + imms.length)
  let d := parked.foldl (fun d p => d.dropCredit p.hdr) d
  let d := keys.foldl (fun d w => d.undoTake w.2.2.hdr w.2.1) d
  let d := opens.foldl (fun d w => d.undoTake w.2.hdr w.1) d
  let d := imms.foldl (fun d w => d.settleCredit w.qpn 1 0) d
  (d.trn.qps.map Prod.fst).foldl (fun d n => d.tdMsgs ten n) d

/-- Whether a merge entry's intake QP is a tenant's. -/
def Dev.mergeOn (d : Dev) (p : Qp → Bool) (m : Merge) : Bool :=
  match (mget d.trn.ridges m.ridge).bind (fun r => mget d.trn.qps r.intake) with
  | none => false
  | some q => p q

/-- The tenant's work ends as Table 13.6 gives; the status-only answers it leaves are kept. -/
def Dev.tdStop (d : Dev) (ten : Nat) : Dev :=
  let mine (w : Work) : Bool := decide (wf w.desc 0 12 = ten)
  let d := d.tdEgress ten
  let d := d.stopTenons (fun _ e => decide (e.tn.ten = ten)) .keyRevoked true true
  let d := d.stopQueue mine .keyRevoked
  let d := d.stopEdits (fun q => decide (q.ten = ten)) .keyRevoked
  let d := d.stopSeqWork mine .keyRevoked
  let d := d.stopPoolWork mine .keyRevoked
  let d := d.abortDrafts .keyRevoked (fun x => decide (d.regionTen x.region = ten))
  let d := d.stopFwds (fun x => decide (plTen x = ten)) .keyRevoked
  let d := { d with plc := { d.plc with queue := d.plc.queue.filter (fun w => decide ((pbRun w.body).ten ≠ ten)) } }
  let es := d.trn.merges.filter (d.mergeOn (fun q => decide (q.ten = ten)))
  let d := es.foldl (fun d m => d.ridgeEmit m (ridgeStatusRecs m.form (stCode .keyRevoked) 0)) d
  let d := d.tdIngress ten
  { d with
    waitq := d.waitq.map (fun p => if tenPkt ten p then { p with keep := true } else p)
    trn := { d.trn with sendWait := d.trn.sendWait.map (fun x => (x.1, x.2.1, x.2.2 || decide (x.2.1.ten = ten))) } }

/-! ### Step 3 -/

/-- The tenant's transfers end (R350): a function channel completes its descriptor and goes on; what a running CRC had come to is not
stored, so a descriptor that continues it starts from a free value (log entry 3, DESIGN CHOICE). Log entry 83, DEDUCED. -/
def Dev.tdChan (d : Dev) (ten ch : Nat) : Dev :=
  let c := d.chan ch
  match c.job with
  | none => d
  | some j =>
    if cdTen j.desc ≠ ten then d else
    let (v, d) := d.fresh
    let d := d.setChan ch { c with state := 1, job := none, errAddr := 0, err := 0, crcKind := cdCrc j.desc,
                                   crcRun := v.toNat % (crcOnes (cdCrc j.desc) + 1), abandoned := c.abandoned ++ c.reading }
    d.cdAnswer ch (d.chOwner ch) c j.desc j.idx .keyRevoked 0

def Dev.tdDma (d : Dev) (ten : Nat) : Dev := (d.dma.chans.map Prod.fst).foldl (fun d ch => d.tdChan ten ch) d

/-! ### Step 4 -/

/-- A management command that waits on the tenant ends (R344). -/
def Dev.tdWaits (d : Dev) (ten : Nat) : Dev :=
  d.pwr.waits.foldl (fun d w =>
    let ends (d : Dev) (opc : Nat) : Dev := ({ d with pwr := { d.pwr with waits := d.pwr.waits.filter (· ≠ w) } }).mgmtDone opc (stCode .keyRevoked) []
    match w with
    | .setMirror t => if t = ten then ends d 0x0202 else d
    | .fillSpare f => if f.ten = ten then Dev.endFill ten .keyRevoked d else d
    | .reconcile _ l => if l.any (fun id => decide (id.ten = ten)) then ends d 0x0203 else d
    | .adoptHome id _ => if id.ten = ten then ends d 0x0204 else d
    | .discard id => if id.ten = ten then ends d 0x0205 else d
    | _ => d) d

/-- The tenant's regions become deleting and their handles end; the T1 space they held waits for the fill (R352). -/
def Dev.tdPool (d : Dev) (ten : Nat) : Dev :=
  let ids := (d.shp.regions.filter (fun g => decide (g.2.p.ten = ten))).map Prod.fst
  let d := ids.foldl (fun d i => match mget d.shp.regions i with
    | none => d
    | some g =>
      let d := if g.deleting then d else d.poolEvent i g.p (g.ver g.current) 1
      { d with shp := { d.shp with regions := mset d.shp.regions i { g with deleting := true } } }) d
  let us := (d.shp.units.filter (fun u => ids.contains u.2.region && u.2.loc.isT1)).map Prod.snd
  let fs := us.map (fun u => Frame.mk u.loc 1 u.ver noTenant 0 [])
  let maps := sumN ((d.shp.regions.filter (fun g => ids.contains g.1)).map (fun r => ((r.2.versions.flatMap mapBlocks).eraseDups).length))
  let d := ((d.abortDrafts .keyRevoked (fun x => ids.contains x.region)).closeReaders (fun r => ids.contains r.region)).poolReap
  { d with plc := { d.plc with frames := d.plc.frames ++ fs }
           sec := { d.sec with zeroHold := d.sec.zeroHold ++ us.map (fun u => ⟨4, 4, some (u.loc, 1), none, none⟩) ++
             (if maps = 0 then [] else [⟨maps, maps, none, none, none⟩]) }
           shp := { d.shp with projs := d.shp.projs.filter (fun p => decide (p.ten ≠ ten)) } }

/-- QPs, keys, program slots, policers, directory entries, regions, bindings and the placement record. -/
def Dev.tdUnbind (d : Dev) (ten : Nat) : Dev :=
  let d := ((d.trn.qps.filter (fun q => decide (q.2.ten = ten ∧ q.2.type ≠ 1))).map Prod.fst).foldl (fun d n => d.qpError n 8) d
  let own (im : Bytes) : Bool := decide (fld (leAt im 0 16) 14 2 = 0 ∧ fld (leAt im 0 16) 20 12 = ten)
  let d := (({ d with
    trn := { d.trn with keys := mfilter d.trn.keys (fun _ k => decide (k.kind = 3 ∨ k.ten ≠ ten)) }
    sec := { d.sec with ckeys := mfilter d.sec.ckeys (fun _ k => decide (k.ten ≠ some ten)) }
    atn := { d.atn with progs := mmap d.atn.progs (fun _ p => if p.state = 1 ∧ own p.image then { p with state := 2 } else p) }
    links := if d.tsh.any (fun p => decide (p.2.ten = ten)) then mmap d.links (fun _ l => d.keepColors (mfilter d.tsh (fun _ p => decide (p.ten ≠ ten))) none l) else d.links
    tsh := mfilter d.tsh (fun _ p => decide (p.ten ≠ ten))
    }).dirClear (fun e => decide (keyTen e.key = ten))).drainProgs
  let d := ((d.tdWaits ten).noFill ten).tdPool ten
  (({ d with plc := { d.plc with
      claims := d.plc.claims.filter (fun c => decide (c.id.ten ≠ ten))
      full := d.plc.full.filter (fun c => decide (c.1 ≠ ten))
      commits := d.plc.commits.filter (fun c => decide (c.1.ten ≠ ten))
      owed := d.plc.owed.filter (fun c => decide (c.1.ten ≠ ten)) } }).modTenant ten (fun t =>
    { t with quota := 0, tiers := 0, peers := 0, mirror := none, mirstate := 0, quantum := 0 })).escapement

/-! ### Residue (R351) -/

/-- The tenant of a stage-back. -/
def XWhat.ten : XWhat → Option Nat
  | .ctx _ => none
  | .stage id => some id.ten

/-- Whether a stack holds a context, an order, a claim or a stroke of the tenant. -/
def Dev.stackResidue (d : Dev) (ten s : Nat) : Bool :=
  let mine (i : Nat) : Bool := match mget d.atn.table i with
    | none => false
    | some e => decide (e.tn.ten = ten)
  let k := d.stack s
  (k.ctxs ++ k.ctxq).any mine || k.opens.any (fun o => decide (o.ten = ten)) ||
  k.orders.any (fun o => if o.opc = 0 then mine o.tidx else decide (((mget d.pgm.seqs o.slot).map Seq.ten) = some ten))

/-- Whether a link's egress store or replay buffer holds a packet of the tenant. -/
def linkResidue (ten : Nat) (l : Link) : Bool :=
  l.subqs.any (fun s => s.pkts.any (tenPkt ten)) || l.sent.any (fun s => decide (s.2.2 = ten))

/-- Whether transport holds an ingress packet, a parked packet, an open message or a context fetch of the tenant. -/
def Dev.trnResidue (d : Dev) (ten : Nat) : Bool :=
  let mine (p : InPkt) : Bool := decide (hTen p.hdr = ten) && !hCtl p.hdr
  d.trn.parked.any (fun p => mine p.2) || d.trn.keyWait.any (fun w => mine w.2.2) || d.trn.openWait.any (fun w => mine w.2) ||
  d.trn.qps.any (fun q => (q.2.fetching && decide (q.2.ten = ten ∧ q.2.type ≠ 1)) || q.2.msgs.any (fun m => !m.done && decide (hTen m.hdr = ten)))

/-- Whether a request of the DMA engine for the tenant is outstanding; a stage-back's read is discarded when it arrives (R350). -/
def Dev.dmaResidue (d : Dev) (ten : Nat) : Bool :=
  d.dma.xfers.any (fun x => x.issued && decide (x.what.ten = some ten)) ||
  d.dma.chans.any (fun c => c.2.abandoned.contains ten || (match c.2.job with
    | none => false
    | some j => decide (cdTen j.desc = ten)))

/-- Whether the dispatcher holds a table entry or a query of the tenant, or the ridge an entry of it. -/
def Dev.atnResidue (d : Dev) (ten : Nat) : Bool :=
  d.atn.table.any (fun e => decide (e.2.tn.ten = ten)) || d.atn.queue.any (fun w => decide (wf w.desc 0 12 = ten)) ||
  d.trn.merges.any (d.mergeOn (fun q => decide (q.ten = ten)))

/-- SEC_TD_RESIDUE: 0 without a teardown. A codec job never outlasts the step that runs it. -/
def Dev.residue (d : Dev) : Nat := match d.sec.td with
  | none => 0
  | some t =>
    pack ((List.range 8).map (fun s => (s, 1, b2n (d.stackResidue t.ten s))) ++ d.links.map (fun l => (8 + l.1, 1, b2n (linkResidue t.ten l.2))) ++
      [(40, 1, b2n (d.trnResidue t.ten)), (42, 1, b2n (d.dmaResidue t.ten)), (43, 1, b2n (d.atnResidue t.ten))])

/-! ### Steps 6 to 8 -/

/-- The query buffer's granules that a tenant tagged, zero-filled and without a tag. -/
def QBuf.clear (q : QBuf) (mine : Nat → Bool) : QBuf :=
  let gs := (q.tags.filter (fun t => mine t.2.1)).map Prod.fst
  ⟨gs.foldl (fun m g => memWrite sramByte m (64 * g) (List.replicate 64 0)) q.mem, q.tags.filter (fun t => !mine t.2.1)⟩

/-- Ledger blocks of a sequence, each once; bit 29 marks one of T0 (log entry 23, DESIGN CHOICE). -/
def Seq.blocks (q : Seq) : List Nat :=
  let of (s : LSlot) : List Nat := if s.valid then s.blocks.map Prod.snd else []
  (q.ldroot ++ q.lanes.flatMap (fun (l : Nat × Lane) => of l.2.a ++ of l.2.b) ++ q.retired.flatMap Retired.blocks).eraseDups

/-- Granules where the array failed under a page-run of a tenant: of its ledgers, the storage they retired, its copies and its shares (R180, R207). -/
def Dev.tdGranules (d : Dev) (ten : Nat) : List Nat :=
  let bad (e : PageEnt) : List Nat := match e.loc with
    | .t1 s c f => if e.failed ∧ e.fcause = 1 then [granule s c f] else []
    | _ => []
  let of (s : LSlot) : List Nat := if s.valid then s.pages.flatMap (fun p => bad p.2) else []
  (d.pgm.seqs.filter (fun q => decide (q.2.ten = ten))).flatMap (fun q => q.2.lanes.flatMap (fun l => of l.2.a ++ of l.2.b) ++ q.2.retired.flatMap Retired.granules) ++
  (d.plc.runs.filter (fun r => decide (r.id.ten = ten))).flatMap (fun r => match r.copy with
    | none => []
    | some c => bad c.ent) ++
  (d.pgm.shares.filter (fun s => decide (s.2.ten = ten))).flatMap (fun s => bad s.2.ent)

/-- A T1 frame that waits for the fill, with its seal block. -/
def zeroFrame (bad : List Nat) (f : Frame) : Zero :=
  ⟨f.kib, f.kib, some (f.loc, f.fcls), if f.sblk = 0 then none else some f.sblk, match f.loc with
    | .t1 s c o => if bad.contains (granule s c o) then some (granule s c o) else none
    | _ => none⟩

/-- The tenant's storage: what T1 held waits for the fill, share entries at their size rounded up to KiB (R352); the rest is free. -/
def Dev.tdFree (d : Dev) (ten : Nat) : Dev :=
  let seqs := d.pgm.seqs.filter (fun q => decide (q.2.ten = ten))
  let blks := (seqs.flatMap (fun q => q.2.blocks)).eraseDups
  let t1 := d.plc.frames.filter (fun f => decide (f.ten = ten) && f.loc.isT1)
  let shares := cdiv (32 * (d.pgm.shares.filter (fun s => decide (s.2.ten = ten))).length) 1024
  let zs := t1.map (zeroFrame (d.tdGranules ten)) ++ (blks.filter (fun a => decide (a < 2 ^ 29))).map (fun a => ⟨1, 0, none, some a, none⟩) ++
    (if shares = 0 then [] else [⟨shares, 0, none, none, none⟩])
  let images := (d.plc.runs.filterMap Run.image ++ d.oldImages).filter (fun i => decide (i.id.ten = ten))
  let own := (seqs.map (fun q => (q.1, q.2.sgen))).filter (fun q => !d.lodging q.1)
  let d := { d with
    bnk := { d.bnk with t0 := mfilter d.bnk.t0 (fun _ t => decide (t.ten ≠ ten)), t1 := mfilter d.bnk.t1 (fun _ t => decide (t.ten ≠ ten)) }
    pgm := { d.pgm with
      seqs := mfilter d.pgm.seqs (fun _ q => decide (q.ten ≠ ten))
      shares := mfilter d.pgm.shares (fun _ s => decide (s.ten ≠ ten))
      leafc := d.pgm.leafc.filter (fun a => !blks.contains a)
      sgens := own.foldl (fun m (q : Nat × Nat) => if q.2 = 0x3FFF then m else mset m q.1 (q.2 + 1)) d.pgm.sgens }
    plc := { d.plc with
      runs := d.plc.runs.filter (fun r => decide (r.id.ten ≠ ten))
      frames := (d.plc.frames.filter (fun (f : Frame) => decide (f.ten ≠ ten) || f.loc.isT1)).map (fun (f : Frame) => if f.ten = ten then { f with ten := noTenant } else f)
      retSlots := d.plc.retSlots ++ (own.filter (fun (q : Nat × Nat) => decide (q.2 = 0x3FFF))).map Prod.fst
      suspects := d.plc.suspects.filter (fun s => decide (s.1.ten ≠ ten))
      declined := d.plc.declined.filter (fun s => decide (s.1.ten ≠ ten ∧ s.2 ≠ 8))
      claims := d.plc.claims.filter (fun c => decide (c.id.ten ≠ ten))
      commits := d.plc.commits.filter (fun c => decide (c.1.ten ≠ ten))
      owed := d.plc.owed.filter (fun c => decide (c.1.ten ≠ ten))
      moveWaits := d.plc.moveWaits.filter (fun c => decide (c.1.ten ≠ ten)) }
    sec := { d.sec with zero := d.sec.zero ++ d.sec.zeroHold ++ zs, zeroHold := [] } }
  images.foldl Dev.freeImg (d.freeBlks (blks.filter (fun a => decide (2 ^ 29 ≤ a))))

/-- The erase and the slot's new state; the command completes when the entries have committed (Table 13.5, steps 7 and 8). -/
def Dev.tdFinish (d : Dev) (t : Teardown) : Dev :=
  let part := d.partOf t.ten
  let gone := decide (t.gen = 0xFFFF)
  let d := (d.tdFree t.ten).modTenant t.ten (fun x => { x with state := if gone then 3 else 0, gen := t.gen, trk := [], part := 0 })
  let d := { d with sec := { d.sec with td := some { t with step := 8 } } }
  let d := d.tenantLog t.ten part t.gen 3
  let hs := [Held.teardownDone t.ten]
  let d := d.journal { type := 6, tenant := t.ten, part := part, epoch := t.gen - 1 } (if gone then [] else hs)
  if gone then d.journal { type := 5, sub := 3, tenant := t.ten, part := part } hs else d

/-- TEARDOWN_RESIDUE_CLEAR: the residue has gone; the on-die clear, the erase and the completion follow. -/
def Dev.tdNext (d : Dev) : Dev :=
  match d.sec.td, d.sec.tdWait with
  | none, t :: r => start { d with sec := { d.sec with tdWait := r } } t
  | _, _ => d
where
  /-- Steps 1 to 4 of a teardown, which then waits for its residue. -/
  start (d : Dev) (ten : Nat) : Dev :=
    let d := d.tdBump ten
    let d := { d with sec := { d.sec with td := some ⟨ten, 5, d.gen ten⟩ } }
    ((d.tdStop ten).tdDma ten).tdUnbind ten

/-- Log entry 84, DEDUCED. -/
def residueStep (qb : QBuf) (d : Dev) : QBuf × Dev :=
  match d.sec.td with
  | none => (qb, d.tdNext)
  | some t => if t.step ≠ 5 ∨ d.residue ≠ 0 then (qb, d) else (qb.clear (fun x => decide (x = t.ten)), (d.tdFinish t).tdNext)

/-- REMOVE_TENANT: one at a time; a second waits until the running one completes. A tenant named by a waiting command is refused as its
turn would find it. Log entry 85, DEDUCED. -/
def removeStep (ten : Nat) (d : Dev) : Dev :=
  if !d.ready then d else
  if !d.active ten ∨ d.sec.tdWait.contains ten then d.mgmtDone 0x0102 (stCode .keyRevoked) [] else
  ({ d with sec := { d.sec with tdWait := d.sec.tdWait ++ [ten] } }).tdNext

/-! ### The background fill (R352) -/

/-- So many KiB zeroed, oldest storage first: what is complete, and what is left. -/
def zeroed : (kib : Nat) → List Zero → List Zero × List Zero
  | _, [] => ([], [])
  | k, z :: r => if z.kib ≤ k then ((z :: (zeroed (k - z.kib) r).1), (zeroed (k - z.kib) r).2) else ([], { z with kib := z.kib - k } :: r)

/-- A piece that is zero throughout: the fill's ordinary claims (R90), and the space goes back to its allocator. -/
def Dev.zeroDone (d : Dev) (z : Zero) : Dev :=
  let d := match z.frame with
    | some (.t1 s c o, fcls) => d.claimFrame s c o fcls true
    | _ => d
  let d := match z.blk with
    | none => d
    | some a => { d.claimBlk a true with pgm := { d.pgm with blkFree := d.pgm.blkFree ++ [a] } }
  { d with plc := { d.plc with
      frames := match z.frame with
        | none => d.plc.frames
        | some (l, _) => d.plc.frames.filter (fun f => decide (f.loc ≠ l ∨ f.ten ≠ noTenant))
      retGran := match z.gran with
        | none => d.plc.retGran
        | some g => if d.plc.retGran.contains g then d.plc.retGran else d.plc.retGran ++ [g] } }

/-- ZERO_FILL: some KiB of what waits are zero. -/
def zeroFillStep (kib : Nat) (d : Dev) : Dev :=
  if !d.awake then d else
  let n := min kib d.zeroPend
  let (go, stay) := zeroed n d.sec.zero
  (go.foldl Dev.zeroDone { d with sec := { d.sec with zero := stay } }).bump (rk 0x01100040 0) 64 n

end Sys2Proof.Machine
end

