-- ==== Sys2Proof/Machine/Startup.lean ====
section
/-! DEFINITION. The configuration image and its checks (R382 to R386), the journal ring and its commits (R376 to R379), and start-up
(R388 to R390). -/

namespace Sys2Proof.Machine

/-! ### The slot selector (R382) -/

/-- Bytes of the NOR. -/
def norRead (nor : Memory) (a n : Nat) : Bytes := memRead norByte nor a n

/-- A selector copy: SLOT and SEQ, when its MAGIC and CRC hold. -/
def selCopy (nor : Memory) (i : Nat) : Option (Nat × Nat) :=
  let b := leNat (norRead nor (0x04000000 + 0x1000 * i) 16)
  if fld b 0 32 = 0x4C455347 ∧ fld b 96 32 = crc32c (leBytes 12 (fld b 0 96)) then some (fld b 32 1, fld b 64 32) else none

/-- The copy that start-up uses, the first of two with the same SEQ: its number and SLOT. -/
def selector (nor : Memory) : Option (Nat × Nat) :=
  match selCopy nor 0, selCopy nor 1 with
  | none, none => none
  | some (s, _), none => some (0, s)
  | none, some (s, _) => some (1, s)
  | some (s, a), some (t, b) => if a < b then some (1, t) else some (0, s)

/-- The address of an image slot. -/
def slotAt (slot : Nat) : Nat := 0x02000000 * slot

/-! ### The image (R383, R384) -/

/-- A section: type, offset and length. -/
def imgSections (im : Bytes) : List (Nat × Nat × Nat) :=
  (List.range (leAt im 14 2)).map (fun i =>
    let e := leAt im (1824 + 16 * i) 16
    (fld e 0 16, fld e 32 32, fld e 64 32))

/-- The bytes of a section; none when it is absent. -/
def imgSection (im : Bytes) (type : Nat) : Bytes := match (imgSections im).find? (fun s => decide (s.1 = type)) with
  | none => []
  | some s => sliceB im s.2.1 s.2.2

/-- Whether some bytes are all zero. -/
def zeros (bs : Bytes) : Bool := bs.all (fun b => decide (b = 0))

/-- A register-load entry: BAR0 offset and value. -/
def imgLoads (im : Bytes) : List (Nat × Nat) :=
  let r := imgSection im 2
  (List.range (leAt r 0 4)).map (fun i => (leAt r (8 + 16 * i) 4, leAt r (16 + 16 * i) 8))

/-- A link-map entry. -/
def imgLink (im : Bytes) (n : Nat) : Nat := leAt (imgSection im 3) (8 * n) 8

/-- An issuer entry: PRESENT, RIGHTS and key. -/
def imgIssuer (im : Bytes) (i : Nat) : Nat × Nat × Bytes :=
  let t := imgSection im 4
  (leAt t (1808 * i) 1, leAt t (1808 * i + 1) 1, sliceB t (1808 * i + 8) 1793)

/-- The section rules of R383 and Table 15.2. -/
def sectionsOk (im : Bytes) : Bool :=
  let len := leAt im 8 4
  let ss := imgSections im
  let count (t : Nat) : Nat := (ss.filter (fun s => decide (s.1 = t))).length
  let apart (a b : Nat × Nat × Nat) : Bool := decide (a.2.1 + a.2.2 ≤ b.2.1 ∨ b.2.1 + b.2.2 ≤ a.2.1)
  ss.all (fun s => decide (s.2.1 % 64 = 0 ∧ 4096 ≤ s.2.1 ∧ s.2.1 + s.2.2 + 1280 ≤ len ∧ 1 ≤ s.1 ∧ s.1 ≤ 5)) &&
  (List.range (leAt im 14 2)).all (fun i => decide (leAt im (1824 + 16 * i + 2) 2 = 0 ∧ leAt im (1824 + 16 * i + 12) 4 = 0)) &&
  (ss.zipIdx).all (fun a => (ss.zipIdx).all (fun b => decide (a.2 = b.2) || apart a.1 b.1)) &&
  decide (count 1 = 1 ∧ count 2 = 1 ∧ count 3 = 1 ∧ count 4 = 1 ∧ count 5 ≤ 1)

/-- The contents of the sections that the node reads; a partner's endpoint number is well formed (R258). -/
def contentsOk (im : Bytes) : Bool :=
  let fw := imgSection im 1
  let r := imgSection im 2
  let t := imgSection im 4
  decide (1800 + 1280 ≤ fw.length ∧ fw.length ≤ 2 ^ 24 ∧ leAt fw 1793 7 = 0) &&
  decide (8 ≤ r.length ∧ leAt r 4 4 = 0 ∧ r.length = 8 + 16 * leAt r 0 4) && (List.range (leAt r 0 4)).all (fun i => decide (leAt r (12 + 16 * i) 4 = 0)) &&
  decide ((imgSection im 3).length = 256 ∧ t.length = 7232) &&
  (List.range 32).all (fun n => decide (fld (imgLink im n) 2 6 = 0 ∧ fld (imgLink im n) 24 5 = fld (imgLink im n) 24 40) && epOk (fld (imgLink im n) 8 16)) &&
  (List.range 4).all (fun i => decide ((imgIssuer im i).1 ≤ 1 ∧ (imgIssuer im i).2.1 < 32 ∧ leAt t (1808 * i + 2) 6 = 0 ∧ leAt t (1808 * i + 1801) 7 = 0))

/-- Check 2 of Table 15.3, on the header and then on an image of IMGLEN bytes; the bits of NODE above its 12 are reserved (R8, R9). -/
def headOk (im : Bytes) : Bool :=
  decide (leAt im 0 4 = 0x4D4E5247 ∧ leAt im 4 2 = 1 ∧ leAt im 6 2 = 0x0960 ∧ leAt im 8 4 ≤ 2 ^ 25 ∧ 4096 + 1280 ≤ leAt im 8 4 ∧
    leAt im 12 2 < 2 ^ 12 ∧ 4 ≤ leAt im 14 2 ∧ leAt im 14 2 ≤ 5 ∧ leAt im 1817 7 = 0) && zeros (sliceB im 1904 2192)
def formOk (im : Bytes) : Bool := headOk im && sectionsOk im && contentsOk im

/-- Check 3: the firmware key and signature. -/
def firmwareOk (im : Bytes) : Bool :=
  let fw := imgSection im 1
  let pk := sliceB fw 0 1793
  decide (shake256 64 pk = Config.fwpkDigest) && Config.falconVerify pk (fw.take (fw.length - 1280)) (fw.drop (fw.length - 1280))

/-- Check 4: the operator key and signature. -/
def operatorOk (im : Bytes) : Bool :=
  let pk := sliceB im 24 1793
  (match Config.opkFuse with
   | none => true
   | some g => decide (shake256 64 pk = g)) && Config.falconVerify pk (im.take (im.length - 1280)) (im.drop (im.length - 1280))

/-! ### Register loads and layout (R385) -/

/-- The fields that an image may load at an offset: low bit, width, least and greatest value. -/
def loadFields (off : Nat) : List (Nat × Nat × Nat × Nat) :=
  let reg (base step n : Nat) : Bool := decide (base ≤ off ∧ (off - base) % step = 0 ∧ (off - base) / step < n)
  let all (lo w : Nat) : Nat × Nat × Nat × Nat := (lo, w, 0, 2 ^ w - 1)
  if off = 0x00200000 then [(0, 5, 0, 16)]
  else if reg 0x00200040 4 16 then [all 0 12, (16, 13, 0, 4096)]
  else if reg 0x00400008 0x100 8 then [all 0 16]
  else if off = 0x00600000 then [(0, 6, 4, 32), (8, 5, 12, 15), (16, 5, 0, 20)]
  else if off = 0x00800018 then [(0, 5, 10, 24), all 8 8, all 16 7, all 24 7, all 32 7, all 40 7]
  else if off = 0x00800020 then [all 0 16]
  else if reg 0x00800060 8 2 then (List.range 4).flatMap (fun j => [all (16 * j) 12, all (16 * j + 15) 1])
  else if off = 0x00900000 then [(0, 10, 0, 506), all 16 8, (24, 5, 10, 24), all 32 8]
  else if off = 0x00A00000 then [all 0 32, all 32 17]
  else if off = 0x00E00000 then [(0, 11, 64, 1024), (16, 5, 16, 24), all 32 16, all 48 1]
  else if reg 0x00E00080 4 4 then [all 0 12, all 16 12, all 31 1]
  else if off = 0x00F00000 then (List.range 8).map (fun k => all (8 * k) 8)
  else if off = 0x00F00008 then (List.range 4).map (fun k => all (8 * k) 8)
  else if reg 0x01000100 8 17 then [all 0 12, (16, 13, 0, 4096), all 32 12, (48, 13, 0, 4096)]
  else if reg 0x01000200 4 17 then [(0, 5, 0, if off = 0x01000200 then 0 else 16), (16, 7, 0, 64)]
  else if reg 0x01001000 0x40 64 then [(0, 5, 0, 31)]
  else if off = 0x01300020 then [(0, 7, 1, 64)]
  else []

/-- Rules that tie fields of one load together, or leave out values in a range. -/
def loadExtra (off v : Nat) : Bool :=
  if off = 0x00800018 then decide (fld v 16 7 ≤ fld v 24 7)
  else if off = 0x00A00000 then
    (List.range 16).all (fun b => decide (fld v (2 * b) 2 ≠ 3)) && decide (fld v 32 17 ≤ 4096 * ((List.range 16).filter (fun b => decide (fld v (2 * b) 2 = 0))).length)
  else if 0x01000100 ≤ off ∧ off < 0x01000188 then decide (fld v 0 12 + fld v 16 13 ≤ 4096 ∧ fld v 32 12 + fld v 48 13 ≤ 4096)
  else if 0x01001000 ≤ off ∧ off < 0x01002000 then decide (fld v 0 5 ≤ 17 ∨ fld v 0 5 = 31)
  else true

/-- A load of a register whose "from image" field shows what the node finds otherwise: its layout, its channels, the image's header or its TRUST section.
The field takes any value, and shows what it is there to show; every other bit keeps its reset value (R385, R406; log entry 86, DEDUCED). -/
def loadShown (off v : Nat) : Bool :=
  if off = 0x00800000 ∨ off = 0x00800008 then decide (v / 2 ^ 32 = fld v 0 32)
  else if 0x01001000 ≤ off ∧ off < 0x01002000 ∧ off % 0x40 = 8 then decide (v = 256 * fld v 8 6)
  else if off = 0x01300010 then decide (v = pack [(0, 12, fld v 0 12), (16, 5, fld v 16 5), (24, 1, b2n Config.opkFuse.isSome), (32, 32, v / 2 ^ 32)])
  else if off = 0x01300018 then true
  else if 0x01300100 ≤ off ∧ off < 0x01300120 ∧ off % 8 = 0 then decide (v = pack [(0, 1, fld v 0 1), (8, 5, fld v 8 5)])
  else false

/-- Whether one load keeps the rules of R385: a loadable register, every other bit at its reset value, every field in range. -/
def loadOk (l : Nat × Nat) : Bool :=
  let fs := loadFields l.1
  if fs.isEmpty then loadShown l.1 l.2 else fs.all (fun f => decide (f.2.2.1 ≤ fld l.2 f.1 f.2.1 ∧ fld l.2 f.1 f.2.1 ≤ f.2.2.2)) &&
  decide (pack (fs.map (fun f => (f.1, f.2.1, fld l.2 f.1 f.2.1))) = l.2) && loadExtra l.1 l.2

/-- The stored fields after the loads. -/
def loadAll (d : Dev) (ls : List (Nat × Nat)) : Dev :=
  ls.foldl (fun d l => d.setRegs ((loadFields l.1).map (fun f => (rk l.1 f.1, fld l.2 f.1 f.2.1)))) d

/-- KiB of T0 (160 MiB) and T1 (512 GiB) that the layout leaves for frames. Log entry 87, DEDUCED. -/
def Dev.layoutT0 (d : Dev) : Option Nat :=
  let mib := d.reg (rk 0x00200000 0) + d.reg (rk 0x00600000 0) + 10 + sumN ((List.range 17).map (fun f => d.reg (rk (0x01000200 + 4 * f) 0)))
  let used := mib * 1024 + cdiv (2 ^ d.reg (rk 0x00600000 8) * 64) 1024
  if used ≤ 128 * 1024 then some (160 * 1024 - used) else none
def Dev.layoutT1 (d : Dev) : Option Nat :=
  let used := 4384 * 1024 + cdiv (2 ^ d.reg (rk 0x00600000 16) * 32) 1024 + cdiv (2 ^ d.reg (rk 0x00E00000 16) * 32) 1024 + d.reg (rk 0x01300020 0) * 2 ^ 20
  if used + 256 * 2 ^ 20 ≤ 512 * 2 ^ 20 then some (512 * 2 ^ 20 - used) else none

/-- Whether the queue ranges of two functions stay apart (R306). -/
def Dev.rangesOk (d : Dev) : Bool :=
  let rg (f lo n : Nat) : Nat × Nat := (d.reg (rk (0x01000100 + 8 * f) lo), d.reg (rk (0x01000100 + 8 * f) n))
  let apart (a b : Nat × Nat) : Bool := decide (a.2 = 0 ∨ b.2 = 0 ∨ a.1 + a.2 ≤ b.1 ∨ b.1 + b.2 ≤ a.1)
  (List.range 17).all (fun f => (List.range f).all (fun g => apart (rg f 0 16) (rg g 0 16) && apart (rg f 32 48) (rg g 32 48)))

/-- Whether the partition shares stay apart and inside the query buffer (R64). -/
def Dev.sharesOk (d : Dev) : Bool :=
  let sh (p : Nat) : Nat × Nat := (d.reg (rk (0x00200040 + 4 * p) 0), d.reg (rk (0x00200040 + 4 * p) 16))
  (List.range 16).all (fun p => decide ((sh p).2 = 0 ∨ (sh p).1 + (sh p).2 ≤ 256 * d.reg (rk 0x00200000 0)) &&
    (List.range p).all (fun q => decide ((sh p).2 = 0 ∨ (sh q).2 = 0 ∨ (sh p).1 + (sh p).2 ≤ (sh q).1 ∨ (sh q).1 + (sh q).2 ≤ (sh p).1)))

/-- Whether the node owns at least four channels (R414). -/
def Dev.nodeChansOk (d : Dev) : Bool :=
  decide (4 ≤ ((List.range 64).filter (fun c => decide (d.reg (rk (0x01001000 + 0x40 * c) 0) = 17))).length)

/-- Whether the tray map names the node at exactly one position with SELF set. -/
def Dev.trayOk (d : Dev) (node : Nat) : Bool :=
  let pos (i : Nat) (lo : Nat) : Nat := d.reg (rk (0x00800060 + 8 * (i / 4)) (16 * (i % 4) + lo))
  let own := (List.range 8).filter (fun i => decide (pos i 15 = 1))
  decide (own.length = 1) && own.all (fun i => decide (pos i 0 = node))

/-- Check 5: the first failing entry, or 0xFFFF; else the device with its loads and layout. -/
def loadLayout (d : Dev) (im : Bytes) : Except Nat Dev :=
  let ls := imgLoads im
  match ls.findIdx? (fun l => !loadOk l) with
  | some i => .error (min i 0xFFFF)
  | none =>
    let d := loadAll d ls
    match d.layoutT0, d.layoutT1 with
    | some a, some b =>
      if d.rangesOk && d.sharesOk && d.nodeChansOk && d.trayOk (leAt im 12 2) && decide (d.reg (rk 0x00900000 0) ≤ b / 2 ^ 20) then
        .ok (d.setRegs [(rk 0x00800000 0, a), (rk 0x00800008 0, b)])
      else .error 0xFFFF
    | _, _ => .error 0xFFFF

/-- The checks of Table 15.3 from the second: FAIL and DETAIL, or the image and the device it lays out. -/
def imageCheck (nor : Memory) (slot : Nat) (d : Dev) : Except (Nat × Nat) (Bytes × Dev) :=
  let head := norRead nor (slotAt slot) 4096
  if !headOk head then .error (2, 0) else
  let im := norRead nor (slotAt slot) (leAt head 8 4)
  if !formOk im then .error (2, 0) else
  if !firmwareOk im then .error (3, 0) else
  if !operatorOk im then .error (4, 0) else
  match loadLayout d im with
  | .error i => .error (5, i)
  | .ok d => .ok (im, d)

/-! ### The journal ring (R376 to R379) -/

/-- JSEQ of an entry in a slot, when its CRC holds and the slot is its own. -/
def ringSeq (nslot : Nat) (e : Nat × W512) : Option Nat :=
  let s := wf e.2 0 64
  if wf e.2 480 32 = crc32c (leBytes 60 (e.2.toNat % 2 ^ 480)) ∧ 1 ≤ s ∧ (s - 1) % nslot = e.1 then some s else none

/-- The start-up scan: the next JSEQ, one past the newest valid entry. -/
def Mram.next (m : Mram) : Nat := 1 + (m.entries.filterMap (ringSeq m.nslot)).foldl max 0

/-- JNL_OLDEST. -/
def oldestSeq (nslot head : Nat) : Nat := if head ≤ nslot + 1 then 1 else head - nslot

/-- What a journal read gives: RESULT, and the entry of a JSEQ (R379, Table 15.15). -/
def jnlRead (m : Mram) (d : Dev) (s : Nat) : Nat × Nat :=
  if d.rcv.jstate ≠ 1 then (3, 0) else
  if s < oldestSeq m.nslot d.rcv.jhead ∨ d.rcv.jhead ≤ s ∨ s = 0 then (1, 0) else
  match mget m.entries ((s - 1) % m.nslot) with
  | none => (2, 0)
  | some e => if ringSeq m.nslot ((s - 1) % m.nslot, e) = some s then (0, e.toNat) else (2, e.toNat)

/-- A journal read takes place: JNL_RD_CMD's shows in the registers, the sideband's is sent. -/
def Dev.serveRead (d : Dev) (m : Mram) : Option Nat → Dev
  | none =>
    let (r, e) := jnlRead m d (d.reg (rk 0x01400020 0))
    d.setRegs ((rk 0x01400030 0, r) :: (rk 0x01400030 31, 1) :: (List.range 8).map (fun w => (rk (0x01400040 + 8 * w) 0, fld e (64 * w) 64)))
  | some s =>
    let (r, e) := jnlRead m d s
    d.emit (.i3c (leBytes 1 r ++ leBytes 64 e))

/-- Reads that waited take place once no commit waits (R408). -/
def Dev.serveReads (d : Dev) (m : Mram) : Dev :=
  if !d.rcv.jq.isEmpty ∨ d.rcv.jreads.isEmpty then d else
  d.rcv.jreads.foldl (fun d r => d.serveRead m r) { d with rcv := { d.rcv with jreads := [] } }

/-- A journal read is asked for; JNL_RD_CMD.GO clears DONE. -/
def Dev.askRead (d : Dev) (m : Mram) (r : Option Nat) : Dev :=
  if d.rcv.jstate = 1 ∧ !d.rcv.jq.isEmpty then
    let d := if r.isNone then d.setReg (rk 0x01400030 31) 0 else d
    if r.isNone ∧ d.rcv.jreads.contains r then d else { d with rcv := { d.rcv with jreads := d.rcv.jreads ++ [r] } }
  else d.serveRead m r

/-- The oldest queued entry commits: it takes its JSEQ and its slot, and what it held is let go (R377, R378). -/
def commitOne (m : Mram) (d : Dev) : Mram × Dev :=
  match d.rcv.jq with
  | [] => (m, d)
  | e :: r =>
    let s := d.rcv.jhead
    let m := { m with entries := mset m.entries ((s - 1) % m.nslot) (jEntry s e.data) }
    (m, (({ d with rcv := { d.rcv with jq := r, jhead := s + 1, jfails := 0 } }).letGoAll s true false e.held).serveReads m)

/-- Every entry now in the queue commits, in order: a reset waits for its commits (R365). -/
def commitN : Nat → Mram → Dev → Mram × Dev
  | 0, m, d => (m, d)
  | n + 1, m, d =>
    let r := commitOne m d
    commitN n r.1 r.2
def commitAll (m : Mram) (d : Dev) : Mram × Dev := if d.rcv.jstate = 1 then commitN d.rcv.jq.length m d else (m, d)

/-- The journal is FAILED or absent: a record shows it, and queued entries are acknowledged without a commit (R379). -/
def Dev.jnlFail (d : Dev) (state : Nat) : Dev :=
  let es := d.rcv.jq
  let d := { d with rcv := { d.rcv with jstate := state, jq := [] } }
  let d := d.fault { code := 0x84, engine := 14 * 4096 } false []
  (es.foldl (fun d e => d.letGoAll 0 false true e.held) d).serveReads ⟨0, 0, []⟩

/-! ### Start-up (Table 15.4) -/

/-- What a full chip reset leaves on the die: nothing. The model's own counters and the outputs sent stay. -/
def Dev.fullReset (d : Dev) : Dev := { Dev.reset with out := d.out, free := d.free, sec := { Sec.reset with draws := d.sec.draws } }

/-- Start-up stops at a step (R390). -/
def Dev.startFails (d : Dev) (step fail detail : Nat) : Dev :=
  { d with pwr := { d.pwr with state := .failed, step := step, fail := fail, detail := detail } }

/-- Step 1: NRK and BOOTID are drawn (R332, R333). -/
def Dev.drawRoots (d : Dev) : Dev :=
  let (k, d) := d.draw 32
  let (b, d) := d.draw 4
  { d with sec := { d.sec with nrk := k, bootid := leNat b } }

/-- The header that a blank journal device takes: MAGIC, FORMAT, NSLOT and the CRC of the first 12 bytes (R388). -/
def jnlHeader (nslot : Nat) : BitVec 128 :=
  let b := pack [(0, 32, 0x4C4E524A), (32, 16, 1), (64, 32, nslot)]
  BitVec.ofNat 128 (b + 2 ^ 96 * crc32c (leBytes 12 b))

/-- Whether a header's CRC holds. -/
def jnlHeaderOk (h : BitVec 128) : Bool := decide (h.toNat / 2 ^ 96 = crc32c (leBytes 12 (h.toNat % 2 ^ 96)))

/-- Step 2: the journal device. A blank device takes a header; one whose header fails its CRC fails the journal; the ring is scanned. Log entry 90,
DEDUCED. -/
def startJournal (j : JDev) (m : Mram) (d : Dev) : Mram × Dev :=
  match j with
  | .absent => (m, d.jnlFail 0)
  | .badHeader => (m, d.jnlFail 2)
  | .present n =>
    let m := if m.header = 0 ∨ m.header = BitVec.allOnes 128 then { m with header := jnlHeader ((n - 4096) / 64) } else m
    if !jnlHeaderOk m.header then (m, d.jnlFail 2) else
    let m := { m with nslot := m.header.toNat / 2 ^ 64 % 2 ^ 32 }
    (m, { d with rcv := { d.rcv with jstate := 1, jhead := m.next } })

/-- DICE (Table 13.8). Log entry 80, PRESUMED. -/
def Dev.dice (d : Dev) (im : Bytes) : Dev :=
  let cdi0 := shake256 64 (Config.uds ++ Config.romDigest)
  let dev := shake256 64 (cdi0 ++ ascii "DEVID")
  let fw := shake256 64 (imgSection im 1)
  let ig := shake256 64 im
  let d := { d with sec := { d.sec with
    identity := true, fwDigest := fw, imgDigest := ig, fwSha := sha384 (imgSection im 1), imgSha := sha384 im, cdi1 := shake256 64 (cdi0 ++ fw ++ ig), cert := imgSection im 5,
    devDigest := shake256 64 (Config.falconPublic dev) } }
  let bind := ascii "ALIAS" ++ leBytes 4 topId ++ fw ++ ig ++ sliceB (Config.falconPublic (d.layerSeed "ALIAS")) 0 1793 ++
    sliceB (Config.kemPublic (d.layerSeed "ADMIT")) 0 1568 ++ sliceB (Config.spdmPublic (d.layerSeed "SPDM")) 0 96
  { d with sec := { d.sec with aliasSig := sliceB (Config.falconSign dev bind) 0 1280 } }

/-- What the image fixes besides its register loads: node number, image registers, link map, issuers. Links of the map begin training. -/
def Dev.takeImageFields (d : Dev) (im : Bytes) : Dev :=
  let link (n : Nat) : Link :=
    let e := imgLink im n
    let l := Link.reset (fld e 0 2) (fld e 8 16) (fld e 24 5)
    if fld e 0 2 = 0 then l else { l with state := 1 }
  let iss := (List.range 4).filter (fun i => decide ((imgIssuer im i).1 = 1))
  let d := d.setRegs [(rk 0x01300010 16, leAt im 14 2), (rk 0x01300010 32, leAt im 8 4), (rk 0x01300018 0, leAt im 16 8)]
  { d with links := (List.range 32).map (fun n => (n, link n))
           pwr := { d.pwr with node := leAt im 12 2, issuers := iss.map (fun i => (i, (imgIssuer im i).2)) } }

/-- Steps 7 and 8: stacks are trained, the firmware runs, the lock point passes. -/
def Dev.startDone (d : Dev) : Dev :=
  let d := { d with bnk := { d.bnk with stks := (List.range 8).map (fun n => (n, { Stack.empty with trained := true })) } }
  let d := (d.mlog 1 Config.romDigest).mlog 2 d.sec.fwDigest
  let d := d.mlog 3 d.sec.imgDigest
  { d with pwr := { d.pwr with locked := true, step := 8 } }

/-- The node sends Function Readiness Status for every enabled function, and is ready. The reset cleared VF Enable, so that is the PF (R329, R388; log entry
86, DEDUCED). -/
def Dev.startReady (d : Dev) : Dev :=
  { d with pwr := { d.pwr with state := .ready } }.emit (.frs 0)

/-- The steps of Table 15.4 on a device that a full chip reset has cleared. Log entry 92, DEDUCED. -/
def startSteps (env : StartEnv) (nor : Memory) (m : Mram) (d : Dev) : Mram × Dev :=
  if !env.sramOk then (m, d.startFails 0 7 0) else
  let (m, d) := startJournal env.jdev m d.drawRoots
  if !env.norOk then (m, d.startFails 2 1 0) else
  match selector nor with
  | none => (m, d.startFails 2 1 0)
  | some (_, slot) =>
    let d := { d with pwr := { d.pwr with slot := decide (slot = 1) } }
    match imageCheck nor slot d with
    | .error (f, x) => (m, d.startFails 3 f x)
    | .ok (im, d') =>
      match env.hbmFail with
      | some s => (m, (d.dice im).startFails 4 6 s)
      | none =>
        if !env.fwOk then (m, ((d.dice im).takeImageFields im).startFails 6 8 0) else
        let d := ((d'.dice im).takeImageFields im).startDone
        let (m, d) := commitAll m (d.journal { type := 9, arg := topId } [])
        (m, d.startReady)

/-- What a full chip reset clears of the state that stands beside the registers: the pins and boundary scan stay (log entry 89, DEDUCED). -/
def Phys.lost (p : Phys) : Phys := { p with i3cDyn := none, dies := [], cls := [], mainT := 0, mainPk := none }

/-- A full chip reset: everything on the die is lost, and start-up runs (R373, R388). Log entry 89, DEDUCED. -/
def fullChip (env : StartEnv) (s : State) : State :=
  let r := startSteps env s.nor s.mram s.dev.fullReset
  { s with qb := ⟨[], []⟩, mram := r.1, dev := r.2, phys := s.phys.lost }

/-- The node held in reset: everything on the die is lost (R373, R402). -/
def heldReset (s : State) : State :=
  { s with qb := ⟨[], []⟩, dev := s.dev.fullReset, phys := s.phys.lost }

/-- PERST_RELEASE and NODE_RST_RELEASE: the second of the two to be released, with PWROK high, starts the node (R388). Log entry 54, DEDUCED. -/
def releaseStep (env : StartEnv) (p : Phys) (s : State) : State :=
  let s := { s with phys := p }
  if p.pwrok && !p.perst && !p.nodeRst then fullChip env s else s

/-- POWER_LOSS: the node stops at once, and all on-die state is lost (R400). Stored journal entries and the NOR stay. -/
def powerLossStep (s : State) : State :=
  { heldReset s with phys := { Phys.reset with perst := s.phys.perst, nodeRst := s.phys.nodeRst } }

end Sys2Proof.Machine
end

