-- ==== Sys2Proof/Machine/Resets.lean ====
section
/-! DEFINITION. Faults that stop a block (R360), and the reset levels (R364 to R374). -/

namespace Sys2Proof.Machine

/-! ### Faults that stop (Table 14.2) -/

/-- Whether an ENGINE code names a unit of the node. -/
def engineExists (e : Nat) : Bool :=
  let u := e % 4096
  match e / 4096 with
  | 1 => true
  | 2 => decide (u < 24)
  | 3 => decide (u < 8)
  | 5 => decide (u < 64)
  | 6 => decide (u < 32)
  | k => decide (k ∈ [4, 7, 8, 9, 10, 11, 12, 13, 14] ∧ u = 0)

/-- A fault that stops its unit; a tenon that it met is named. -/
def Dev.stopFault (d : Dev) (code sub engine level tidx : Nat) : Dev :=
  let j : JInfo := { code := code, sub := sub, engine := engine, level := level }
  let j := match mget d.atn.table tidx with
    | none => j
    | some e => { j with tenant := e.tn.ten, part := e.tn.part, tag := e.tn.tag, ctxid := tidx, ckind := 1 }
  (d.stop engine level).fault j true []

/-- UNCORRECTABLE_ARRAY_ERROR: an engine reset clears the stop of a cluster, a base die or the codec, a full chip reset any other. -/
def arrayErrorStep (engine array tidx : Nat) (d : Dev) : Dev :=
  if !engineExists engine ∨ 256 ≤ array ∨ d.pwr.state = .starting ∨ d.pwr.state = .failed then d else
  d.stopFault 0x80 array engine (if [2, 3, 4].contains (engine / 4096) then 2 else 5) tidx

/-- HANDSHAKE_PROTOCOL_ERROR: an engine reset clears the stop of a cluster, a stack or the codec, else a compute-only chip reset. A bank
engine is a part of its stack. Log entry 94, DEDUCED. -/
def handshakeErrorStep (engine stage : Nat) (d : Dev) : Dev :=
  if !engineExists engine ∨ 256 ≤ stage ∨ d.pwr.state = .starting ∨ d.pwr.state = .failed then d else
  d.stopFault 0x82 stage engine (if [1, 2, 3, 4].contains (engine / 4096) then 2 else 4) 65536

/-- MANAGEMENT_CORE_EXCEPTION. -/
def coreExceptionStep (exc : Nat) (d : Dev) : Dev :=
  if 256 ≤ exc ∨ d.pwr.state = .starting ∨ d.pwr.state = .failed then d else d.stopFault 0x83 exc (14 * 4096) 4 65536

/-! ### Ending work (R366) -/

/-- Every piece of work of the tenants that pass a test. Log entry 77, DEDUCED. -/
def Dev.endWork (d : Dev) (p : Nat → Bool) : Dev :=
  let mine (w : Work) : Bool := p (wf w.desc 0 12)
  let d := d.stopTenons (fun _ e => p e.tn.ten) .fenced true false
  let d := d.stopQueue mine .fenced
  let d := d.stopEdits (fun q => p q.ten) .fenced
  let d := d.stopSeqWork mine .fenced
  let d := d.stopPoolWork mine .fenced
  let d := d.abortDrafts .orphaned (fun x => p (d.regionTen x.region))
  let d := d.stopFwds (fun x => p (plTen x)) .fenced
  let d := d.stopOffers (fun w => p (pbRun w.body).ten)
  d.stopRidges (d.mergeOn (fun q => p q.ten))

/-- Mirror fills that were running start again (R374). -/
def Dev.refill (d : Dev) (p : Nat → Bool) : Dev :=
  (d.sec.tenants.filter (fun t => p t.1 && decide (t.2.mirstate = 1))).foldl (fun d t => match t.2.mirror with
    | none => d
    | some _ => d.startFill t.1 none) d

/-- Strokes that hold banks of some stacks end, each counted by its engine (R107, R365). -/
def Dev.endStrokes (d : Dev) (p : Nat → Bool) : Dev :=
  (d.bnk.banks.filter (fun b => p (b.1 / 2048))).foldl (fun d b => match b.2.held with
    | some (.stroke _) => d.slotEnds b.1 (engUnit (b.1 / 2048) (b.1 / 128 % 16) (b.1 / 4 % 32)) (d.bank b.1)
    | _ => d) d

/-! ### Level 1 (Table 14.7) -/

/-- Whether the context of a reset exists. -/
def Dev.ctxExists (d : Dev) (ckind target : Nat) : Bool := match ckind with
  | 1 => (mget d.atn.table target).isSome
  | 2 => (match d.running target with
    | none => false
    | some e => decide ((e.move.map Prod.fst) ≠ some .mark))
  | 3 => decide (target < 64)
  | _ => false

/-- A channel: the descriptor or the node transfers that it runs end, and no error is latched. -/
def Dev.chanReset (d : Dev) (ch : Nat) : Dev :=
  let c := d.chan ch
  if d.chOwner ch = 17 then
    let d := if c.state = 3 then d.nodeSkip ch else d
    match d.issuedOn ch with
    | none => d
    | some x => Dev.xferFails d d x.what
  else if c.job.isNone then d else
    let ab := c.reading
    let d := d.skipDesc ch
    d.setChan ch { d.chan ch with abandoned := c.abandoned ++ ab }

def Dev.ctxReset (d : Dev) (ckind target : Nat) : Dev := match ckind with
  | 1 => d.stopTenon target .fenced true false
  | 2 =>
    let ten := ((mget d.pgm.seqs target).map Seq.ten).getD 4096
    let waits := decide ((d.running target).map Edit.phase = some .mirror)
    let d := d.stopEdit target .fenced
    if waits then d.refill (fun t => decide (t = ten)) else d
  | _ => d.chanReset target

/-! ### Level 2 (Table 14.8) -/

/-- Tenons with work delivered to a stack and not finished there: held contexts some of whose orders its engines have taken. -/
def Dev.onStack (d : Dev) (s i : Nat) (e : Tenon) : Bool :=
  (d.stack s).ctxs.contains i && (e.parts.any (fun p => decide (p.1.1 / 512 = s)) || d.strokesRun s i)

/-- A stack: its strokes end, the tenons and edits it works end, its base die and engines are cleared. Contexts and orders not delivered wait for
it (R368, Table 14.8). -/
def Dev.stackReset (d : Dev) (s : Nat) : Dev :=
  let ts := (d.atn.table.filter (fun e => d.onStack s e.1 e.2)).map Prod.fst
  let d := ts.foldl (fun d i => d.stopTenon i .fenced true false) (d.endStrokes (fun n => decide (n = s)))
  let es := ((d.stack s).opens.filter (fun o => o.app && !o.dead)).map OpenOrd.tidx
  let d := (es.eraseDups.foldl (fun d slot => d.stopEdit slot .fenced) d).endOrds s (fun _ => false) (fun _ => true) true true
  let k := d.stack s
  d.setStack s { k with keys := [], copies := [], ctxs := [], ctxq := k.ctxs ++ k.ctxq }

/-- A cluster: the tenons with work delivered to it end, and its scratch is cleared. -/
def Dev.clusterReset (d : Dev) (n : Nat) : Dev :=
  let ts := (d.atn.scratch.filter (fun x => decide (x.cl = n))).map Scr.tidx
  let d := { d with atn := { d.atn with scratch := d.atn.scratch.filter (fun x => decide (x.cl ≠ n)) } }
  ts.foldl (fun d i => d.stopTenon i .fenced true false) d

/-- The codec: no job outlasts the command that runs it, so none is there to end. -/
def Dev.engineReset (d : Dev) (engine : Nat) : Dev := match engine / 4096 with
  | 2 => d.clusterReset (engine % 4096)
  | 3 => d.stackReset (engine % 4096)
  | _ => d

/-! ### Level 3 (R369) -/

def Dev.partReset (d : Dev) (p : Nat) : Dev :=
  let mine (t : Nat) : Bool := decide ((d.tenant t).state ≠ 0 ∧ d.partOf t = p)
  ((d.endWork mine).fnEvent (p + 1) true false 6).refill mine

/-! ### Level 4 (Table 14.9, R371, R372) -/

/-- The egress stores drain, policers suspended: every packet that some link can take departs. -/
def drain : (fuel : Nat) → Dev → Dev
  | 0, d => d
  | n + 1, d => drain n ((d.links.map Prod.fst).foldl (fun d l => schedStep l (enqueueStep l d)) d)

/-- The link that a packet not yet in an egress store would take: the path that its QP takes next, else the first of its PMASK from there. -/
def Dev.pktLink (d : Dev) (p : OutPkt) : Option Nat :=
  match mget d.trn.qps (wf p.hdr 84 20) with
  | none => none
  | some q => match pathOf d q with
    | some x => some x.2
    | none => (((List.range 16).map (fun i => (q.turn + i) % 16)).find? (fun n => decide (fld q.pmask n 1 = 1))).map (fun n => q.paths.getD n 32)

/-- What is left is discarded and counted, and its QPs resynchronise (R274). -/
def Dev.loseEgress (d : Dev) : Dev :=
  let left := d.pktsOf (fun _ => true)
  let qs := (left.map (fun p => wf p.hdr 84 20)).eraseDups
  let d := d.links.foldl (fun d l => d.bump (rk (0x00F01018 + 0x20 * l.1) 0) 64 
    (sumN (l.2.subqs.map (fun s => s.pkts.length)) + d.waitq.countP (fun p => decide (d.pktLink p = some l.1)))) d
  ((left.map OutPkt.tag).foldl Dev.departed (d.dropPkts (fun _ => true))).lossQps qs

/-- Step 4 of Table 14.9. Log entry 96, DEDUCED. -/
def Dev.drainEgress (d : Dev) : Dev :=
  let tsh := d.tsh
  let free (l : Link) : Link := { l with subqs := l.subqs.map (fun s => { s with kept := none }) }
  let d := drain (d.pktsOf (fun _ => true)).length { d with tsh := [], links := mmap d.links (fun _ l => free l) }
  { d.loseEgress with tsh := tsh }

/-- Management commands in progress end with ST_FENCED; a teardown and a mirror fill resume, a spare's fill is undone, and an
ended QP_DESTROY no longer holds its QP (R366, R374; log entry 43, DEDUCED). Log entry 97, DEDUCED. -/
def Dev.endCommands (d : Dev) : Dev :=
  let d := d.pwr.waits.foldl (fun d w => match w with
    | .fillSpare f => Dev.endFill f.ten .fenced d
    | .qpDestroy n => { d with trn := { d.trn with qps := mmod d.trn.qps n (fun q => { q with destroying := false }) } }
    | _ => d) d
  let stays : MWait → Bool
    | .setMirror _ => true
    | .removeTenant _ => true
    | _ => false
  let opcs := (d.pwr.inflight.map MCmd.opc).filter (fun o => !([0x0102, 0x0202, 0x0501].contains o))
  let d := { d with
    pwr := { d.pwr with waits := d.pwr.waits.filter stays, norOp := [], norOpc := 0 }
    plc := { d.plc with claims := d.plc.claims.filter (fun c => !c.apply) } }
  opcs.foldl (fun d o => d.mgmtDone o (stCode .fenced) []) d

/-- The logic reset: what R372 does not keep. -/
def Dev.logicReset (d : Dev) : Dev :=
  { d with
    atn := { d.atn with reports := [], clQ := [], scratch := [] }
    bnk := { d.bnk with
      stks := mmap d.bnk.stks (fun _ s => { s with ctxs := [], ctxq := [], orders := [], keys := [], opens := [], copies := [] })
      banks := mmap d.bnk.banks (fun _ b => { b with strokes := [], ords := [], held := match b.held with
        | some .refresh => some .refresh
        | _ => none }) } }

def Dev.computeReset (d : Dev) : Dev :=
  let d := (d.endStrokes (fun _ => true)).endWork (fun _ => true)
  -- descriptors of function channels end in their CQs (R366)
  let d := (List.range 64).foldl (fun d ch => if d.chOwner ch < 17 then d.chanReset ch else d) d
  d.endCommands.drainEgress.logicReset

/-- Step 8: function events, mirror fills from their start, acknowledgements that the links kept back, and the transfers that the reset abandoned are made
again: contexts and parked packets are kept (R370, R371, R374; log entry 95, DEDUCED). -/
def Dev.resumeAll (d : Dev) : Dev :=
  let d := (List.range 17).foldl (fun d f => d.fnEvent f true false 6) d
  let d := { d with dma := { d.dma with
    chans := mmap d.dma.chans (fun _ c => { c with abandoned := [] })
    xfers := d.dma.xfers.map (fun (x : Xfer) => ⟨x.what, none, false, 0⟩)
    sqTurn := (0, 0, 0) } }
  ((d.links.map Prod.fst).foldl Dev.ackAgain d).refill (fun _ => true)

/-! ### Requests (R364) -/

/-- Whether the target of a request exists. -/
def Dev.targetExists (d : Dev) (level ckind target : Nat) : Bool := match level with
  | 1 => d.ctxExists ckind target
  | 2 => decide (ckind = 0 ∧ [2, 3, 4].contains (target / 4096)) && engineExists target
  | 3 => decide (ckind = 0 ∧ target < 16)
  | _ => decide (ckind = 0 ∧ target = 0)

/-- The entry of a reset: TYPE 7 started, TYPE 8 completed. -/
def resetEntry (type : Nat) (r : ResetRun) : JInfo :=
  let j : JInfo := { type := type, level := r.level, arg := r.source }
  match r.level with
  | 1 => { j with ctxid := r.target, ckind := r.ckind }
  | 2 => { j with engine := r.target }
  | 3 => { j with part := r.target }
  | _ => j

/-- A reset at a level clears the stops that it reaches (R360). -/
def Dev.clearStops (d : Dev) (r : ResetRun) : Dev :=
  let hit (e : Nat) : Bool := match r.level with
    | 2 => decide (e = r.target ∨ (r.target / 4096 = 3 ∧ e / 4096 = 1 ∧ e % 4096 / 512 = r.target % 4096))
    | 4 => true
    | _ => false
  { d with rcv := { d.rcv with stopped := d.rcv.stopped.filter (fun s => !(hit s.1 && decide (s.2 ≤ r.level))) } }

/-- LASTLEVEL and LASTRESULT. -/
def Dev.resetResult (d : Dev) (level result : Nat) : Dev := d.setRegs [(rk 0x01200008 4, level), (rk 0x01200008 8, result)]

/-- What a reset of level 1 to 4 ends. -/
def Dev.resetEffect (d : Dev) (r : ResetRun) : Dev := match r.level with
  | 1 => d.ctxReset r.ckind r.target
  | 2 => d.engineReset r.target
  | 3 => d.partReset r.target
  | _ => d.computeReset

/-- A reset begins: TYPE 7 commits, and the management command that asked for it completes. -/
def beginReset (r : ResetRun) (m : Mram) (d : Dev) : Mram × Dev :=
  let d := match d.rcv.run with
    | none => d
    | some o => d.resetResult o.level 2
  let d := { d with rcv := { d.rcv with run := some r } }
  let (m, d) := commitAll m (d.journal (resetEntry 7 r) [])
  (m, if r.source = 1 then d.mgmtDone 0x0501 0 [] else d)

/-- A reset of level 1 to 4 completes: TYPE 8 commits, then the event (R362). -/
def endReset (r : ResetRun) (m : Mram) (d : Dev) : Mram × Dev :=
  let d := (d.clearStops r).resetResult r.level 0
  let d := d.bump (rk 0x01200010 (16 * (r.level - 1))) 16 1
  let d := { d with rcv := { d.rcv with run := none } }
  let (m, d) := commitAll m (d.journal (resetEntry 8 r) [.event 0 7 r.level 0])
  (m, d.escapement)

/-- A reset of level 1 to 4. One whose blocks do not answer never completes (R365); one whose firmware does not match waits for a full
chip reset (R370). -/
def lowReset (r : ResetRun) (answers digestOk : Bool) (m : Mram) (d : Dev) : Mram × Dev :=
  let (m, d) := beginReset r m d
  if !answers then (m, d) else
  let d := d.resetEffect r
  if r.level = 4 ∧ !digestOk then (m, (d.stop (14 * 4096) 5).fault { code := 0x83, engine := 14 * 4096, level := 5 } true []) else
  endReset r m (if r.level = 4 then d.resumeAll else d)

/-- A Dormant node wakes before a reset (R374): its wake cause latched, its links up again. -/
def wakeFirst (s : State) : State :=
  let d := s.dev.wakeCause 5
  let r := wakeExpiry (List.range 32) s.qb d
  { s with qb := r.1, dev := r.2 }

/-- An accepted request runs. Log entry 99, DEDUCED. -/
def runReset (r : ResetRun) (answers digestOk : Bool) (env : StartEnv) (s : State) : State :=
  let s := wakeFirst s
  if r.level ≤ 4 then
    let x := lowReset r answers digestOk s.mram s.dev
    { s with mram := x.1, dev := x.2 }
  else
    let x := beginReset r s.mram s.dev
    let s := { s with mram := x.1, dev := x.2 }
    if r.level = 5 then fullChip env s else { s with phys := { s.phys with pwrcyc := true } }

/-- What becomes of a request: 0 accepted, 1 its target refused, 2 ignored. -/
def Dev.resetCase (d : Dev) (level ckind target : Nat) : Nat :=
  let low := match d.rcv.run with
    | none => false
    | some r => decide (level ≤ r.level)
  if level = 0 ∨ 7 ≤ level ∨ low = true then 2 else if d.targetExists level ckind target then 0 else 1

/-- A request that was ignored while a reset ran, or whose target was refused, shows in RCV_RESET_STATUS. -/
def Dev.resetTurned (d : Dev) (level case : Nat) : Dev :=
  if case = 1 then d.resetResult level 1 else if level = 0 ∨ 7 ≤ level then d else d.setReg (rk 0x01200008 16) 1

/-- A write of RCV_RESET (source 0); the node takes BAR0 writes once start-up has completed (R390). Log entry 93, DEDUCED. Log entry 98, DEDUCED. -/
def driverReset (level ckind target : Nat) (answers digestOk : Bool) (env : StartEnv) (s : State) : State :=
  if s.dev.pwr.state = .starting ∨ s.dev.pwr.state = .failed then s else
  match s.dev.resetCase level ckind target with
  | 0 => runReset ⟨level, ckind, target, 0⟩ answers digestOk env s
  | c => { s with dev := s.dev.resetTurned level c }

/-- The management command RESET (R364). -/
def mgmtReset (level ckind target : Nat) (answers digestOk : Bool) (env : StartEnv) (s : State) : State :=
  if !s.dev.ready then s else
  match s.dev.resetCase level ckind target with
  | 0 => runReset ⟨level, ckind, target, 1⟩ answers digestOk env s
  | c => { s with dev := (s.dev.resetTurned level c).mgmtDone 0x0501 (stCode .shape) [] }

/-! ### The journal's commits (R377 to R379) -/

/-- JOURNAL_COMMIT_DONE: the oldest entry's commit ends; three read-backs in a row that differ fail the journal. -/
def commitStep (ok : Bool) (m : Mram) (d : Dev) : Mram × Dev :=
  if d.rcv.jstate ≠ 1 ∨ d.rcv.jq.isEmpty then (m, d) else
  if ok then
    let r := commitOne m d
    (r.1, r.2.tdNext)
  else if d.rcv.jfails + 1 < 3 then (m, { d with rcv := { d.rcv with jfails := d.rcv.jfails + 1 } })
  else (m, (d.jnlFail 2).tdNext)

/-- RCV_REC_RELEASE: a VALID record's slot frees (R361). -/
def recReleaseStep (i : Nat) (d : Dev) : Dev := match mget d.rcv.recs i with
  | none => d
  | some r => if r.valid then { d with rcv := { d.rcv with recs := mdel d.rcv.recs i } } else d

end Sys2Proof.Machine
end

