-- ==== Sys2Proof/Machine/Registers.lean ====
section
/-! DEFINITION. Reads of registers (R11, R12): the stored fields, the fields that show state held elsewhere, and the fields that a read
clears. A register is read as part of its 8-byte word of the register map. -/

namespace Sys2Proof.Machine

/-- Which register of a row of registers an offset names. -/
def nth (off base step n : Nat) : Option Nat :=
  if base ≤ off ∧ (off - base) % step = 0 ∧ (off - base) / step < n then some ((off - base) / step) else none

/-- A flag field. -/
def bitF (lo : Nat) (b : Bool) : Nat × Nat × Nat := (lo, 1, b2n b)

/-- A measured temperature in °C, as an 8-bit two's complement number. -/
def tempBits (t : Int) : Nat := (t % 256).toNat

/-- Word `w` of a string of bytes. -/
def word64 (bs : Bytes) (w : Nat) : Nat := leAt bs (8 * w) 8

/-! ### Tray signals (Table 15.14) -/

/-- ALERT# as the faults' block asserts it (R362, R379). -/
def Dev.alertRec (d : Dev) : Bool :=
  d.rcv.recs.any (fun r => r.2.valid && decide (0x80 ≤ wf r.2.data 104 8)) || decide (d.rcv.jstate = 2 ∨ (d.rcv.jstate = 0 ∧ d.pwr.state ≠ .starting))
/-- ALERT#: asserted by the faults' block, or after a failed start-up (R390). -/
def Dev.alert (d : Dev) : Bool := d.alertRec || decide (d.pwr.state = .failed)
/-- THERM#: a stack is at level 4 or a cluster at level 2 (R402). -/
def Phys.therm (p : Phys) : Bool := p.dies.any (fun e => decide (e.2.level = 4)) || p.cls.any (fun c => decide (c.2.level = 2))

/-- PWR_STATE.STATE. -/
def PState.code : PState → Nat
  | .starting => 0
  | .ready => 1
  | .entering => 2
  | .dormant => 3
  | .waking => 4
  | .failed => 5

/-! ### Fields that show state, by block: low bit, width, value -/

/-- TOP (Tables 0.2 to 0.6). -/
def topFields (off : Nat) : List (Nat × Nat × Nat) :=
  if off = 0 then [(0, 32, topId)]
  else if off = 0x100 then [(0, 8, 8), (8, 8, 0x40), (16, 8, 0x10), (24, 8, 0x20), (32, 8, 0x18), (40, 8, 0x0C), (48, 16, 0xA0)]
  else if off = 0x108 then [(0, 8, 0x20), (8, 8, 4), (16, 8, 0x10), (24, 8, 0x40), (32, 8, 0x14), (40, 8, 0x0E), (48, 8, 0x0B)]
  else if off = 0x110 then [(0, 8, 0x0C), (8, 8, 0x10), (16, 8, 0x16), (24, 8, 0x0C), (32, 8, 8), (40, 8, 0x10), (48, 8, 0x10), (56, 8, 0x10)]
  else if off = 0x118 then [(0, 8, 0x40), (8, 8, 0x30), (16, 8, 0x20), (24, 8, 8), (32, 8, 0x40), (40, 8, 0x10), (48, 16, 0xFF)]
  else []

/-- ATN_SP_SLOTn (Table 3.8). -/
def Dev.spSlot (d : Dev) (n : Nat) : List (Nat × Nat × Nat) :=
  let use := (d.atn.table.filter (fun e => e.2.admitted && decide (e.2.tn.sprog = n))).length
  let (img, st) := if n = 0 then (spIdentity, 1) else match mget d.atn.progs n with
    | none => ([], 0)
    | some p => (p.image, p.state)
  let h := leAt img 0 16
  [(0, 6, if n = 0 then 0 else fld h 32 6), (6, 2, if n = 0 then 2 else fld h 14 2), (8, 4, fld h 16 4), (12, 12, fld h 20 12), (24, 2, st), (32, 17, use)]

/-- The digest that a program slot shows. -/
def Dev.spDigest (d : Dev) (n : Nat) : Bytes :=
  if n = 0 then shake256 64 spIdentity else ((mget d.atn.progs n).map Prog.digest).getD []

/-- ATN (Tables 2.12 and 3.7 to 3.9). -/
def Dev.atnFields (d : Dev) (off : Nat) : List (Nat × Nat × Nat) :=
  let slots (st : Nat) : List (Nat × Nat × Nat) := d.atn.progs.map (fun p => bitF p.1 (decide (p.2.state = st)))
  if off = 0x00200008 then [(0, 17, d.atn.table.length + d.trn.merges.length)]
  else if off = 0x00201000 then (0, 1, 1) :: slots 1
  else if off = 0x00201008 then slots 2
  else match nth off 0x00201100 8 64, nth off 0x00202000 8 512 with
    | some n, _ => d.spSlot n
    | _, some w => [(0, 64, word64 (d.spDigest (w / 8)) (w % 8))]
    | _, _ => []

/-- BNK (Tables 4.9 and 4.13). -/
def Dev.bnkFields (d : Dev) (p : Phys) (off : Nat) : List (Nat × Nat × Nat) :=
  match nth off 0x00400000 0x100 8 with
  | some n =>
    let s := d.stack n
    let ts := p.dies.filter (fun e => decide (e.1 / 16 = n))
    let hot : Nat := match ts with
      | [] => 0
      | t :: r => tempBits (r.foldl (fun m e => max m e.2.temp) t.2.temp)
    [(0, 1, 1), bitF 1 s.trained, bitF 2 (ts.any (fun e => decide (e.2.level = 4))), (8, 3, ts.foldl (fun m e => max m e.2.level) 0), (16, 8, hot),
     (32, 8, s.keys.length), (48, 16, min s.ctxs.length 0xFFFF)]
  | none =>
    let o := (off - 0x00400000) % 0x100
    if off < 0x00400000 ∨ 0x00400800 ≤ off ∨ o < 0x40 ∨ 0x80 ≤ o ∨ o % 4 ≠ 0 then [] else
    match mget p.dies (16 * ((off - 0x00400000) / 0x100) + (o - 0x40) / 4) with
    | none => []
    | some t => [(0, 8, tempBits t.temp), (8, 3, t.level), (16, 8, tempBits (t.peak.getD 0))]

/-- PGM and CMP (Tables 5.14, 6.8, 6.13). -/
def Dev.pgmFields (d : Dev) (off : Nat) : List (Nat × Nat × Nat) :=
  let h (t : Tbl) : Nat := leAt t.image 0 16
  if off = 0x00600030 then [(0, 21, (d.pgm.shares.filter (fun s => decide (0 < s.2.refs))).length)]
  else if off = 0x00700000 then
    d.cmp.map (fun t => bitF t.1 (decide (t.2.state = 1))) ++ d.cmp.map (fun t => bitF (8 + t.1) (decide (t.2.state = 2))) ++
    d.cmp.map (fun t => bitF (16 + t.1) (decide (t.2.state = 1 ∧ fld (h t.2) 14 1 = 1)))
  else match nth off 0x00700100 8 8, nth off 0x00701000 8 64 with
    | some n, _ => (match mget d.cmp n with
      | none => []
      | some t => [(0, 3, tblEfmt t.image), (3, 1, fld (h t) 14 1), (4, 2, t.state), (8, 8, tblGen t.image), (16, 9, tblNsym t.image), (32, 32, t.refs)])
    | _, some w => [(0, 64, word64 (((mget d.cmp (w / 8)).map Tbl.digest).getD []) (w % 8))]
    | _, _ => []

/-- PLC (Tables 7.14 to 7.19). -/
def Dev.plcFields (d : Dev) (off : Nat) : List (Nat × Nat × Nat) :=
  let t := d.reg (rk 0x00800100 0)
  let x := d.tenant t
  if off = 0x00800000 then [(32, 32, d.t0Free)]
  else if off = 0x00800008 then [(32, 32, d.t1Free)]
  else if off = 0x00800010 then [(0, 32, d.reserved), (32, 32, d.lodgedKib)]
  else if off = 0x00800028 then [(0, 32, d.plc.tnow)]
  else if off = 0x00800058 then [(0, 32, d.plc.retGran.length), (32, 32, d.plc.retSlots.length)]
  else if off = 0x00800108 then [(0, 32, d.usage t), (32, 32, d.t3Usage t)]
  else if off = 0x00800110 then
    [(0, 32, x.quota), (32, 3, x.tiers), bitF 35 (decide (x.quota < d.usage t)), (36, 8, x.peers), (44, 12, x.mirror.getD 0), (56, 2, x.mirstate)]
  else []

/-- SHP (Tables 8.7 to 8.10). -/
def Dev.shpFields (d : Dev) (off : Nat) : List (Nat × Nat × Nat) :=
  let r := d.reg (rk 0x00900100 0)
  if off = 0x00900008 then [(0, 32, d.poolKib), (32, 32, 4 * d.poolIn true)]
  else if off = 0x00900010 then [(0, 11, d.shp.regions.length), (16, 9, d.shp.drafts.length), (32, 15, d.shp.readers.length)]
  else if off = 0x00900038 then [(0, 32, d.shp.pnow)]
  else match mget d.shp.regions r with
    | none => []
    | some g =>
      if off = 0x00900108 then
        [(0, 2, if g.deleting then 2 else 1), (2, 2, g.p.coding), (4, 3, g.p.efmt), (7, 3, g.p.k), bitF 10 g.p.t0ok, (12, 12, g.p.ten), (24, 4, g.p.part),
         (28, 17, g.p.rowlen)]
      else if off = 0x00900110 then
        [(0, 32, g.current), (32, 5, g.versions.length), (37, 9, (d.shp.drafts.filter (fun x => decide (x.2.region = r))).length)]
      else []

/-- DIR (Tables 9.8 and 9.12). -/
def Dev.dirFields (d : Dev) (off : Nat) : List (Nat × Nat × Nat) :=
  if off = 0x00A00008 then [(0, 17, d.nodeHome), (17, 17, d.rtHome), (34, 17, d.prefixUse)]
  else match nth off 0x00A00240 8 8 with
    | some w => [(0, 64, wf (dirImage d.dir (d.reg (rk 0x00A00200 0))) (64 * w) 64)]
    | none => []

/-- OZL (Tables 10.14 and 10.15). -/
def Dev.ozlFields (d : Dev) (off : Nat) : List (Nat × Nat × Nat) :=
  if off < 0x00C00000 ∨ 0x00C80000 ≤ off then [] else
  match mget d.links ((off - 0x00C00000) / 0x4000) with
  | none => []
  | some l =>
    let o := (off - 0x00C00000) % 0x4000
    if o = 0 then [(0, 3, l.state), (4, 2, l.pkind), (8, 16, l.pend), (24, 5, l.plink), (32, 4, l.lanes)]
    else match nth o 0x40 4 4 with
      | some k => [(0, 8, fld l.snr (8 * k) 8), bitF 8 l.reversed, (9, 1, fld l.inverted k 1)]
      | none => []

/-- TRN (Tables 10.16 to 10.20). -/
def Dev.trnFields (d : Dev) (off : Nat) : List (Nat × Nat × Nat) :=
  if off = 0x00E00008 then [(0, 32, d.trn.epoch), bitF 32 d.trn.fenced]
  else if off = 0x00E00010 then [(0, 15, (d.trn.qps.filter (fun q => q.2.cached)).length), (16, 12, (d.trn.qps.filter (fun q => q.2.fetching)).length)]
  else if off = 0x00E00018 then [(0, 12, d.trn.parked.length), (16, 12, sumN (d.trn.qps.map (fun q => q.2.reserved)))]
  else if off = 0x00E00020 then [(0, 13, d.ingress), (16, 17, d.subOut)]
  else match nth off 0x00E00100 8 64 with
    | some k => (d.trn.map.filter (fun n => decide (n / 64 = k))).map (fun n => (n % 64, 1, 1))
    | none => []

/-- TSH (Tables 11.6 to 11.9). -/
def Dev.tshFields (d : Dev) (off : Nat) : List (Nat × Nat × Nat) :=
  let i := d.reg (rk 0x00F00100 0)
  let t := d.reg (rk 0x00F00200 0)
  if off = 0x00F00010 then [(0, 10, d.tsh.length)]
  else if off = 0x00F00208 then
    [(0, 8, if d.active t then (d.tenant t).quantum else 0), bitF 8 (d.tsh.any (fun p => decide (p.2.ten = t)))]
  else match nth off 0x00F01008 0x20 32, mget d.tsh i with
    | some n, _ => (match mget d.links n with
      | none => []
      | some l => [(0, 19, l.bytes), (32, 16, (l.subqs.filter (fun s => !s.pkts.isEmpty)).length)])
    | none, some p =>
      if off = 0x00F00108 then [(0, 16, p.cinc), (16, 16, p.pinc), (32, 12, p.ten), (44, 4, p.cls), (48, 1, 1)]
      else if off = 0x00F00110 then [(0, 24, p.cbs), (32, 24, p.pbs)]
      else if off = 0x00F00118 then (match mget d.links (d.reg (rk 0x00F00100 16)) with
        | none => []
        | some l => [(0, 24, (mgetD l.buckets i (0, 0)).1 / 64), (32, 24, (mgetD l.buckets i (0, 0)).2 / 64)])
      else []
    | none, none => []

/-- Whether a node channel has issued a transfer's read. -/
def Dev.issued (d : Dev) (n : Nat) : Bool := (d.issuedOn n).isSome

/-- A channel's registers (Table 12.11), at their offset in its block or page. -/
def Dev.chFields (d : Dev) (n o : Nat) : List (Nat × Nat × Nat) :=
  let c := d.chan n
  -- a node channel runs while a transfer that it issued is under way
  let st := if c.state ≠ 3 ∧ (d.issued n) then 2 else c.state
  if o = 0x08 then [(0, 2, st), (8, 6, d.chLocal n), (16, 16, c.head), (32, 16, c.tail)]
  else if o = 0x18 then [(0, 64, c.errAddr.toNat)]
  else if o = 0x20 then [(0, 64, c.err.toNat)]
  else []

/-- DMA (Tables 12.10 and 12.11). -/
def Dev.dmaFields (d : Dev) (off : Nat) : List (Nat × Nat × Nat) :=
  if off = 0x01000000 then
    [bitF 0 d.dma.linkup, (1, 3, d.dma.speed), (4, 3, d.dma.width), (8, 5, (d.dma.ides.filter (fun s => s.2.secure)).length)]
  else match nth off 0x01000280 4 17 with
    | some f =>
      let fn := d.fn f
      [bitF 0 fn.enable, bitF 1 fn.resetting, (2, 3, d.tdi f), bitF 5 (decide (f ≠ 0) && fn.spill.isSome), bitF 6 (decide (f = 0) && fn.qpt.isSome)]
    | none => if 0x01001000 ≤ off ∧ off < 0x01002000 then d.chFields ((off - 0x01001000) / 0x40) ((off - 0x01001000) % 0x40) else []

/-- SEC (Tables 13.12 to 13.15). -/
def Dev.secFields (d : Dev) (off : Nat) : List (Nat × Nat × Nat) :=
  let t := d.reg (rk 0x01100100 0)
  let x := d.tenant t
  let count (st : Nat) : Nat := (d.sec.tenants.filter (fun e => decide (e.2.state = st))).length
  if off = 0x01100000 then [bitF 0 d.sec.identity, bitF 1 d.sec.fwk.isSome, (8, 13, d.sec.ckeys.length)]
  else if off = 0x01100008 then [(0, 32, d.sec.bootid)]
  else if off = 0x01100010 then [(0, 13, count 1), (16, 13, count 3)]
  else if off = 0x01100028 then (match d.sec.td with
    | none => []
    | some td => [(0, 12, td.ten), (12, 4, td.step), (16, 16, td.gen)])
  else if off = 0x01100030 then [(0, 44, d.residue)]
  else if off = 0x01100048 then [(0, 64, d.zeroPend)]
  else if off = 0x01100050 then [(0, 64, d.sec.logn)]
  else if off = 0x01100108 then
    [(0, 2, x.state), (4, 4, if x.state = 0 then 0 else x.part), (8, 16, x.gen), bitF 32 (d.shp.projs.any (fun p => p.live && decide (p.ten = t)))]
  else match nth off 0x01100200 8 8, nth off 0x01100300 8 8 with
    | some w, _ => [(0, 64, word64 d.sec.logd w)]
    | _, some w => [(0, 64, word64 d.sec.devDigest w)]
    | _, _ => []

/-- Whether a management command runs (R394). -/
def Dev.mgmtBusy (d : Dev) : Bool := !d.pwr.inflight.isEmpty || !d.pwr.waits.isEmpty || !d.pwr.norOp.isEmpty || d.sec.td.isSome

/-- RCV (Tables 14.10 to 14.12). -/
def Dev.rcvFields (d : Dev) (off : Nat) : List (Nat × Nat × Nat) :=
  let live := d.rcv.recs.filter (fun r => r.2.valid)
  if off = 0x01200008 then (match d.rcv.run with
    | none => []
    | some r => [(0, 1, 1), (1, 3, r.level), (7, 1, r.source)])
  else if off = 0x01200018 then
    [(0, 9, live.length), bitF 32 d.alertRec, bitF 33 d.mgmtBusy, bitF 34 (!d.rcv.stopped.isEmpty),
     (40, 3, (live.filter (fun r => d.hasStopped (wf r.2.data 144 16))).foldl (fun m r => max m r.2.level) 0)]
  else if off = 0x01200210 then
    (List.range 24).map (fun n => bitF n (d.atn.table.any (fun e => e.2.parts.any (fun p => decide (p.1.1 = 8192 + n)))))
  else match nth off 0x01200020 8 4, nth off 0x01200140 8 8 with
    | some k, _ => (live.filter (fun r => decide (r.1 / 64 = k))).map (fun r => (r.1 % 64, 1, 1))
    | _, some w => (match live.find? (fun r => decide (r.1 = d.reg (rk 0x01200100 0))) with
      | none => []
      | some r => [(0, 64, wf r.2.data (64 * w) 64)])
    | _, _ => []

/-- JNL (Table 14.13). -/
def Dev.jnlFields (d : Dev) (m : Mram) (off : Nat) : List (Nat × Nat × Nat) :=
  if off = 0x01400000 then [(0, 2, d.rcv.jstate), bitF 2 (decide (m.nslot + 1 < d.rcv.jhead)), (8, 7, min d.rcv.jq.length 64)]
  else if off = 0x01400008 then [(0, 32, if d.rcv.jstate = 0 then 0 else m.nslot)]
  else if off = 0x01400010 then [(0, 64, d.rcv.jhead)]
  else if off = 0x01400018 then [(0, 64, oldestSeq m.nslot d.rcv.jhead)]
  else []

/-- PWR_STATE and PWR_BOOT (Table 15.17). -/
def Dev.pwrState (d : Dev) : List (Nat × Nat × Nat) := [(0, 3, d.pwr.state.code), bitF 3 d.pwr.locked]
def Dev.pwrBoot (d : Dev) : List (Nat × Nat × Nat) := [(0, 4, d.pwr.step), (8, 4, d.pwr.fail), (16, 16, d.pwr.detail), bitF 32 d.pwr.slot]

/-- PWR (Table 15.17). -/
def Dev.pwrFields (d : Dev) (p : Phys) (off : Nat) : List (Nat × Nat × Nat) :=
  if off = 0x01300000 then d.pwrState
  else if off = 0x01300008 then d.pwrBoot
  else if off = 0x01300010 then [(0, 12, d.pwr.node), bitF 24 Config.opkFuse.isSome]
  else if off = 0x01300038 then [(0, 6, d.pwr.causes)]
  else if off = 0x01300040 then [(0, 10, Config.targetMv.toNat), (16, 10, Config.measMv.toNat), (32, 16, Config.measAmps.toNat)]
  else if off = 0x01300048 then [(0, 8, tempBits p.mainT), (8, 8, tempBits (p.mainPk.getD 0))]
  else if off = 0x01300050 then p.cls.map (fun c => (2 * c.1, 2, c.2.level))
  else if off = 0x01300058 then [bitF 0 d.alert, bitF 1 p.therm, bitF 2 p.pwrcyc, (4, 3, Config.i3cStrap.toNat)]
  else if off = 0x01300060 then [(0, 7, d.pwr.inflight.length)]
  else match nth off 0x01300100 8 4 with
    | some i => (match mget d.pwr.issuers i with
      | none => []
      | some x => [(0, 1, 1), (8, 5, x.1)])
    | none => []

/-- The fields of the register at an offset that show state held elsewhere. -/
def State.shown (s : State) (off : Nat) : List (Nat × Nat × Nat) :=
  let d := s.dev
  match off / 0x100000 with
  | 0 => topFields off
  | 2 => d.atnFields off
  | 4 => d.bnkFields s.phys off
  | 6 => d.pgmFields off
  | 7 => d.pgmFields off
  | 8 => d.plcFields off
  | 9 => d.shpFields off
  | 10 => d.dirFields off
  | 12 => d.ozlFields off
  | 14 => d.trnFields off
  | 15 => d.tshFields off
  | 16 => d.dmaFields off
  | 17 => d.secFields off
  | 18 => d.rcvFields off
  | 19 => d.pwrFields s.phys off
  | 20 => d.jnlFields s.mram off
  | _ => []

/-- The stored fields of an 8-byte word of the map. -/
def Dev.storedWord (d : Dev) (o : Nat) : Nat :=
  d.regs.foldl (fun n e => if rk o 0 ≤ e.1 ∧ e.1 < rk o 64 then n ||| e.2 <<< (e.1 - rk o 0) else n) 0 % 2 ^ 64

/-- An 8-byte word of BAR0. -/
def State.word (s : State) (o : Nat) : Nat := s.dev.storedWord o ||| pack (s.shown o) ||| pack (s.shown (o + 4)) <<< 32 % 2 ^ 64

/-- An access of a word: the whole, or the half that it names. -/
def halfOf (w off width : Nat) : Nat := fld w (8 * (off % 8)) width

/-! ### BAR2 (R305, Table 12.12) -/

/-- The fields of a function page. -/
def Dev.fpFields (d : Dev) (f o : Nat) : List (Nat × Nat × Nat) :=
  let fn := d.fn f
  let ring (log base : Nat) : List (Nat × Nat × Nat) := [(0, 5, log), (12, 52, base / 4096)]
  if o = 0 then [(0, 5, f), bitF 5 fn.resetting, bitF 6 fn.eqOvf]
  else if o = 0x08 then [bitF 0 fn.enable]
  else if o = 0x10 then ring fn.asqLog fn.asqBase
  else if o = 0x18 then ring fn.acqLog fn.acqBase
  else if o = 0x20 then ring fn.eqLog fn.eqBase
  else if o = 0x28 then [(0, 8, fn.vecAcq), (8, 8, fn.vecEq)]
  else if o = 0x48 then [(0, 12, fn.qapTen), bitF 31 fn.qapValid]
  else []

/-- An 8-byte word of a function's BAR2; doorbells and what names nothing read 0. -/
def Dev.bar2Word (d : Dev) (f o : Nat) : Nat :=
  let p := o / 4096
  if p = 0 then pack (d.fpFields f (o % 4096)) else
  if 64 < p then 0 else
  match d.chOf f (p - 1) with
  | none => 0
  | some n => if 0x30 ≤ o % 4096 then 0 else
    pack (d.chFields n (o % 4096)) ||| (if o % 4096 = 0x10 then d.reg (rk (0x01001010 + 0x40 * n) 0) else 0)

/-! ### Reads that clear (Table 0.10) -/

/-- RC registers: base, step, count, and the low bits of their RC fields. Each is 64 bits wide. -/
def rcRegs : List (Nat × Nat × Nat × List Nat) :=
  [(0x00200010, 8, 2, [0]), (0x00400018, 0x100, 8, [0]), (0x00400020, 0x100, 8, [0]), (0x00400028, 0x100, 8, [0]), (0x00400030, 0x100, 8, [0, 32]),
   (0x00400038, 0x100, 8, [0]), (0x00600018, 8, 1, [0]), (0x00600020, 8, 2, [0, 32]), (0x00700020, 8, 3, [0]), (0x00800038, 8, 3, [0, 32])] ++
  [(0x00900028, 8, 1, [0]), (0x00900030, 8, 1, [0, 32]), (0x00A00010, 8, 2, [0, 32]), (0x00A00020, 8, 1, [0]), (0x00C00020, 0x4000, 32, [0, 32]),
   (0x00C00028, 0x4000, 32, [0, 32]), (0x00C00030, 0x4000, 32, [0, 16, 32]), (0x00E00008, 8, 1, [48]), (0x00E00038, 8, 2, [0])] ++
  [(0x00E00048, 8, 4, [0, 32]), (0x00F01010, 0x20, 32, [0, 32]), (0x00F01018, 0x20, 32, [0]), (0x01000010, 8, 1, [0, 32, 48]),
   (0x01100020, 8, 1, [0, 16, 32]), (0x01100038, 8, 1, [0, 32]), (0x01200018, 8, 1, [16]), (0x01300030, 8, 1, [0, 32]), (0x01300060, 8, 1, [32])]

/-- The RC fields that a 64-bit read at an offset clears. -/
def rcFields (off : Nat) : List Nat := (rcRegs.filter (fun r => (nth off r.1 r.2.1 r.2.2.1).isSome)).flatMap (fun r => r.2.2.2)

/-- PEAK of a die's or of the main die's temperature after a read of its 32-bit register. -/
def Phys.clearPeak (p : Phys) (off : Nat) : Phys :=
  let o := (off - 0x00400000) % 0x100
  if off = 0x01300048 then { p with mainPk := none }
  else if 0x00400000 ≤ off ∧ off < 0x00400800 ∧ 0x40 ≤ o ∧ o < 0x80 then
    { p with dies := mmod p.dies (16 * ((off - 0x00400000) / 0x100) + (o - 0x40) / 4) (fun t => { t with peak := none }) }
  else p

/-- What a read of BAR0 clears: nothing unless the access has the register's width (R12). -/
def State.clears (s : State) (off width : Nat) : State :=
  if width = 64 then { s with dev := s.dev.setRegs ((rcFields off).map (fun lo => (rk off lo, 0))) } else { s with phys := s.phys.clearPeak off }

/-- Bytes that a read of BAR4 returns: of the query share, 0 past its size, or from 16 MiB on of the partial area (R319, R320). -/
def Dev.apertures (d : Dev) (qb : QBuf) (f a n : Nat) : Bytes :=
  if a < 2 ^ 24 then (List.range n).flatMap (fun i => if a + i < d.shareSize (f - 1) then qb.read (d.shareBase (f - 1) + a + i) 1 else [0])
  else (List.range n).flatMap (fun i => if a - 2 ^ 24 + i < d.pareaSize f then memRead sramByte (mgetD d.dma.parea f []) (a - 2 ^ 24 + i) 1 else [0])

/-- RC_REGISTER_READ, as a read of any register or of BAR4: its value, and what it clears. While start-up runs no read is answered. -/
def regRead (win : Window) (off width : Nat) (s : State) : State :=
  let v (w : Nat) : Output := .regValue (BitVec.ofNat 64 (halfOf w off width))
  if !accOk off width then s else
  match win with
  | .bar0 =>
    if s.dev.pwr.state = .starting then s else
    let t := s.clears off width
    { t with dev := t.dev.emit (v (s.word (off / 8 * 8))) }
  | .bar2 f t => if !s.dev.barOpen f t then s else { s with dev := s.dev.emit (v (s.dev.bar2Word f (off / 8 * 8))) }
  | .bar4 f t => if !s.dev.bar4 f t then s else { s with dev := s.dev.emit (.regValue (BitVec.ofNat 64 (leNat (s.dev.apertures s.qb f off (width / 8))))) }

end Sys2Proof.Machine
end

