-- ==== Sys2Proof/Machine/Manage.lean ====
section
/-! DEFINITION. The management core's outside: signed envelopes (R391 to R394), image writes (R387), the sideband (R403), boundary scan
(R404), and the pins and the PCIe link (R300, R303, R355, R388, R402). -/

namespace Sys2Proof.Machine

/-! ### Envelopes (R391, R392) -/

/-- The right that an opcode needs (Table 15.7): none of an unlisted one; the right 5 stands for "none". -/
def mgmtRight (opc : Nat) : Option Nat :=
  let within (lo hi : Nat) : Bool := decide (lo ≤ opc ∧ opc ≤ hi)
  if within 0x0101 0x0104 then some 0
  else if within 0x0105 0x0106 then some 5
  else if within 0x0201 0x0208 || within 0x0211 0x0214 || within 0x0221 0x0224 then some 1
  else if within 0x0301 0x030A || within 0x0311 0x0313 then some 2
  else if within 0x0401 0x0406 then some 3
  else if within 0x0501 0x0504 then some 4
  else none

/-- Check 1: LEN, the header fields and a PRESENT issuer. -/
def Dev.envForm (d : Dev) (len h : Nat) : Bool :=
  let arglen := fld h 192 32
  decide (len = 64 + arglen + 1280 ∧ fld h 0 32 = 0x544D474D ∧ fld h 32 8 = 1 ∧ fld h 42 6 = 0 ∧ fld h 76 20 = 0 ∧ fld h 288 224 = 0 ∧
    arglen % 8 = 0 ∧ arglen ≤ 65536 ∧ fld h 224 32 % 64 = 0 ∧ 64 + arglen + 1280 ≤ fld h 224 32 ∧ 16 ≤ fld h 256 32) &&
  (mget d.pwr.issuers (fld h 40 2)).isSome

/-- PWR_CSEQ of an issuer. -/
def cseqKey (i : Nat) : Nat := rk (0x01300140 + 8 * i) 0

/-- Checks 2 to 5 in order: the status of the first that fails. -/
def Dev.envFails (d : Dev) (h : Nat) (env : Bytes) : Option St :=
  let i := fld h 40 2
  let n := 64 + fld h 192 32
  let (rights, pk) := (mget d.pwr.issuers i).getD (0, [])
  if fld h 64 12 ≠ d.pwr.node ∨ fld h 96 32 ≠ d.sec.bootid then some .integrity
  else if !Config.falconVerify pk (sliceB env 0 n) (sliceB env n 1280) then some .integrity
  else if fld h 128 64 ≤ d.reg (cseqKey i) then some .integrity
  else match mgmtRight (fld h 48 16) with
    | none => some .shape
    | some r => if r = 5 ∨ fld rights r 1 = 1 then none else some .shape

/-- The response of an envelope that is refused: OPC, STATUS and CSEQ, with no data (R393). -/
def mgmtHead (h : Nat) (st : St) : Bytes := leBytes 16 (pack [(0, 16, fld h 48 16), (16, 8, stCode st), (64, 64, fld h 128 64)])

/-- MGMT: the admin entry's envelope is accepted, or refused with its CQ entry and, from check 2 on, its response. Log entry 102, DEDUCED. -/
def mgmtStep (f : Nat) (e : W512) (env : Bytes) (d : Dev) : Dev :=
  if !d.adminReady f || decide (64 ≤ d.pwr.inflight.length) || d.chipReset || d.isStopped (14 * 4096) || !d.bar0Open || decide (aAop e ≠ 8) then d else
  let d := d.adminTake f
  if wf e 192 320 ≠ 0 ∨ aBase e % 4096 ≠ 0 ∨ f ≠ 0 then d.adminDone f e .shape else
  let h := leNat (sliceB env 0 64)
  let refused (d : Dev) : Dev := d.bump (rk 0x01300060 32) 16 1
  if !d.envForm (aLen e) h then (refused d).adminDone f e .shape else
  let at_ := aBase e + fld h 224 32
  match d.envFails h env with
  | some st =>
    ((refused d).nodeWrite 0 at_ (mgmtHead h st)).adminDone f e st
  | none =>
    let d := d.setReg (cseqKey (fld h 40 2)) (fld h 128 64)
    -- arguments without the command's layout: accepted, and refused by the command (R393)
    let args := sliceB env 64 (fld h 192 32)
    if !argsOk (fld h 48 16) args then
      ((d.bump (rk 0x01200208 0) 64 1).nodeWrite 0 at_ (mgmtHead h .shape)).adminDone f e .shape
    else
    let m : MCmd := ⟨fld h 48 16, fld h 40 2, fld h 128 64, aCtag e, at_, fld h 256 32, (d.fn f).asqHead, true, args⟩
    ({ d with pwr := { d.pwr with inflight := d.pwr.inflight ++ [m] } }).wakeCause 2

/-! ### Image writes (R387, R408) -/

/-- Programs of at most 256 bytes, none across a 256-byte boundary (fuel: bytes). -/
def norPrograms : (fuel a : Nat) → Bytes → List NorStep
  | 0, _, _ => []
  | k + 1, a, bs =>
    if bs.isEmpty then [] else
    let n := 256 - a % 256
    .program a (bs.take n) :: norPrograms k (a + n) (bs.drop n)

/-- The slot that the selector does not name. -/
def spareSlot (nor : Memory) : Nat := match selector nor with
  | some (_, 1) => 0
  | _ => 1

/-- A sequence of NOR steps begins; the command completes with its last. -/
def Dev.norBegin (d : Dev) (opc : Nat) (ss : List NorStep) : Dev :=
  if ss.isEmpty then d.mgmtDone opc 0 [] else { d with pwr := { d.pwr with norOp := ss, norOpc := opc } }

/-- IMAGE_WRITE. One sequence runs at a time; a second waits. Log entry 103, DEDUCED. -/
def imageWriteStep (nor : Memory) (off : Nat) (data : Bytes) (d : Dev) : Dev :=
  if !d.ready || !d.pwr.norOp.isEmpty then d else
  if 60 * 1024 < data.length ∨ 0x02000000 < off + data.length then d.mgmtDone 0x0503 (stCode .shape) [] else
  let a := slotAt (spareSlot nor) + off
  d.norBegin 0x0503 ((if off % 65536 = 0 then [NorStep.erase a] else []) ++ norPrograms data.length a data)

/-- The selector copy that IMAGE_COMMIT writes: the one with the lower SEQ, or the invalid one. -/
def selNext (nor : Memory) (slot : Nat) : NorStep :=
  let (i, _) := (selector nor).getD (1, 0)
  let seq := ((selCopy nor i).map Prod.snd).getD 0
  let b := pack [(0, 32, 0x4C455347), (32, 1, slot), (64, 32, seq + 1)]
  .program (0x04000000 + 0x1000 * (1 - i)) (leBytes 12 b ++ leBytes 4 (crc32c (leBytes 12 b)))

/-- IMAGE_COMMIT: checks 2 to 5 on the written slot, as a node just reset would make them. Log entry 88, DEDUCED. -/
def imageCommitStep (nor : Memory) (d : Dev) : Dev :=
  if !d.ready || !d.pwr.norOp.isEmpty then d else
  let slot := spareSlot nor
  match imageCheck nor slot Dev.reset with
  | .error (f, _) => d.mgmtDone 0x0504 (stCode (if f = 3 ∨ f = 4 then .integrity else .shape)) []
  | .ok _ => d.norBegin 0x0504 [selNext nor slot]

/-- A step's effect on the NOR. -/
def norDo (nor : Memory) : NorStep → Memory
  | .erase a => nor.filter (fun e => decide (e.1 < a ∨ a + 65536 ≤ e.1))
  | .program a bs => memWrite norByte nor a bs

/-- NOR_STATUS_POLL: a step that has ended takes effect and the next begins; a device that does not answer ends the command (R408). -/
def norPollStep (done answers : Bool) (nor : Memory) (d : Dev) : Memory × Dev :=
  match d.pwr.norOp with
  | [] => (nor, d)
  | s :: r =>
    let done_ (st : Nat) : Dev := ({ d with pwr := { d.pwr with norOp := [], norOpc := 0 } }).mgmtDone d.pwr.norOpc st []
    if !answers then (nor, done_ (stCode .tierError))
    else if !done then (nor, d)
    else (norDo nor s, if r.isEmpty then done_ 0 else { d with pwr := { d.pwr with norOp := r } })

/-! ### The sideband (R403) -/

/-- Whether the I3C target answers: PWROK is high and start-up has begun. Log entry 104, DEDUCED. -/
def State.i3cUp (s : State) : Bool := s.phys.pwrok && decide (s.dev.pwr.state ≠ .starting)

/-- An answer on the sideband. -/
def State.i3cSend (s : State) (bs : Bytes) : State := if s.i3cUp then { s with dev := s.dev.emit (.i3c bs) } else s

/-- The highest BNK_HS_STATUS.TEMP_MAX. -/
def Phys.hottest (p : Phys) : Nat := match p.dies with
  | [] => 0
  | t :: r => tempBits (r.foldl (fun m e => max m e.2.temp) t.2.temp)

/-- STATUS: 16 bytes. -/
def State.i3cStatus (s : State) : Bytes :=
  leBytes 4 (pack s.dev.pwrState) ++ leBytes 8 (pack s.dev.pwrBoot) ++ leBytes 1 (tempBits s.phys.mainT) ++ leBytes 1 s.phys.hottest ++
  leBytes 1 (pack [bitF 0 s.dev.alert, bitF 1 s.phys.therm, bitF 2 s.phys.pwrcyc]) ++ leBytes 1 s.dev.rcv.jstate

/-- JOURNAL_BOUNDS: 16 bytes. -/
def State.i3cBounds (s : State) : Bytes := leBytes 8 (oldestSeq s.mram.nslot s.dev.rcv.jhead) ++ leBytes 8 s.dev.rcv.jhead

/-- IDENTITY: 72 bytes. -/
def State.i3cIdentity (s : State) : Bytes := leBytes 4 topId ++ leBytes 4 s.dev.sec.bootid ++ sliceB s.dev.sec.devDigest 0 64

/-! ### Boundary scan (R404) -/

/-- The instruction in force: EXTEST, CLAMP and HIGHZ only while NODE_RST# is low. -/
def Phys.scan (p : Phys) : Phys :=
  let low (m : JMode) : JMode := if p.nodeRst then m else .bypass
  { p with jmode := match p.ir.toNat with
    | 0 => low .extest
    | 1 => .idcode
    | 2 => .sample
    | 4 => low .clamp
    | 5 => low .highz
    | _ => .bypass }

/-- An instruction loaded. Log entry 105, DEDUCED. -/
def Phys.load (p : Phys) (code : Byte) : Phys := { p with ir := code }.scan

/-! ### Pins and the PCIe link -/

/-- PERST# or NODE_RST# driven low: the node enters a full chip reset and stays in it (R373, R402). -/
def pinAssert (p : Phys) (s : State) : State :=
  let s := { s with phys := p }
  if p.pwrok then heldReset s else s

/-- PCIE_LINK_UP: DMA_PCIE reports the rate and the width. Log entry 106, DEDUCED. -/
def pcieUpStep (p : Phys) (speed width : Nat) (d : Dev) : Dev :=
  if !p.pwrok || p.perst || decide (d.pwr.state = .starting ∨ speed = 0 ∨ 8 ≤ speed ∨ width ∉ [1, 2, 4]) then d else
  { d with dma := { d.dma with linkup := true, speed := speed, width := width } }

/-- SPDM_REQUEST: the responder answers once the node holds its identity (R355). Log entry 107, DEDUCED. -/
def spdmStep (req : Bytes) (d : Dev) : Dev :=
  if !d.dma.linkup || !d.sec.identity then d else
  ({ d with free := d.free + 1 }).emit
    (.doe (Config.spdmRespond d.free (d.layerSeed "SPDM") Config.romSha d.sec.fwSha d.sec.imgSha req))

/-- IDE_KM: a completed key exchange makes the stream of a function secure; there are 17 streams, each bound to one function (R303). -/
def ideKmStep (stream fn : Nat) (msgs : Bytes) (d : Dev) : Dev :=
  if !d.dma.linkup || !d.sec.identity || decide (17 ≤ fn ∨ 256 ≤ stream) || !Config.ideKmCompletes msgs then d else
  let ok := match mget d.dma.ides stream with
    | none => decide (d.dma.ides.length < 17)
    | some s => decide (s.fn = fn)
  if ok then { d with dma := { d.dma with ides := mset d.dma.ides stream ⟨fn, true⟩ } } else d

end Sys2Proof.Machine
end

