-- ==== Sys2Proof/Machine/SysRows.lean ====
section
/-! DEFINITION. Meanings of the commands on registers, on resets and faults, on security and loads, on the management core, the sideband,
boundary scan and the pins. -/

namespace Sys2Proof.Machine

/-- A state whose device goes on after a command. -/
def State.goOn (s : State) : Host.Outcome State Fault Refusal := .next { s with dev := s.dev.after s.qb }

/-- A command's effect on the MRAM and the device. -/
def State.runM (s : State) (f : Mram → Dev → Mram × Dev) : Host.Outcome State Fault Refusal :=
  let r := f s.mram s.dev
  ({ s with mram := r.1, dev := r.2 }).goOn

/-- What start-up would meet, for a reset that never starts the node. -/
def noStart : StartEnv := ⟨true, .absent, true, none, true⟩

/-! ### Registers -/

/-- REGISTER_WRITE (R11). -/
def execRegisterWrite (a : RegAcc) (s : State) : Host.Outcome State Fault Refusal :=
  match a.win with
  | .bar0 => s.run (bar0Write a.off a.width a.val)
  -- BAR4 has no register
  | .bar4 _ _ => s.run id
  | .bar2 f t => s.runQ (barDev (.registerWrite a) (bar2Write f t a.off a.width a.val))
/-- W1C_REGISTER_WRITE (R11). -/
def execW1cRegisterWrite (a : RegAcc) (hw : W64) (s : State) : Host.Outcome State Fault Refusal :=
  match a.win with
  | .bar0 => s.run (bar0Clear a.off a.width a.val hw)
  | .bar4 _ _ => s.run id
  | .bar2 f t => s.runQ (barDev (.w1cRegisterWrite a hw) (bar2Clear f t a.off a.width a.val hw))
/-- RC_REGISTER_READ (R12). -/
def execRcRegisterRead (win : Window) (off width : Nat) (s : State) : Host.Outcome State Fault Refusal := .next (regRead win off width s)
/-- JNL_RD_CMD_GO (R379). -/
def execJnlRdCmdGo (s : State) : Host.Outcome State Fault Refusal := s.run (fun d => if d.bar0Open then d.askRead s.mram none else d)
/-- RCV_REC_RELEASE (R361). -/
def execRcvRecRelease (idx : Nat) (s : State) : Host.Outcome State Fault Refusal := s.run (fun d => if d.bar0Open then recReleaseStep idx d else d)

/-! ### Resets and faults -/

/-- CONTEXT_RESET (R364, Table 14.7). -/
def execContextReset (ckind target : Nat) (answers : Bool) (s : State) : Host.Outcome State Fault Refusal :=
  (driverReset 1 ckind target answers true noStart s).goOn
/-- ENGINE_RESET (Table 14.8). -/
def execEngineReset (engine : Nat) (answers : Bool) (s : State) : Host.Outcome State Fault Refusal :=
  (driverReset 2 0 engine answers true noStart s).goOn
/-- PARTITION_RESET (R369). -/
def execPartitionReset (part : Nat) (answers : Bool) (s : State) : Host.Outcome State Fault Refusal :=
  (driverReset 3 0 part answers true noStart s).goOn
/-- COMPUTE_ONLY_CHIP_RESET (Table 14.9). -/
def execComputeOnlyChipReset (answers digestOk : Bool) (s : State) : Host.Outcome State Fault Refusal :=
  (driverReset 4 0 0 answers digestOk noStart s).goOn
/-- FULL_CHIP_RESET (R373). -/
def execFullChipReset (env : StartEnv) (s : State) : Host.Outcome State Fault Refusal := (driverReset 5 0 0 true true env s).goOn
/-- POWER_CYCLE (R373). -/
def execPowerCycle (s : State) : Host.Outcome State Fault Refusal := (driverReset 6 0 0 true true noStart s).goOn
/-- RESET (R364). -/
def execReset (level ckind target : Nat) (answers digestOk : Bool) (env : StartEnv) (s : State) : Host.Outcome State Fault Refusal :=
  if s.dev.asked (.reset level ckind target answers digestOk env) then (mgmtReset level ckind target answers digestOk env s).goOn else .next s
/-- UNCORRECTABLE_ARRAY_ERROR (Table 14.2). -/
def execUncorrectableArrayError (engine array tidx : Nat) (s : State) : Host.Outcome State Fault Refusal := s.run (arrayErrorStep engine array tidx)
/-- HANDSHAKE_PROTOCOL_ERROR (Table 14.2). -/
def execHandshakeProtocolError (engine stage : Nat) (s : State) : Host.Outcome State Fault Refusal := s.run (handshakeErrorStep engine stage)
/-- MANAGEMENT_CORE_EXCEPTION (Table 14.2). -/
def execManagementCoreException (exc : Nat) (s : State) : Host.Outcome State Fault Refusal := s.run (coreExceptionStep exc)
/-- JOURNAL_COMMIT_DONE (R377 to R379). -/
def execJournalCommitDone (readBackOk : Bool) (s : State) : Host.Outcome State Fault Refusal := s.runM (commitStep readBackOk)
/-- NOR_STATUS_POLL (R408). -/
def execNorStatusPoll (done answers : Bool) (s : State) : Host.Outcome State Fault Refusal :=
  let r := norPollStep done answers s.nor s.dev
  ({ s with nor := r.1, dev := r.2 }).goOn

/-! ### Start-up, power and pins -/

/-- PERST_RELEASE (R388). -/
def execPerstRelease (env : StartEnv) (s : State) : Host.Outcome State Fault Refusal :=
  if s.phys.perst then (releaseStep env { s.phys with perst := false } s).goOn else .next s
/-- NODE_RST_RELEASE (R388). -/
def execNodeRstRelease (env : StartEnv) (s : State) : Host.Outcome State Fault Refusal :=
  if s.phys.nodeRst then (releaseStep env { s.phys with nodeRst := false }.scan s).goOn else .next s
/-- POWER_LOSS (R400). -/
def execPowerLoss (s : State) : Host.Outcome State Fault Refusal := .next (powerLossStep s)
/-- PWROK_RISE (R388, R399): with a rail out of regulation no rule holds (R400). -/
def execPwrokRise (railsOk : Bool) (s : State) : Host.Outcome State Fault Refusal :=
  if railsOk then .next { s with phys := { s.phys with pwrok := true } } else .fault .railsVoid
/-- PERST_ASSERT (R373). -/
def execPerstAssert (s : State) : Host.Outcome State Fault Refusal := .next (pinAssert { s.phys with perst := true } s)
/-- NODE_RST_ASSERT (R402). -/
def execNodeRstAssert (s : State) : Host.Outcome State Fault Refusal := .next (pinAssert { s.phys with nodeRst := true }.scan s)
/-- PCIE_LINK_UP (R300). -/
def execPcieLinkUp (speed width : Nat) (s : State) : Host.Outcome State Fault Refusal := s.run (pcieUpStep s.phys speed width)
/-- SPDM_REQUEST (R355). -/
def execSpdmRequest (req : Bytes) (s : State) : Host.Outcome State Fault Refusal := s.run (Dev.gate [13] (spdmStep req))
/-- IDE_KM (R303). -/
def execIdeKm (stream fn : Nat) (msgs : Bytes) (s : State) : Host.Outcome State Fault Refusal := s.run (Dev.gate [13] (ideKmStep stream fn msgs))

/-! ### Security and loads -/

/-- TEARDOWN_RESIDUE_CLEAR (Table 13.5). -/
def execTeardownResidueClear (s : State) : Host.Outcome State Fault Refusal := s.runQ residueStep
/-- ZERO_FILL (R352). -/
def execZeroFill (kib : Nat) (s : State) : Host.Outcome State Fault Refusal := s.run (Dev.gate [13] (zeroFillStep kib))
/-- ADMIT_TENANT (R344). -/
def execAdmitTenant (ten part g : Nat) (ct wtrk : Bytes) (s : State) : Host.Outcome State Fault Refusal :=
  s.run (Dev.asks (.admitTenant ten part g ct wtrk) (Dev.gate [13] (admitStep ten part g ct wtrk)))
/-- REMOVE_TENANT (R349). -/
def execRemoveTenant (ten : Nat) (s : State) : Host.Outcome State Fault Refusal :=
  s.run (Dev.asks (.removeTenant ten) (Dev.gate [13] (removeStep ten)))
/-- SET_FABRIC_KEY (R345). -/
def execSetFabricKey (ct wfwk : Bytes) (s : State) : Host.Outcome State Fault Refusal :=
  s.run (Dev.asks (.setFabricKey ct wfwk) (Dev.gate [13] (fabricKeyStep ct wfwk)))
/-- SET_CONN_KEY (R345). -/
def execSetConnKey (slot ten : Nat) (fabric : Bool) (salt : W32) (wcs : Bytes) (s : State) : Host.Outcome State Fault Refusal :=
  s.run (Dev.gate [13] (connKeyStep slot ten fabric salt wcs))
/-- GET_REPORT (R357). -/
def execGetReport (nonce : Bytes) (ten : Nat) (nodewide : Bool) (s : State) : Host.Outcome State Fault Refusal := s.run (Dev.gate [13] (getReportStep nonce ten nodewide))
/-- GET_CERT (R394). -/
def execGetCert (s : State) : Host.Outcome State Fault Refusal :=
  s.run (Dev.asks .getCert (Dev.gate [13] getCertStep))
/-- SET_FENCE (Table 10.9). -/
def execSetFence (e : Nat) (self : Bool) (map : List Nat) (s : State) : Host.Outcome State Fault Refusal :=
  s.run (Dev.asks (.setFence e self map) (setFenceStep e self map))
/-- UNFENCE (Table 10.9). -/
def execUnfence (e : Nat) (s : State) : Host.Outcome State Fault Refusal :=
  s.run (Dev.asks (.unfence e) (unfenceStep e))
/-- LOAD_PROGRAM (R78, R81). -/
def execLoadProgram (image : Bytes) (s : State) : Host.Outcome State Fault Refusal :=
  s.run (Dev.asks (.loadProgram image) (loadProgramStep image))
/-- UNLOAD_PROGRAM (R79). -/
def execUnloadProgram (slot : Nat) (s : State) : Host.Outcome State Fault Refusal :=
  s.run (Dev.asks (.unloadProgram slot) (unloadProgramStep slot))
/-- LOAD_TABLE (R152, R153). -/
def execLoadTable (image : Bytes) (s : State) : Host.Outcome State Fault Refusal :=
  s.run (Dev.asks (.loadTable image) (loadTableStep image))
/-- UNLOAD_TABLE (R153). -/
def execUnloadTable (slot : Nat) (s : State) : Host.Outcome State Fault Refusal :=
  s.run (Dev.asks (.unloadTable slot) (unloadTableStep slot))
/-- SET_PROJECTION (R346). -/
def execSetProjection (ten first nlm1 nq dcode lcode region : Nat) (s : State) : Host.Outcome State Fault Refusal :=
  s.run (Dev.asks (.setProjection ten first nlm1 nq dcode lcode region) (setProjectionStep ten first nlm1 nq dcode lcode region))
/-- CLEAR_PROJECTION (R346). -/
def execClearProjection (ten first nlm1 : Nat) (s : State) : Host.Outcome State Fault Refusal :=
  s.run (Dev.asks (.clearProjection ten first nlm1) (clearProjectionStep ten first nlm1))

/-! ### Management -/

/-- MGMT (R391 to R394). -/
def execMgmt (fn : Nat) (entry : W512) (envelope : Bytes) (s : State) : Host.Outcome State Fault Refusal := s.run (mgmtStep fn entry envelope)
/-- IMAGE_WRITE (R387). -/
def execImageWrite (off : Nat) (data : Bytes) (s : State) : Host.Outcome State Fault Refusal :=
  s.run (Dev.asks (.imageWrite off data) (imageWriteStep s.nor off data))
/-- IMAGE_COMMIT (R387). -/
def execImageCommit (s : State) : Host.Outcome State Fault Refusal :=
  s.run (Dev.asks .imageCommit (imageCommitStep s.nor))

/-! ### Sideband (Table 15.15) -/

/-- STATUS. -/
def execI3cStatus (s : State) : Host.Outcome State Fault Refusal := .next (s.i3cSend s.i3cStatus)
/-- JOURNAL_BOUNDS. -/
def execJournalBounds (s : State) : Host.Outcome State Fault Refusal := .next (s.i3cSend s.i3cBounds)
/-- JOURNAL_READ: it waits behind pending commits. -/
def execJournalRead (jseq : Nat) (s : State) : Host.Outcome State Fault Refusal :=
  .next (if s.i3cUp then { s with dev := s.dev.askRead s.mram (some (jseq % 2 ^ 64)) } else s)
/-- IDENTITY. -/
def execIdentity (s : State) : Host.Outcome State Fault Refusal := .next (s.i3cSend s.i3cIdentity)
/-- CHIP_RESET: a full chip reset without a TYPE 7 entry (R402). -/
def execChipReset (code : BitVec 16) (env : StartEnv) (s : State) : Host.Outcome State Fault Refusal :=
  if s.i3cUp && decide (code = 0xA55A) then (fullChip env s).goOn else .next s
/-- DYNAMIC_ADDRESS. -/
def execDynamicAddress (addr : Nat) (s : State) : Host.Outcome State Fault Refusal :=
  .next (if s.i3cUp && decide (addr < 128) then { s with phys := { s.phys with i3cDyn := some addr } } else s)

/-! ### Boundary scan (R404) -/

/-- EXTEST. -/
def execExtest (s : State) : Host.Outcome State Fault Refusal := .next { s with phys := s.phys.load 0x00 }
/-- IDCODE. -/
def execIdcode (s : State) : Host.Outcome State Fault Refusal :=
  .next { s with phys := s.phys.load 0x01, dev := s.dev.emit (.tdo 0x109604F3) }
/-- SAMPLE/PRELOAD: the boundary register takes `v`; what it shifts out is what the pins showed, in an order that the manual does not give
(log entry 3, DESIGN CHOICE). -/
def execSamplePreload (v : Nat) (s : State) : Host.Outcome State Fault Refusal :=
  let (x, d) := s.dev.fresh
  .next { s with phys := { s.phys.load 0x02 with bsr := v }, dev := d.emit (.tdo x.toNat) }
/-- CLAMP. -/
def execClamp (s : State) : Host.Outcome State Fault Refusal := .next { s with phys := s.phys.load 0x04 }
/-- HIGHZ. -/
def execHighz (s : State) : Host.Outcome State Fault Refusal := .next { s with phys := s.phys.load 0x05 }
/-- BYPASS, and every code that Table of R404 does not list. -/
def execBypass (code : Byte) (s : State) : Host.Outcome State Fault Refusal :=
  if code.toNat ∈ [0, 1, 2, 4, 5] then .next s else .next { s with phys := s.phys.load code }

end Sys2Proof.Machine
end

