-- ==== Sys2Proof/Machine/Dispatch.lean ====
section
/-! DEFINITION. One arm per command of the table; each calls its meaning. -/

namespace Sys2Proof.Machine

def exec (i : Instr) (s : State) : Host.Outcome State Fault Refusal :=
  match i with
  | .registerWrite a => Sys2Proof.Machine.execRegisterWrite a s
  | .w1cRegisterWrite a hwSet => Sys2Proof.Machine.execW1cRegisterWrite a hwSet s
  | .rcRegisterRead win off width => Sys2Proof.Machine.execRcRegisterRead win off width s
  | .flitReceive link flit fec => Sys2Proof.Machine.execFlitReceive link flit fec s
  | .linkLoss link => Sys2Proof.Machine.execLinkLoss link s
  | .linkTrainingComplete link result => Sys2Proof.Machine.execLinkTrainingComplete link result s
  | .retrain link => Sys2Proof.Machine.execRetrain link s
  | .packetIngress link hdr payload => Sys2Proof.Machine.execPacketIngress link hdr payload s
  | .qpContextFetchDone qpn image => Sys2Proof.Machine.execQpContextFetchDone qpn image s
  | .qpContextEvict qpn => Sys2Proof.Machine.execQpContextEvict qpn s
  | .accessKeyFetchDone idx => Sys2Proof.Machine.execAccessKeyFetchDone idx s
  | .submitHandOn qpn => Sys2Proof.Machine.execSubmitHandOn qpn s
  | .write qpn msn => Sys2Proof.Machine.execWrite qpn msn s
  | .writeImm qpn msn => Sys2Proof.Machine.execWriteImm qpn msn s
  | .writeImmCompletion cq => Sys2Proof.Machine.execWriteImmCompletion cq s
  | .read qpn msn => Sys2Proof.Machine.execRead qpn msn s
  | .atomic qpn msn => Sys2Proof.Machine.execAtomic qpn msn s
  | .credit qpn => Sys2Proof.Machine.execCredit qpn s
  | .resync qpn => Sys2Proof.Machine.execResync qpn s
  | .partialMsg qpn msn => Sys2Proof.Machine.execPartialMsg qpn msn s
  | .tenon => Sys2Proof.Machine.execTenon s
  | .leafBlockReadDone addr fault => Sys2Proof.Machine.execLeafBlockReadDone addr fault s
  | .clusterWorkOrder faults => Sys2Proof.Machine.execClusterWorkOrder faults s
  | .frameOrder stack faults => Sys2Proof.Machine.execFrameOrder stack faults s
  | .slotBoundary stack die group bank arrivals faults => Sys2Proof.Machine.execSlotBoundary stack die group bank arrivals faults s
  | .refreshDue stack die group bank => Sys2Proof.Machine.execRefreshDue stack die group bank s
  | .activityWindow stack => Sys2Proof.Machine.execActivityWindow stack s
  | .regulatorLevelChange stack die temp => Sys2Proof.Machine.execRegulatorLevelChange stack die temp s
  | .clusterLevelChange cluster temp => Sys2Proof.Machine.execClusterLevelChange cluster temp s
  | .stackMerge stack tidx => Sys2Proof.Machine.execStackMerge stack tidx s
  | .faultReport => Sys2Proof.Machine.execFaultReport s
  | .tenonMerge read => Sys2Proof.Machine.execTenonMerge read s
  | .egressEnqueue link => Sys2Proof.Machine.execEgressEnqueue link s
  | .schedulerPick link => Sys2Proof.Machine.execSchedulerPick link s
  | .policerRefill link => Sys2Proof.Machine.execPolicerRefill link s
  | .append slot faults => Sys2Proof.Machine.execAppend slot faults s
  | .trim slot => Sys2Proof.Machine.execTrim slot s
  | .keep slot faults => Sys2Proof.Machine.execKeep slot faults s
  | .fork slot faults => Sys2Proof.Machine.execFork slot faults s
  | .editPublish slot => Sys2Proof.Machine.execEditPublish slot s
  | .openSeq => Sys2Proof.Machine.execOpenSeq s
  | .closeSeq slot => Sys2Proof.Machine.execCloseSeq slot s
  | .offer faults => Sys2Proof.Machine.execOffer faults s
  | .accept => Sys2Proof.Machine.execAccept s
  | .commit => Sys2Proof.Machine.execCommit s
  | .claimed => Sys2Proof.Machine.execClaimed s
  | .claim => Sys2Proof.Machine.execClaim s
  | .decline => Sys2Proof.Machine.execDecline s
  | .release => Sys2Proof.Machine.execRelease s
  | .mirrorEdit => Sys2Proof.Machine.execMirrorEdit s
  | .mirrorAck => Sys2Proof.Machine.execMirrorAck s
  | .shadow => Sys2Proof.Machine.execShadow s
  | .openVersion => Sys2Proof.Machine.execOpenVersion s
  | .closeVersion => Sys2Proof.Machine.execCloseVersion s
  | .openDraft => Sys2Proof.Machine.execOpenDraft s
  | .poolWrite faults => Sys2Proof.Machine.execPoolWrite faults s
  | .discard => Sys2Proof.Machine.execDiscard s
  | .publish faults => Sys2Proof.Machine.execPublish faults s
  | .poolPublishSwap draft => Sys2Proof.Machine.execPoolPublishSwap draft s
  | .gather faults => Sys2Proof.Machine.execGather faults s
  | .draftAbort => Sys2Proof.Machine.execDraftAbort s
  | .tnowAdvance => Sys2Proof.Machine.execTnowAdvance s
  | .tnowRebase => Sys2Proof.Machine.execTnowRebase s
  | .pnowAdvance => Sys2Proof.Machine.execPnowAdvance s
  | .promotion id faults => Sys2Proof.Machine.execPromotion id faults s
  | .demotion id faults => Sys2Proof.Machine.execDemotion id faults s
  | .lending id faults => Sys2Proof.Machine.execLending id faults s
  | .spill id run => Sys2Proof.Machine.execSpill id run s
  | .stageBack id image => Sys2Proof.Machine.execStageBack id image s
  | .returnRun id faults => Sys2Proof.Machine.execReturnRun id faults s
  | .tileReread id faults => Sys2Proof.Machine.execTileReread id faults s
  | .sqEntry fn sq entry lines => Sys2Proof.Machine.execSqEntry fn sq entry lines s
  | .sqTailDoorbell fn sq v => Sys2Proof.Machine.execSqTailDoorbell fn sq v s
  | .cqHeadDoorbell fn cq v => Sys2Proof.Machine.execCqHeadDoorbell fn cq v s
  | .channelTailDoorbell fn ch v => Sys2Proof.Machine.execChannelTailDoorbell fn ch v s
  | .channelDescriptor ch desc => Sys2Proof.Machine.execChannelDescriptor ch desc s
  | .busError ch cause addr => Sys2Proof.Machine.execBusError ch cause addr s
  | .restart w => Sys2Proof.Machine.execRestart w s
  | .skip w => Sys2Proof.Machine.execSkip w s
  | .adminSqTailDoorbell fn v => Sys2Proof.Machine.execAdminSqTailDoorbell fn v s
  | .adminCqHeadDoorbell fn v => Sys2Proof.Machine.execAdminCqHeadDoorbell fn v s
  | .eqHeadDoorbell fn v => Sys2Proof.Machine.execEqHeadDoorbell fn v s
  | .createCq fn entry => Sys2Proof.Machine.execCreateCq fn entry s
  | .deleteCq fn entry => Sys2Proof.Machine.execDeleteCq fn entry s
  | .createSq fn entry => Sys2Proof.Machine.execCreateSq fn entry s
  | .deleteSq fn entry => Sys2Proof.Machine.execDeleteSq fn entry s
  | .setChannel fn entry => Sys2Proof.Machine.execSetChannel fn entry s
  | .setSpillArea fn entry => Sys2Proof.Machine.execSetSpillArea fn entry s
  | .setQpTable fn entry => Sys2Proof.Machine.execSetQpTable fn entry s
  | .mgmt fn entry envelope => Sys2Proof.Machine.execMgmt fn entry envelope s
  | .functionEnable w => Sys2Proof.Machine.execFunctionEnable w s
  | .functionRelease w => Sys2Proof.Machine.execFunctionRelease w s
  | .functionLevelReset fn => Sys2Proof.Machine.execFunctionLevelReset fn s
  | .tdiError fn => Sys2Proof.Machine.execTdiError fn s
  | .stopInterface fn => Sys2Proof.Machine.execStopInterface fn s
  | .pcieLinkLoss => Sys2Proof.Machine.execPcieLinkLoss s
  | .ideCheckFailure stream hit => Sys2Proof.Machine.execIdeCheckFailure stream hit s
  | .queryApertureWrite fn addr data tbit => Sys2Proof.Machine.execQueryApertureWrite fn addr data tbit s
  | .partialApertureWrite fn addr data tbit => Sys2Proof.Machine.execPartialApertureWrite fn addr data tbit s
  | .plcQcmdGo => Sys2Proof.Machine.execPlcQcmdGo s
  | .shpQcmdGo => Sys2Proof.Machine.execShpQcmdGo s
  | .dirQcmdGo => Sys2Proof.Machine.execDirQcmdGo s
  | .jnlRdCmdGo => Sys2Proof.Machine.execJnlRdCmdGo s
  | .rcvRecRelease idx => Sys2Proof.Machine.execRcvRecRelease idx s
  | .wake => Sys2Proof.Machine.execWake s
  | .contextReset ckind target answers => Sys2Proof.Machine.execContextReset ckind target answers s
  | .engineReset engine answers => Sys2Proof.Machine.execEngineReset engine answers s
  | .partitionReset part answers => Sys2Proof.Machine.execPartitionReset part answers s
  | .computeOnlyChipReset answers digestOk => Sys2Proof.Machine.execComputeOnlyChipReset answers digestOk s
  | .fullChipReset env => Sys2Proof.Machine.execFullChipReset env s
  | .powerCycle => Sys2Proof.Machine.execPowerCycle s
  | .reset level ckind target answers digestOk env => Sys2Proof.Machine.execReset level ckind target answers digestOk env s
  | .uncorrectableArrayError engine array tidx => Sys2Proof.Machine.execUncorrectableArrayError engine array tidx s
  | .handshakeProtocolError engine stage => Sys2Proof.Machine.execHandshakeProtocolError engine stage s
  | .managementCoreException exc => Sys2Proof.Machine.execManagementCoreException exc s
  | .journalCommitDone readBackOk => Sys2Proof.Machine.execJournalCommitDone readBackOk s
  | .norStatusPoll done answers => Sys2Proof.Machine.execNorStatusPoll done answers s
  | .perstRelease env => Sys2Proof.Machine.execPerstRelease env s
  | .nodeRstRelease env => Sys2Proof.Machine.execNodeRstRelease env s
  | .powerLoss => Sys2Proof.Machine.execPowerLoss s
  | .dormant => Sys2Proof.Machine.execDormant s
  | .linkPartnerLpiExit link => Sys2Proof.Machine.execLinkPartnerLpiExit link s
  | .wakeHoldExpiry linksUp => Sys2Proof.Machine.execWakeHoldExpiry linksUp s
  | .teardownResidueClear => Sys2Proof.Machine.execTeardownResidueClear s
  | .zeroFill kib => Sys2Proof.Machine.execZeroFill kib s
  | .admitTenant ten part g ct wtrk => Sys2Proof.Machine.execAdmitTenant ten part g ct wtrk s
  | .removeTenant ten => Sys2Proof.Machine.execRemoveTenant ten s
  | .setFabricKey ct wfwk => Sys2Proof.Machine.execSetFabricKey ct wfwk s
  | .setConnKey slot ten fabric salt wcs => Sys2Proof.Machine.execSetConnKey slot ten fabric salt wcs s
  | .getReport nonce ten nodewide => Sys2Proof.Machine.execGetReport nonce ten nodewide s
  | .getCert => Sys2Proof.Machine.execGetCert s
  | .setPlacement ten quota tiers peers => Sys2Proof.Machine.execSetPlacement ten quota tiers peers s
  | .setMirror ten mirror => Sys2Proof.Machine.execSetMirror ten mirror s
  | .reconcile id count peer => Sys2Proof.Machine.execReconcile id count peer s
  | .adoptHome id e => Sys2Proof.Machine.execAdoptHome id e s
  | .discardPending id => Sys2Proof.Machine.execDiscardPending id s
  | .promote ten failed => Sys2Proof.Machine.execPromote ten failed s
  | .fillSpare ten mirror failed => Sys2Proof.Machine.execFillSpare ten mirror failed s
  | .cancelFill ten => Sys2Proof.Machine.execCancelFill ten s
  | .createRegion idx p => Sys2Proof.Machine.execCreateRegion idx p s
  | .deleteRegion idx => Sys2Proof.Machine.execDeleteRegion idx s
  | .closeReaders idx => Sys2Proof.Machine.execCloseReaders idx s
  | .abortOwner node => Sys2Proof.Machine.execAbortOwner node s
  | .dirPut image => Sys2Proof.Machine.execDirPut image s
  | .dirRemove idx => Sys2Proof.Machine.execDirRemove idx s
  | .dirFind key cursor => Sys2Proof.Machine.execDirFind key cursor s
  | .dirRead idx => Sys2Proof.Machine.execDirRead idx s
  | .qpCreate a => Sys2Proof.Machine.execQpCreate a s
  | .qpModify qpn paths pmask cwin swin txclass pmaxc => Sys2Proof.Machine.execQpModify qpn paths pmask cwin swin txclass pmaxc s
  | .qpDestroy qpn => Sys2Proof.Machine.execQpDestroy qpn s
  | .qpClear qpn => Sys2Proof.Machine.execQpClear qpn s
  | .keyCreate idx entry => Sys2Proof.Machine.execKeyCreate idx entry s
  | .keyDestroy idx => Sys2Proof.Machine.execKeyDestroy idx s
  | .setRidge idx intake onward contributors => Sys2Proof.Machine.execSetRidge idx intake onward contributors s
  | .cancelRidge idx tag => Sys2Proof.Machine.execCancelRidge idx tag s
  | .setFence e self map => Sys2Proof.Machine.execSetFence e self map s
  | .unfence e => Sys2Proof.Machine.execUnfence e s
  | .setPolicer inst ten cls cinc pinc cbs pbs => Sys2Proof.Machine.execSetPolicer inst ten cls cinc pinc cbs pbs s
  | .clearPolicer inst => Sys2Proof.Machine.execClearPolicer inst s
  | .setTenantQuantum ten q => Sys2Proof.Machine.execSetTenantQuantum ten q s
  | .loadProgram image => Sys2Proof.Machine.execLoadProgram image s
  | .unloadProgram slot => Sys2Proof.Machine.execUnloadProgram slot s
  | .loadTable image => Sys2Proof.Machine.execLoadTable image s
  | .unloadTable slot => Sys2Proof.Machine.execUnloadTable slot s
  | .setProjection ten first nlm1 nq dcode lcode region => Sys2Proof.Machine.execSetProjection ten first nlm1 nq dcode lcode region s
  | .clearProjection ten first nlm1 => Sys2Proof.Machine.execClearProjection ten first nlm1 s
  | .imageWrite off data => Sys2Proof.Machine.execImageWrite off data s
  | .imageCommit => Sys2Proof.Machine.execImageCommit s
  | .i3cStatus => Sys2Proof.Machine.execI3cStatus s
  | .journalBounds => Sys2Proof.Machine.execJournalBounds s
  | .journalRead jseq => Sys2Proof.Machine.execJournalRead jseq s
  | .identity => Sys2Proof.Machine.execIdentity s
  | .i3cWake => Sys2Proof.Machine.execI3cWake s
  | .chipReset code env => Sys2Proof.Machine.execChipReset code env s
  | .extest => Sys2Proof.Machine.execExtest s
  | .idcode => Sys2Proof.Machine.execIdcode s
  | .samplePreload v => Sys2Proof.Machine.execSamplePreload v s
  | .clamp => Sys2Proof.Machine.execClamp s
  | .highz => Sys2Proof.Machine.execHighz s
  | .bypass code => Sys2Proof.Machine.execBypass code s
  | .pwrokRise railsOk => Sys2Proof.Machine.execPwrokRise railsOk s
  | .perstAssert => Sys2Proof.Machine.execPerstAssert s
  | .nodeRstAssert => Sys2Proof.Machine.execNodeRstAssert s
  | .pcieLinkUp speed width => Sys2Proof.Machine.execPcieLinkUp speed width s
  | .lockInterface fn => Sys2Proof.Machine.execLockInterface fn s
  | .startInterface fn => Sys2Proof.Machine.execStartInterface fn s
  | .spdmRequest req => Sys2Proof.Machine.execSpdmRequest req s
  | .ideKm stream fn msgs => Sys2Proof.Machine.execIdeKm stream fn msgs s
  | .dynamicAddress addr => Sys2Proof.Machine.execDynamicAddress addr s
  | .dmaReadCompletion ch data => Sys2Proof.Machine.execDmaReadCompletion ch data s

end Sys2Proof.Machine
end

