-- ==== Sys2Proof/Machine/Step.lean ====
section
/-! DEFINITION. One step: the command at the front of the queue takes its effect on the node and leaves the queue; with
an empty queue the node idles (log entry 1, DESIGN CHOICE). -/

namespace Sys2Proof.Machine

/-- Takes the command at the front of the queue and runs it on the state with the rest of the queue. Log entry 2, DESIGN CHOICE. -/
def step (s : State) : Host.Outcome State Fault Refusal :=
  match s.pending with
  | [] => .next s
  | c :: r => exec c { s with pending := r }

/-- Puts the command that a table word spells at the front of the queue; a word that spells none changes nothing. -/
def State.withFetchWord (s : State) (nbits w : Nat) : State :=
  match Sys2Proof.decodeTableWord nbits w with
  | none => s
  | some c => { s with pending := c :: s.pending }

end Sys2Proof.Machine
end

