-- ==== Sys2Proof/Safety.lean ====
section
/-! DEFINITION. The terms that claims use: a command that takes its effect, which blocks a change leaves alone, a node in which
nothing waits, and the forms that every step keeps. -/

namespace Sys2Proof.Machine

/-- The state after a command that changes the device alone: its own effect is `d`, and then what waited for it goes on (log entry 1,
DESIGN CHOICE). A command that finds a journalled event while the queue is full and its block's port is occupied waits instead (R377). -/
def State.went (s : State) (d : Dev) : State := if s.dev.portHeld d then s else { s with dev := d.after s.qb }

/-- The same for a command that may write the query buffer too. -/
def State.wentQ (s : State) (qb : QBuf) (d : Dev) : State := if s.dev.portHeld d then s else { s with qb := qb, dev := d.after qb }

/-- A management command takes effect `d`: it is the one that the oldest envelope with its opcode asks for, or none carries it (R393, R394). -/
def State.does (s : State) (c : Instr) (d : Dev) : Prop := s.dev.asked c = true → exec c s = .next (s.went d)

/-- The blocks of the device. -/
inductive Blk where
  | regs | links | trn | tsh | waitq | dir | atn | bnk | pgm | plc | cmp | shp | dma | sec | rcv | pwr | out | free
  deriving DecidableEq, Repr

/-- Two devices hold the same in a block. -/
def Blk.same : Blk → Dev → Dev → Prop
  | .regs, d, e => e.regs = d.regs
  | .links, d, e => e.links = d.links
  | .trn, d, e => e.trn = d.trn
  | .tsh, d, e => e.tsh = d.tsh
  | .waitq, d, e => e.waitq = d.waitq
  | .dir, d, e => e.dir = d.dir
  | .atn, d, e => e.atn = d.atn
  | .bnk, d, e => e.bnk = d.bnk
  | .pgm, d, e => e.pgm = d.pgm
  | .plc, d, e => e.plc = d.plc
  | .cmp, d, e => e.cmp = d.cmp
  | .shp, d, e => e.shp = d.shp
  | .dma, d, e => e.dma = d.dma
  | .sec, d, e => e.sec = d.sec
  | .rcv, d, e => e.rcv = d.rcv
  | .pwr, d, e => e.pwr = d.pwr
  | .out, d, e => e.out = d.out
  | .free, d, e => e.free = d.free

/-- From `d` to `e` at most the blocks named change. -/
def Dev.onlyIn (bs : List Blk) (d e : Dev) : Prop := ∀ b, b ∉ bs → b.same d e

/-- BAR2 writes of a function that carry the T bit `t` take effect at once: the node is ready, the PCIe link is up, and TDISP leaves the
function open, in RUN to writes with the bit alone (R304, R305, R398). -/
def Dev.hears (d : Dev) (f : Nat) (t : Bool) : Prop := d.pwr.state = .ready ∧ d.barOpen f t = true

/-- Nothing waits for something else to end: no context is destroyed, no table drains, no edit waits for append orders or a stage-back, no placement
command waits for an edit, no mirror is filled, no binding waits for its tenons, no region is deleting, no lost image waits for an edit, no
function event runs, no tenon waits for an arbor, a pin or a stage-back, no forwarded edit waits for a shadow, the node channels have nothing to
do, and the node does not enter Dormant. -/
def Dev.calm (d : Dev) : Prop :=
  (∀ q ∈ d.trn.qps, q.2.destroying = false) ∧
  (∀ t ∈ d.cmp, t.2.state ≠ 2) ∧
  (∀ q ∈ d.pgm.seqs, ∀ e ∈ q.2.edits, e.phase ≠ .data ∧ ∀ id, e.phase ≠ .stage id) ∧
  (∀ w ∈ d.pwr.waits, (∀ id e, w ≠ .adoptHome id e) ∧ ∀ id, w ≠ .discard id) ∧
  d.plc.fillSeqs = [] ∧ d.plc.fillRuns = [] ∧
  (∀ p ∈ d.shp.projs, p.live = true) ∧
  (∀ g ∈ d.shp.regions, g.2.deleting = false) ∧
  (∀ x ∈ d.plc.suspects, x.2 < 16) ∧
  (∀ f, (d.fn f).resetting = false) ∧
  (∀ e ∈ d.atn.table, e.2.phase ≠ .arborWait ∧ e.2.phase ≠ .pinWait ∧ ∀ ps, e.2.phase ≠ .stageWait ps) ∧
  (∀ w ∈ d.plc.queue, pbKind w.body ≠ 7) ∧
  d.dma.xfers = [] ∧ d.dma.heldOut = [] ∧
  d.pwr.state ≠ .entering

/-- A change of one page's entry by the node itself (R175) is published at once: its new lane finds blocks, no append order of the sequence
runs, and the slots of the version before are free. `d'` is the node after the publish. -/
def Dev.swaps (d : Dev) (slot : Nat) (q : Seq) (lane : Nat) (m : Move) (id : RunId) (dest : Nat) (new : PageEnt) (pin : Option Nat)
    (p0 : Prep) (d' : Dev) : Prop :=
  ∃ p d1, Dev.newLane q lane (q.now lane).endp (mset (q.now lane).pages id.page new) [id.page] p0 d = .ok (p, d1) ∧ p.src = none ∧
    d1.appending slot = false ∧ (∀ q1, mget d1.pgm.seqs slot = some q1 → slotsFree q1 p.lanes = true) ∧
    d' = d1.publish slot (moveEdit q m id dest .slot pin p) p

/-- A move takes its sequence's arbor and a pin, and the page's blocks and rows read without a fault (R130, R131, R206). -/
def Dev.readsFor (d : Dev) (fs : List ColFault) (slot : Nat) (q : Seq) (lane : Nat) (id : RunId) (e : PageEnt) (v : Nat)
    (rows : List ((Nat × Nat) × Bytes)) (d' : Dev) : Prop :=
  ∃ d1 d2, d.takeArbor slot true [slot] = some d1 ∧ d1.takePin slot = some (v, d2) ∧ (d2.moveGoes id).moveRead fs slot q lane id e = .ok (rows, d')

/-- A page-run's rows are read into a new frame that `alloc` finds, which its entry then names, or its share entry in place (R142). -/
def Dev.refits (d : Dev) (m : Move) (fs : List ColFault) (alloc : Dev → Option (Frame × Dev)) (slot : Nat) (q : Seq) (lane : Nat) (id : RunId)
    (e : PageEnt) (d' : Dev) : Prop :=
  let r := d.resolve e
  ∃ v rows d1 f d2, d.readsFor fs slot q lane id r v rows d1 ∧ alloc d1 = some (f, d2) ∧
    let new := frameEnt f r.first r.kscale r.vscale
    let d3 := d2.writeRowsAt q.geo id f.loc f.ver rows
    match e.loc with
    | .share i =>
      let d4 := d3.dropFrame r.loc
      d' = (({ d4 with pgm := { d4.pgm with shares := mmod d4.pgm.shares i (fun s => { s with ent := new }) } }).moveDone (m, id, 0)).unpin slot v
    | _ => d3.swaps slot q lane m id 0 new (some v) { emptyPrep with made := [f.loc], retire := emptyRetired.unref e } d'

/-- Regulator levels of core dies are at most 4 and cluster levels at most 2 (Table 4.6, Table 15.9). -/
def Phys.levelsOk (p : Phys) : Prop := (∀ e ∈ p.dies, e.2.level ≤ 4) ∧ ∀ e ∈ p.cls, e.2.level ≤ 2

/-- The byte memories have their canonical form: addresses rising, no entry at the unlisted value. -/
def State.memoriesOk (s : State) : Prop := Memory.wf sramByte s.qb.mem = true ∧ Memory.wf norByte s.nor = true

end Sys2Proof.Machine
end

