-- ==== Sys2Proof/Certificates/Slice0/Obligations.lean ====
section
/-! DEFINITION. The statements for the provers: what each command does, and what every step keeps. -/

open Sys2Proof Sys2Proof.Machine

/-! ### Registers (R11, R12, Table 0.10) -/

/-- REGISTER_WRITE on BAR0 (R11): an aligned access of 32 or 64 bits gives every bit of an RW field that it reaches its value, and
leaves the field's other bits and every other stored field, RO and locked ones among them, as they were; nothing else changes.

REGISTER_WRITE on BAR2 (R11, Table 12.12): a 64-bit write of DMA_FP_VEC sets the two vectors of an open function, and leaves its
queues, its enable, its TDISP state and every other block as they were. -/
def Obligations.RegisterWritesSetRwFields : Prop :=
  (∀ (s : State) (off width : Nat) (v : W64), s.dev.bar0Open = true → accOk off width = true →
    ∃ d, exec (.registerWrite ⟨.bar0, off, width, v⟩) s = .next (s.went d) ∧
      (∀ f ∈ rwFields, ∀ i < f.2, (d.reg f.1).testBit i =
        if rk off 0 ≤ f.1 + i ∧ f.1 + i < rk off 0 + width then v.toNat.testBit (f.1 + i - rk off 0) else (s.dev.reg f.1).testBit i) ∧
      (∀ k, (∀ f ∈ rwFields, f.1 ≠ k) → d.reg k = s.dev.reg k) ∧ s.dev.onlyIn [.regs] d) ∧
  (∀ (s : State) (f : Nat) (t : Bool) (v : W64), s.dev.hears f t → (s.dev.fn f).vecAcq < 256 → (s.dev.fn f).vecEq < 256 → (s.dev.fn f).enable = false →
    ∃ x, exec (.registerWrite ⟨.bar2 f t, 0x28, 64, v⟩) s = .next (s.went (s.dev.setFn f x)) ∧
      x.vecAcq = fld v.toNat 0 8 ∧ x.vecEq = fld v.toNat 8 8 ∧ x.enable = (s.dev.fn f).enable ∧ x.sqs = (s.dev.fn f).sqs ∧
      x.cqs = (s.dev.fn f).cqs ∧ x.acq = (s.dev.fn f).acq ∧ x.eq = (s.dev.fn f).eq ∧ x.tdi = (s.dev.fn f).tdi ∧
      x.qapTen = (s.dev.fn f).qapTen ∧ x.asqLog = (s.dev.fn f).asqLog ∧ x.acqLog = (s.dev.fn f).acqLog ∧ x.eqLog = (s.dev.fn f).eqLog)

/-- W1C_REGISTER_WRITE (R11, Table 0.10): the bit clears where the written bit is 1, keeps its value where it is 0, and holds 1 where the
hardware sets it in the same beat; RCV_RESET_STATUS.REJECTED on BAR0 and DMA_FP_STATUS.EQ_OVF on BAR2, and nothing else changes. -/
def Obligations.W1cClears : Prop :=
  (∀ (s : State) (v hw : W64), s.dev.bar0Open = true →
    ∃ d, exec (.w1cRegisterWrite ⟨.bar0, 0x01200008, 32, v⟩ hw) s = .next (s.went d) ∧
      d.reg (rk 0x01200008 16) = b2n (hw.getLsbD 16 || (decide (s.dev.reg (rk 0x01200008 16) = 1) && !v.getLsbD 16)) ∧
      (∀ k, k ≠ rk 0x01200008 16 → d.reg k = s.dev.reg k) ∧ s.dev.onlyIn [.regs] d) ∧
  (∀ (s : State) (f : Nat) (t : Bool) (v hw : W64), s.dev.hears f t →
    exec (.w1cRegisterWrite ⟨.bar2 f t, 0, 32, v⟩ hw) s = .next (s.went (s.dev.setFn f { s.dev.fn f with eqOvf := hw.getLsbD 6 || ((s.dev.fn f).eqOvf && !v.getLsbD 6) })))

/-- RC_REGISTER_READ (R12, Table 0.10): an aligned 64-bit read of BAR0 returns the register's value as it was, clears exactly its RC fields, and changes nothing else; a 32-bit read of one half of a 64-bit RC register returns
that half and clears nothing. -/
def Obligations.RcReadReturnsAndClears : Prop :=
  (∀ (s : State) (off : Nat), s.dev.pwr.state ≠ .starting → off % 8 = 0 →
    ∃ t, exec (.rcRegisterRead .bar0 off 64) s = .next t ∧
      t.dev.out = s.dev.out ++ [.regValue (BitVec.ofNat 64 (s.word off))] ∧
      (∀ lo ∈ rcFields off, t.dev.reg (rk off lo) = 0) ∧
      (∀ k, (∀ lo ∈ rcFields off, rk off lo ≠ k) → t.dev.reg k = s.dev.reg k) ∧
      s.dev.onlyIn [.regs, .out] t.dev ∧ t.qb = s.qb ∧ t.phys = s.phys ∧ t.nor = s.nor ∧ t.mram = s.mram) ∧
  (∀ (s : State) (off : Nat), s.dev.pwr.state ≠ .starting → off % 4 = 0 → rcFields (off / 8 * 8) ≠ [] →
    exec (.rcRegisterRead .bar0 off 32) s =
      .next { s with dev := s.dev.emit (.regValue (BitVec.ofNat 64 (fld (s.word (off / 8 * 8)) (8 * (off % 8)) 32))) })

/-! ### The host interface (R303 to R329) -/

/-- Doorbells (R308): a tail doorbell of an SQ, of a channel with a ring or of the admin SQ sets the tail modulo the ring.

Head doorbells (R308): of a CQ, of the admin CQ and of the event queue: HEAD is set modulo the ring, ARM 1 arms the queue, and its
tail, phase and reservations stay. -/
def Obligations.Doorbells : Prop :=
  ((∀ (s : State) (f n : Nat) (t : Bool) (v : W32) (q : Sq), s.dev.hears f t → mget (s.dev.fn f).sqs n = some q →
    exec (.sqTailDoorbell f n ⟨v, t⟩) s = .next (s.went (s.dev.setFn f { s.dev.fn f with sqs := mset (s.dev.fn f).sqs n { q with tail := v.toNat % 2 ^ 16 % 2 ^ q.log2 } }))) ∧
  (∀ (s : State) (f c n : Nat) (t : Bool) (v : W32), s.dev.hears f t → s.dev.chOf f c = some n → (s.dev.chan n).state ≠ 0 →
    exec (.channelTailDoorbell f c ⟨v, t⟩) s = .next (s.went (s.dev.setChan n { s.dev.chan n with tail := v.toNat % 2 ^ 16 % 2 ^ (s.dev.chan n).log2 }))) ∧
  (∀ (s : State) (f : Nat) (t : Bool) (v : W32), s.dev.hears f t → (s.dev.fn f).enable = true →
    exec (.adminSqTailDoorbell f ⟨v, t⟩) s = .next (s.went (s.dev.setFn f { s.dev.fn f with asqTail := v.toNat % 2 ^ 16 % 2 ^ (s.dev.fn f).asqLog })))) ∧
  (let rung (c x : Cq) (v : W32) : Prop := x.head = v.toNat % 2 ^ 16 % 2 ^ c.log2 ∧ x.armed = (c.armed || v.getLsbD 16) ∧ x.tail = c.tail ∧
    x.phase = c.phase ∧ x.resv = c.resv ∧ x.base = c.base ∧ x.log2 = c.log2 ∧ x.vec = c.vec ∧ x.cnt = c.cnt
  (∀ (s : State) (f n : Nat) (t : Bool) (v : W32) (c : Cq), s.dev.hears f t → mget (s.dev.fn f).cqs n = some c →
    ∃ x, rung c x v ∧ exec (.cqHeadDoorbell f n ⟨v, t⟩) s = .next (s.went (s.dev.setFn f { s.dev.fn f with cqs := mset (s.dev.fn f).cqs n x }))) ∧
  (∀ (s : State) (f : Nat) (t : Bool) (v : W32), s.dev.hears f t → (s.dev.fn f).enable = true →
    (∃ x, rung (s.dev.fn f).acq x v ∧ exec (.adminCqHeadDoorbell f ⟨v, t⟩) s = .next (s.went (s.dev.setFn f { s.dev.fn f with acq := x }))) ∧
    (∃ x, rung (s.dev.fn f).eq x v ∧ exec (.eqHeadDoorbell f ⟨v, t⟩) s = .next (s.went (s.dev.setFn f { s.dev.fn f with eq := x })))))

/-- FUNCTION_ENABLE (Table 12.12, R329): on an open function that is not enabled, with its three ring sizes between 2^4 and 2^12 and no
function event running, ENABLE becomes 1, and the admin and event queues start empty and armed at their bases.

Function events (R304, R329): FUNCTION_RELEASE of an enabled function, FUNCTION_LEVEL_RESET of a VF that is not locked, TDI_ERROR of a
locked one and PCIE_LINK_LOSS begin the function event of their functions; a locked VF enters ERROR first. -/
def Obligations.FunctionsStartAndEnd : Prop :=
  (∀ (s : State) (f : Nat) (t : Bool), s.dev.hears f t → s.dev.awake = true → (s.dev.fn f).enable = false → (s.dev.fn f).resetting = false →
    (∀ l ∈ [(s.dev.fn f).asqLog, (s.dev.fn f).acqLog, (s.dev.fn f).eqLog], 4 ≤ l ∧ l ≤ 12) →
    ∃ x, exec (.functionEnable ⟨f, t⟩) s = .next (s.went (s.dev.setFn f x)) ∧ x.enable = true ∧ x.asqHead = 0 ∧ x.asqTail = 0 ∧
      x.acq.base = (s.dev.fn f).acqBase ∧ x.acq.log2 = (s.dev.fn f).acqLog ∧ x.acq.vec = (s.dev.fn f).vecAcq ∧ x.acq.head = x.acq.tail ∧
      x.eq.base = (s.dev.fn f).eqBase ∧ x.eq.log2 = (s.dev.fn f).eqLog ∧ x.eq.vec = (s.dev.fn f).vecEq ∧ x.eq.head = x.eq.tail ∧
      x.sqs = (s.dev.fn f).sqs ∧ x.cqs = (s.dev.fn f).cqs ∧ x.tdi = (s.dev.fn f).tdi) ∧
  ((∀ (s : State) (f : Nat) (t : Bool), s.dev.hears f t → (s.dev.fn f).enable = true →
    exec (.functionRelease ⟨f, t⟩) s = .next (s.went (s.dev.fnEvent f false false 6))) ∧
  (∀ (s : State) (f : Nat), s.dev.dma.linkup = true → 0 < f → f < 17 → s.dev.tdi f = 1 →
    exec (.functionLevelReset f) s = .next (s.went (s.dev.fnEvent f false true 6))) ∧
  (∀ (s : State) (f : Nat), f < 17 → s.dev.tdi f = 2 ∨ s.dev.tdi f = 3 →
    exec (.tdiError f) s = .next (s.went (((s.dev.setFn f { s.dev.fn f with tdi := 4 }).postEvent 0 5 f 0).fnEvent f false false 6))) ∧
  (∀ (s : State), s.dev.dma.linkup = true →
    exec .pcieLinkLoss s = .next (s.went ((List.range 17).foldl (fun d f => d.fnEvent f false false 7)
      { s.dev with dma := { s.dev.dma with linkup := false, speed := 0, width := 0 } }))))

/-- TDISP states (R304): LOCK_INTERFACE takes a VF from CONFIG_UNLOCKED to CONFIG_LOCKED, START_INTERFACE from there to RUN, and
STOP_INTERFACE from CONFIG_LOCKED, RUN or ERROR to CONFIG_UNLOCKED; nothing else of the function changes. -/
def Obligations.TdispMoves : Prop :=
  ∀ (s : State) (f : Nat), 0 < f → f < 17 →
    (s.dev.tdi f = 1 → exec (.lockInterface f) s = .next (s.went (s.dev.setFn f { s.dev.fn f with tdi := 2 }))) ∧
    (s.dev.tdi f = 2 → exec (.startInterface f) s = .next (s.went (s.dev.setFn f { s.dev.fn f with tdi := 3 }))) ∧
    (s.dev.tdi f = 2 ∨ s.dev.tdi f = 3 ∨ s.dev.tdi f = 4 → exec (.stopInterface f) s = .next (s.went (s.dev.setFn f { s.dev.fn f with tdi := 1 })))

/-- Admin commands (R316, Table 12.6): with its rule met, each entry is taken, has its effect on the function's rings, its channel, its
spill area or the QP table, and completes with ST_OK in the admin CQ.

SQ_ENTRY (R310, R313, R314): the entry whose SQ has the turn, that may be fetched and breaks no condition, is taken: the SQ's head moves on,
its CQ entry is reserved, the control channel counts its 256 bytes, it counts as submitted, and its work is handed on with the source that its completion will name. Stated for tenons, dowel
descriptors and sequence commands, which need no host read. -/
def Obligations.SubmissionAndAdminEntries : Prop :=
  (∀ (s : State) (f : Nat) (e : W512), s.dev.adminReady f = true → s.dev.awake = true → wf e 192 320 = 0 → aBase e % 4096 = 0 →
    let d := s.dev.adminTake f
    (aAop e = 1 → aId e < s.dev.cqCount f → aVec e < (if f = 0 then 64 else 32) → 1 ≤ aCnt e → 4 ≤ aLog2 e → aLog2 e ≤ 16 →
      mget (s.dev.fn f).cqs (aId e) = none →
      let c : Cq := ⟨aBase e, aLog2 e, aVec e, aCnt e, 0, 0, true, 0, false, 0⟩
      exec (.createCq f e) s = .next (s.went ((d.setFn f { d.fn f with cqs := mset (d.fn f).cqs (aId e) c }).adminDone f e .ok))) ∧
    (aAop e = 2 → (mget (s.dev.fn f).cqs (aId e)).isSome = true → (∀ q ∈ (s.dev.fn f).sqs, q.2.cq ≠ aId e) →
      (∀ c ∈ s.dev.dma.chans, ¬ (s.dev.chOwner c.1 = f ∧ c.2.state ≠ 0 ∧ c.2.cq = aId e)) →
      exec (.deleteCq f e) s = .next (s.went ((d.setFn f { d.fn f with cqs := mdel (d.fn f).cqs (aId e) }).adminDone f e .ok))) ∧
    (aAop e = 3 → aId e < s.dev.sqCount f → 4 ≤ aLog2 e → aLog2 e ≤ 16 → mget (s.dev.fn f).sqs (aId e) = none →
      (mget (s.dev.fn f).cqs (aCq e)).isSome = true →
      let q : Sq := ⟨aBase e, aLog2 e, aCq e, 0, 0, false, none, 0⟩
      exec (.createSq f e) s = .next (s.went ((d.setFn f { d.fn f with sqs := mset (d.fn f).sqs (aId e) q }).adminDone f e .ok))) ∧
    (aAop e = 4 → (∃ q, mget (s.dev.fn f).sqs (aId e) = some q ∧ q.outst = 0) →
      exec (.deleteSq f e) s = .next (s.went ((d.setFn f { d.fn f with sqs := mdel (d.fn f).sqs (aId e) }).adminDone f e .ok))) ∧
    (∀ n, aAop e = 5 → s.dev.chOf f (aId e) = some n → (s.dev.chan n).state < 2 → (s.dev.chan n).job = none → 4 ≤ aLog2 e → aLog2 e ≤ 16 →
      (mget (s.dev.fn f).cqs (aCq e)).isSome = true →
      let c : Chan := ⟨1, aBase e, aLog2 e, aCq e, 0, 0, none, 0, 0, 0, 0, (s.dev.chan n).abandoned⟩
      exec (.setChannel f e) s = .next (s.went ((d.setChan n c).adminDone f e .ok))) ∧
    (aAop e = 6 → f ≠ 0 → s.dev.spillUsed (f - 1) = [] →
      exec (.setSpillArea f e) s = .next (s.went ((d.setFn f { d.fn f with spill := if aLen e = 0 then none else some (aBase e, aLen e) }).adminDone f e .ok))) ∧
    (aAop e = 7 → f = 0 → aBase e % 2 ^ 20 = 0 → (∀ q ∈ s.dev.trn.qps, q.2.cached = true) →
      exec (.setQpTable f e) s = .next (s.went ((d.setFn 0 { d.fn 0 with qpt := some (aBase e) }).adminDone 0 e .ok)))) ∧
  (∀ (s : State) (f n : Nat) (e : BitVec 2048) (lines : DptrRead) (q : Sq), mget (s.dev.fn f).sqs n = some q →
    s.dev.sqReady f q e = true → s.dev.sqTurnOk f n = true → s.dev.nodeUp = true → sqKind e ≠ 3 →
    let t := (((s.dev.sqTurned f n).chCount (s.dev.classChan 0) 256).sqTake f n q).2
    t.sqConds s.qb f e = [] →
    exec (.sqEntry f n e lines) s = .next (s.went ((t.bump (rk 0x01000008 0) 64 1).pushWork
      ⟨sqKind e, .host f n (sqCtag e + (q.head + 1) % 2 ^ q.log2 * 2 ^ 32) (sqRet e), wf (sqDesc e) 12 4, sqKeygen e, sqDesc e,
        if sqInline e then sqTrailer e else []⟩)) ∧
    (mget (t.fn f).sqs n).map Sq.head = some ((q.head + 1) % 2 ^ q.log2))

/-- Apertures (R319, R320): a write to a VF's query aperture places its bytes in the partition's share under the tenant that
DMA_FP_QAP names, and marks the tenons whose queries it overwrites; a write to the partial aperture is discarded.

Channels (R322 to R325, R327): CHANNEL_DESCRIPTOR takes the next descriptor of a bound channel and starts it at byte 0; a RESTART of a
halted channel starts the failing descriptor again; DMA_READ_COMPLETION moves the bytes of a running read. -/
def Obligations.AperturesAndChannels : Prop :=
  ((∀ (s : State) (f a : Nat) (bs : Bytes) (t : Bool), s.dev.pwr.state = .ready → s.dev.bar4 f t = true → a < 2 ^ 24 →
    (s.dev.fn f).qapValid = true → s.dev.admitted (s.dev.fn f).qapTen (f - 1) = true → 0 < bs.length →
    a + bs.length ≤ s.dev.shareSize (f - 1) →
    exec (.queryApertureWrite f a bs t) s = .next (s.wentQ (s.qb.place (s.dev.shareBase (f - 1) + a) (s.dev.fn f).qapTen (s.dev.gen (s.dev.fn f).qapTen) bs) (s.dev.overwrite (s.dev.shareBase (f - 1) + a) bs.length))) ∧
  (∀ (s : State) (f a : Nat) (bs : Bytes) (t : Bool), s.dev.pwr.state = .ready → exec (.partialApertureWrite f a bs t) s = .next (s.went s.dev))) ∧
  ((∀ (s : State) (ch : Nat) (x : W512) (q : Cq), ch < 64 → s.dev.isStopped (5 * 4096 + ch) = false → s.dev.ctxHeld 3 ch = false → s.dev.fnLive (s.dev.chOwner ch) = true → (s.dev.chan ch).state = 1 →
    (s.dev.chan ch).head ≠ (s.dev.chan ch).tail → mget (s.dev.fn (s.dev.chOwner ch)).cqs (s.dev.chan ch).cq = some q → q.free ≠ 0 →
    let f := s.dev.chOwner ch
    let c := s.dev.chan ch
    let d := (s.dev.setFn f { s.dev.fn f with cqs := mmod (s.dev.fn f).cqs c.cq Cq.reserve }).setChan ch { c with head := (c.head + 1) % 2 ^ c.log2 }
    s.dev.keyOk (cdTen x) (cdKeygen x) = true → f ≠ 0 → s.dev.admitted (cdTen x) (f - 1) = true → s.dev.cdOk f c x = true →
    exec (.channelDescriptor ch x) s = .next (s.wentQ (startDesc ch x c.head s.qb d).1 (startDesc ch x c.head s.qb d).2)) ∧
  (∀ (s : State) (ch : Nat) (page : Option Bool) (j : ChJob), ch < 64 → (s.dev.chan ch).state = 3 → (s.dev.chan ch).job = some j →
    (∀ t, page = some t → s.dev.hears (s.dev.chOwner ch) t) → s.dev.fnOpen (s.dev.chOwner ch) = true →
    exec (.restart ⟨ch, page⟩) s = .next (s.wentQ (startDesc ch j.desc j.idx s.qb s.dev).1 (startDesc ch j.desc j.idx s.qb s.dev).2)) ∧
  (∀ (s : State) (ch : Nat) (j : ChJob) (bs : Bytes), ch < 64 → s.dev.isStopped (5 * 4096 + ch) = false → (s.dev.chan ch).abandoned = [] → s.dev.dma.linkup = true → (s.dev.chan ch).state = 2 →
    (s.dev.chan ch).job = some j → cdSsp j.desc = 0 →
    exec (.dmaReadCompletion ch bs) s = .next (s.wentQ (moveBytes ch bs s.qb s.dev).1 (moveBytes ch bs s.qb s.dev).2)))

/-- Bus errors (R327, R303): the channel of a function halts, latches the address and the error, and the error is a fault whose event
waits for its journal entry; SKIP of the halted channel completes the descriptor with ST_TIER_ERROR; a failed IDE check of a stream
makes it Insecure. -/
def Obligations.BusErrorsHaltAndSkip : Prop :=
  (∀ (s : State) (ch cause : Nat) (a : W64) (j : ChJob), ch < 64 → 0 < cause → cause < 8 → s.dev.chOwner ch < 17 →
    (s.dev.chan ch).state = 2 → (s.dev.chan ch).job = some j →
    let err := pack [(0, 3, cause), (3, 1, b2n (decide (cdSsp j.desc ≠ 0))), (8, 16, j.idx), (32, 32, j.got - j.held.length)]
    exec (.busError ch cause a) s = .next (s.went ((s.dev.setChan ch { s.dev.chan ch with state := 3, errAddr := a, err := BitVec.ofNat 64 err }).busFault ch cause
        (cdInfo (s.dev.chOwner ch) j.desc) [.event (s.dev.chOwner ch) 2 (s.dev.chLocal ch) (err % 2 ^ 32)]))) ∧
  (∀ (s : State) (ch : Nat) (page : Option Bool) (j : ChJob), ch < 64 → (s.dev.chan ch).state = 3 → (s.dev.chan ch).job = some j →
    (∀ t, page = some t → s.dev.hears (s.dev.chOwner ch) t) → (∀ e ∈ s.dev.rcv.jq, wf e.data 144 16 ≠ 5 * 4096 + ch) →
    ∃ v, exec (.skip ⟨ch, page⟩) s = .next (s.went ((({ s.dev with free := s.dev.free + 1 }).setChan ch
        { s.dev.chan ch with state := 1, job := none, errAddr := 0, err := 0, crcKind := cdCrc j.desc, crcRun := v }).cdAnswer ch (s.dev.chOwner ch) (s.dev.chan ch) j.desc j.idx .tierError 0))) ∧
  (∀ (s : State) (st : Nat) (a : W64) (x : Ide), mget s.dev.dma.ides st = some x →
    exec (.ideCheckFailure st ⟨none, a⟩) s = .next (s.went { s.dev with dma := { s.dev.dma with ides := mset s.dev.dma.ides st { x with secure := false } } }))

/-! ### Pins, power and the sideband (Tables 15.4 to 15.15, R388 to R404) -/

/-- Pins (R373, R399, R400, R402): PWROK_RISE with its rails in regulation raises PWROK and changes nothing else; PERST_ASSERT and
NODE_RST_ASSERT with PWROK high leave the node in reset: every block of the device at its reset value but for what it sent before, the
query buffer and its tags empty, NOR and the journal as they were; POWER_LOSS does so too and drops PWROK. -/
def Obligations.PinsResetTheNode : Prop :=
  (∀ s : State, exec (.pwrokRise true) s = .next { s with phys := { s.phys with pwrok := true } }) ∧
  (∀ s : State, s.phys.pwrok = true →
    ∃ t u, exec .perstAssert s = .next t ∧ exec .nodeRstAssert s = .next u ∧ t.phys.perst = true ∧ u.phys.nodeRst = true ∧
      (∀ x ∈ [t, u], x.dev = { Dev.reset with out := s.dev.out, free := s.dev.free, sec := { Sec.reset with draws := s.dev.sec.draws } } ∧
        x.qb = ⟨[], []⟩ ∧ x.nor = s.nor ∧ x.mram = s.mram ∧ x.phys.dies = [] ∧ x.phys.cls = [] ∧ x.phys.i3cDyn = none)) ∧
  (∀ s : State, ∃ t, exec .powerLoss s = .next t ∧ t.phys.pwrok = false ∧
    t.dev = { Dev.reset with out := s.dev.out, free := s.dev.free, sec := { Sec.reset with draws := s.dev.sec.draws } } ∧
    t.qb = ⟨[], []⟩ ∧ t.nor = s.nor ∧ t.mram = s.mram)

/-- Start-up begins (R388): the release of PERST# or of NODE_RST# when it is the last of the two and PWROK is high runs the steps of Table
15.4 on a device that a full reset has cleared; while the other stays asserted, only the pin changes.

Start-up's failures (R390, Table 15.5): an SRAM that does not repair stops it at step 0 with FAIL 7; a NOR that does not answer, or no
valid selector, at step 2 with FAIL 1; a bad image at step 3 with the check's FAIL and DETAIL; the node is then FAILED. -/
def Obligations.StartUpRuns : Prop :=
  (let started (env : StartEnv) (s t : State) : Prop :=
    t.mram = (startSteps env s.nor s.mram s.dev.fullReset).1 ∧ t.dev = (startSteps env s.nor s.mram s.dev.fullReset).2.after ⟨[], []⟩ ∧
    t.qb = ⟨[], []⟩ ∧ t.nor = s.nor
  (∀ (s : State) (env : StartEnv), s.phys.pwrok = true → s.phys.perst = true → s.phys.nodeRst = false →
    ∃ t, exec (.perstRelease env) s = .next t ∧ started env s t ∧ t.phys.perst = false) ∧
  (∀ (s : State) (env : StartEnv), s.phys.pwrok = true → s.phys.perst = false → s.phys.nodeRst = true →
    ∃ t, exec (.nodeRstRelease env) s = .next t ∧ started env s t ∧ t.phys.nodeRst = false) ∧
  (∀ (s : State) (env : StartEnv), s.phys.perst = true → s.phys.nodeRst = true →
    exec (.perstRelease env) s = .next { s with phys := { s.phys with perst := false }, dev := s.dev.after s.qb })) ∧
  (∀ (env : StartEnv) (nor : Memory) (m : Mram) (d : Dev),
    let r := (startSteps env nor m d).2.pwr
    (env.sramOk = false → r.state = .failed ∧ r.step = 0 ∧ r.fail = 7) ∧
    (env.sramOk = true → env.norOk = false ∨ selector nor = none → r.state = .failed ∧ r.step = 2 ∧ r.fail = 1) ∧
    (∀ i slot f x, env.sramOk = true → env.norOk = true → selector nor = some (i, slot) →
      imageCheck nor slot { (startJournal env.jdev m d.drawRoots).2 with
        pwr := { (startJournal env.jdev m d.drawRoots).2.pwr with slot := decide (slot = 1) } } = .error (f, x) →
      r.state = .failed ∧ r.step = 3 ∧ r.fail = f ∧ r.detail = x))

/-- Boundary scan (R404): each instruction loads its code, and selects its mode; EXTEST, CLAMP and HIGHZ drive the pins only while
NODE_RST# is asserted. IDCODE shifts out the part's identification, SAMPLE/PRELOAD loads the boundary register. The chip's own state
does not change. -/
def Obligations.BoundaryScan : Prop :=
  ∀ s : State,
    (exec .extest s = .next { s with phys := { s.phys with ir := 0, jmode := if s.phys.nodeRst then .extest else .bypass } }) ∧
    (exec .idcode s = .next { s with phys := { s.phys with ir := 1, jmode := .idcode }, dev := s.dev.emit (.tdo 0x109604F3) }) ∧
    (∀ v, ∃ t, exec (.samplePreload v) s = .next t ∧ t.phys = { s.phys with ir := 2, jmode := .sample, bsr := v } ∧ t.qb = s.qb ∧
      t.nor = s.nor ∧ t.mram = s.mram ∧ s.dev.onlyIn [.out, .free] t.dev) ∧
    (exec .clamp s = .next { s with phys := { s.phys with ir := 4, jmode := if s.phys.nodeRst then .clamp else .bypass } }) ∧
    (exec .highz s = .next { s with phys := { s.phys with ir := 5, jmode := if s.phys.nodeRst then .highz else .bypass } }) ∧
    (∀ c : Byte, c.toNat ∉ [0, 1, 2, 4, 5] → exec (.bypass c) s = .next { s with phys := { s.phys with ir := c, jmode := .bypass } })

/-- The sideband (Table 15.15, R403): while the target answers, STATUS, JOURNAL_BOUNDS and IDENTITY send their bytes (16, 16 and 72) and
change nothing else; DYNAMIC_ADDRESS sets the address.

Journal reads (R379, Table 15.15): JNL_RD_CMD_GO and the sideband's JOURNAL_READ are served at once when no commit waits, and wait behind
the commits when one does. CHIP_RESET with its code runs a full chip reset, and with another changes nothing (R402). -/
def Obligations.SidebandAnswers : Prop :=
  (∀ s : State, s.i3cUp = true →
    exec .i3cStatus s = .next { s with dev := s.dev.emit (.i3c s.i3cStatus) } ∧ s.i3cStatus.length = 16 ∧
    exec .journalBounds s = .next { s with dev := s.dev.emit (.i3c s.i3cBounds) } ∧ s.i3cBounds.length = 16 ∧
    exec .identity s = .next { s with dev := s.dev.emit (.i3c s.i3cIdentity) } ∧
    (∀ a, a < 128 → exec (.dynamicAddress a) s = .next { s with phys := { s.phys with i3cDyn := some a } })) ∧
  ((∀ s : State, s.dev.bar0Open = true → s.dev.rcv.jstate = 1 → s.dev.rcv.jq = [] →
    exec .jnlRdCmdGo s = .next (s.went (s.dev.serveRead s.mram none))) ∧
  (∀ s : State, s.dev.bar0Open = true → s.dev.rcv.jstate = 1 → s.dev.rcv.jq ≠ [] → none ∉ s.dev.rcv.jreads →
    ∃ d, exec .jnlRdCmdGo s = .next (s.went d) ∧ d.reg (rk 0x01400030 31) = 0 ∧ d.rcv.jreads = s.dev.rcv.jreads ++ [none] ∧ s.dev.onlyIn [.regs, .rcv] d) ∧
  (∀ (s : State) (j : Nat), s.i3cUp = true → s.dev.rcv.jstate = 1 → j < 2 ^ 64 → s.dev.rcv.jq = [] →
    exec (.journalRead j) s = .next { s with dev := s.dev.serveRead s.mram (some j) }) ∧
  (∀ (s : State) (env : StartEnv), s.i3cUp = true →
    exec (.chipReset 0xA55A env) s = .next { fullChip env s with dev := (fullChip env s).dev.after (fullChip env s).qb }) ∧
  (∀ (s : State) (env : StartEnv) (c : BitVec 16), c ≠ 0xA55A → exec (.chipReset c env) s = .next s))

/-- Power (R300, R397, R398, Tables 15.11 and 15.12): PCIE_LINK_UP reports rate and width; DORMANT with no other command under way begins the
entry and completes ST_OK; a wake cause (WAKE, an LPI exit, the sideband) of a Dormant node begins to wake it and is latched; the end of the
wake's hold makes it ready and applies the held writes in order. -/
def Obligations.PowerStates : Prop :=
  (∀ (s : State) (sp w : Nat), s.phys.pwrok = true → s.phys.perst = false → s.dev.pwr.state ≠ .starting → 0 < sp → sp < 8 → w ∈ [1, 2, 4] →
    exec (.pcieLinkUp sp w) s = .next (s.went { s.dev with dma := { s.dev.dma with linkup := true, speed := sp, width := w } })) ∧
  (∀ s : State, s.dev.pwr.state = .ready → s.dev.rcv.run = none → (∀ m ∈ s.dev.pwr.inflight, m.opc = 0x0502) → s.dev.pwr.waits = [] →
    s.dev.pwr.norOp = [] → s.dev.sec.td = none → s.does .dormant ((s.dev.setPower .entering).mgmtDone 0x0502 0 [])) ∧
  (∀ s : State, s.dev.pwr.state = .dormant →
    exec .wake s = .next (s.went { s.dev with pwr := { s.dev.pwr with state := .waking, causes := 1 } }) ∧
    (s.phys.pwrok = true → exec .i3cWake s = .next (s.went { s.dev with pwr := { s.dev.pwr with state := .waking, causes := 16 } })) ∧
    (∀ n l, mget s.dev.links n = some l → l.state = 3 →
      exec (.linkPartnerLpiExit n) s = .next (s.went { s.dev with pwr := { s.dev.pwr with state := .waking, causes := 8 } }))) ∧
  (∀ (s : State) (up : List Nat), s.dev.pwr.state = .waking →
    let r := heldWrites s.dev.dma.heldWrites s.qb (({ s.dev with dma := { s.dev.dma with heldWrites := [] } }).wakeEnd up)
    exec (.wakeHoldExpiry up) s = .next (s.wentQ r.1 r.2))

/-! ### Resets, faults and the journal (R359 to R379, R408) -/

/-- Resets of levels 1 to 4 (R364, R365, Tables 14.7 to 14.9): an accepted request of a ready node commits its TYPE 7 entry, ends what its
level ends, at level 4 with the function events of its step 8, and completes with its TYPE 8 entry; asked for by a register write or by the command RESET.
A compute-only chip reset whose firmware digest does not match does not complete: it freezes a record with CODE 0x83 and LEVEL 5 (R370).

Resets of levels 5 and 6 (R364, R373): a full chip reset commits its TYPE 7 entry and starts the node again; a power cycle commits it and
asserts PWRCYC_REQ#. -/
def Obligations.ResetsComplete : Prop :=
  (let ran (c : Instr) (s : State) (r : ResetRun) : Prop :=
    let b := beginReset r s.mram s.dev
    let x := b.2.resetEffect r
    let e := endReset r b.1 (if r.level = 4 then x.resumeAll else x)
    exec c s = .next { s with mram := e.1, dev := e.2.after s.qb }
  ∀ s : State, s.dev.pwr.state = .ready →
    (∀ k t, s.dev.resetCase 1 k t = 0 → ran (.contextReset k t true) s ⟨1, k, t, 0⟩) ∧
    (∀ e, s.dev.resetCase 2 0 e = 0 → ran (.engineReset e true) s ⟨2, 0, e, 0⟩) ∧
    (∀ p, s.dev.resetCase 3 0 p = 0 → ran (.partitionReset p true) s ⟨3, 0, p, 0⟩) ∧
    (s.dev.resetCase 4 0 0 = 0 → ran (.computeOnlyChipReset true true) s ⟨4, 0, 0, 0⟩) ∧
    (s.dev.resetCase 4 0 0 = 0 →
      let b := beginReset ⟨4, 0, 0, 0⟩ s.mram s.dev
      exec (.computeOnlyChipReset true false) s = .next { s with mram := b.1, dev := ((b.2.computeReset.stop (14 * 4096) 5).fault
        { code := 0x83, engine := 14 * 4096, level := 5 } true []).after s.qb }) ∧
    (∀ l k t env, s.dev.ready = true → s.dev.asked (.reset l k t true true env) = true → l ≤ 4 → s.dev.resetCase l k t = 0 → ran (.reset l k t true true env) s ⟨l, k, t, 1⟩)) ∧
  (∀ s : State, s.dev.pwr.state = .ready →
    (∀ env, s.dev.resetCase 5 0 0 = 0 →
      let b := beginReset ⟨5, 0, 0, 0⟩ s.mram s.dev
      let x := fullChip env { s with mram := b.1, dev := b.2 }
      exec (.fullChipReset env) s = .next { x with dev := x.dev.after x.qb }) ∧
    (s.dev.resetCase 6 0 0 = 0 →
      let b := beginReset ⟨6, 0, 0, 0⟩ s.mram s.dev
      exec .powerCycle s = .next { s with mram := b.1, phys := { s.phys with pwrcyc := true }, dev := b.2.after s.qb }))

/-- Faults that stop a unit (R360, Table 14.2): each stops the unit that the row gives, at the level that clears it, and is a fault with the
row's CODE. -/
def Obligations.StoppingFaults : Prop :=
  ∀ s : State, s.dev.pwr.state ≠ .starting → s.dev.pwr.state ≠ .failed →
    (∀ e a, engineExists e = true → a < 256 → exec (.uncorrectableArrayError e a 65536) s = .next (s.went (s.dev.stopFault 0x80 a e (if e / 4096 ∈ [2, 3, 4] then 2 else 5) 65536))) ∧
    (∀ e a, engineExists e = true → a < 256 → exec (.handshakeProtocolError e a) s = .next (s.went (s.dev.stopFault 0x82 a e (if e / 4096 ∈ [1, 2, 3, 4] then 2 else 4) 65536))) ∧
    (∀ x, x < 256 → exec (.managementCoreException x) s = .next (s.went (s.dev.stopFault 0x83 x (14 * 4096) 4 65536)))

/-- The journal (R377 to R379): a read-back that matches writes the oldest queued entry into its slot under the next JSEQ, lets go what it
held, and advances the head; RCV_REC_RELEASE frees a VALID record's slot; a NOR step that has ended takes effect and the next begins. -/
def Obligations.CommitsReleasesAndPolls : Prop :=
  (∀ (s : State), s.dev.rcv.jstate = 1 → s.dev.rcv.jq ≠ [] →
    let r := commitOne s.mram s.dev
    exec (.journalCommitDone true) s = .next { s with mram := r.1, dev := r.2.tdNext.after s.qb } ∧
    ∃ e q, s.dev.rcv.jq = e :: q ∧
      r.1.entries = mset s.mram.entries ((s.dev.rcv.jhead - 1) % s.mram.nslot) (jEntry s.dev.rcv.jhead e.data) ∧ r.1.nslot = s.mram.nslot) ∧
  (∀ (s : State) (i : Nat) (x : Rec), s.dev.bar0Open = true → mget s.dev.rcv.recs i = some x → x.valid = true →
    exec (.rcvRecRelease i) s = .next (s.went { s.dev with rcv := { s.dev.rcv with recs := mdel s.dev.rcv.recs i } })) ∧
  (∀ (s : State) (x : NorStep) (r : List NorStep), s.dev.pwr.norOp = x :: r → r ≠ [] →
    exec (.norStatusPoll true true) s =
      .next { s with nor := norDo s.nor x, dev := ({ s.dev with pwr := { s.dev.pwr with norOp := r } }).after s.qb })

/-! ### Links and transport (R253 to R279) -/

/-- FLIT_RECEIVE (R253, R254): on an UP link whose block runs, a flit in no uncorrectable codeword, with a good LCRC, header bits [47:36] 0 and a
type that is not reserved frees what its acknowledgement covers; a NAK sends every flit after it again, in order, each with the newest ACKSEQ; an
idle flit is then counted, and a data flit with the sequence number wanted is taken, counted and acknowledged by an idle flit, its payload
joining the packets that the link assembles; during a compute-only chip reset a full receive buffer keeps the acknowledgement back (R371). The 8th replay of one flit loses the link; and a flit that fails its FEC while no NAK is outstanding is
answered by one flit with NAK. Corrected and uncorrectable codewords are counted (R282). -/
def Obligations.FlitsAreTakenOrRefused : Prop :=
  ∀ (s : State) (n : Nat) (l : Link) (f : Bytes) (corr unc : Nat), s.dev.isStopped (6 * 4096 + n) = false → mget s.dev.links n = some l → l.state = 2 →
    f.length = 256 →
    let h := leAt f 0 6
    let d0 := (s.dev.bump (rk (0x00C00028 + 0x4000 * n) 0) 32 corr).bump (rk (0x00C00028 + 0x4000 * n) 32) 32 unc
    let got (d : Dev) : Dev := d.bump (rk (0x00C00018 + 0x4000 * n) 0) 64 1
    let l1 : Link := if fld h 24 1 = 1 then ackLink (fld h 12 12) l else l
    let again : Prop := fld h 25 1 = 1 ∧ (!l1.replay.isEmpty) = true
    let l2 : Link := { l1 with replay := l1.replay.map (fun e => (e.1, reAck l1 e.2.1, e.2.2 + 1)) }
    let d2 := l2.replay.foldl (fun d e => d.flitOut n e.2.1) ((d0.setLink n l2).bump (rk (0x00C00020 + 0x4000 * n) 32) 32 1)
    (leAt f 248 8 = crc64 0 (f.take 248) → fld h 36 12 = 0 → fld h 26 2 ≠ 3 →
      (∀ d, (¬ again ∧ d = (d0.setLink n l1).pump n 512) ∨ (again ∧ (∀ e ∈ l2.replay, e.2.2 < 8) ∧ d = d2.pump n 512) → ∀ m, mget d.links n = some m →
        (fld h 26 2 = 1 → exec (.flitReceive n f ⟨true, corr, unc⟩) s = .next (s.went (got d))) ∧
        (fld h 26 2 = 0 ∨ fld h 26 2 = 2 → fld h 0 12 = (if m.rxany then (m.rxlast + 1) % 4096 else 0) →
          let y := { m with rxlast := fld h 0 12, rxany := true, nak := false }
          let x := if fld h 26 2 = 0 then takeFlit (fld h 28 8) (sliceB f 6 242) y else y
          ((s.dev.chipReset && x.rxFull) = false → exec (.flitReceive n f ⟨true, corr, unc⟩) s =
            .next (s.went (((got d).setLink n x.ackNow).flitOut n (mkFlit x.ackNow 1 0 0xFF false [])))) ∧
          ((s.dev.chipReset && x.rxFull) = true → exec (.flitReceive n f ⟨true, corr, unc⟩) s = .next (s.went ((got d).setLink n x))))) ∧
      (again → (∃ e ∈ l2.replay, 8 ≤ e.2.2) → exec (.flitReceive n f ⟨true, corr, unc⟩) s = .next (s.went (lossStep n d2)))) ∧
    (l.nak = false →
      exec (.flitReceive n f ⟨false, corr, unc⟩) s = .next (s.went (((d0.setLink n { l.ackNow with nak := true }).bump (rk (0x00C00020 + 0x4000 * n) 0) 32 1).flitOut n
        (mkFlit l.ackNow 1 0 0xFF true []))))

/-- Link training (R255, R256, Table 10.3): LINK_TRAINING_COMPLETE of a training link makes it UP with empty sequences and full buckets
when IDENT agrees with its map entry, MISMATCH when it does not, and with no IDENT retries once and then fails it; RETRAIN of a
mapped link that is DOWN, FAILED or MISMATCH trains it again; each change of state posts its event.

LINK_LOSS (R256, R287): of an UP link: the link trains again, what it knew of its peer and the packets it received whole are kept, its
sequences start at 0, and the loss and the retrain are counted; packets stored are counted and let go too, and every QP that lost one, or has flits
not acknowledged, sends RESYNC. -/
def Obligations.LinksTrainAndRetrain : Prop :=
  (∀ (s : State) (n : Nat) (l : Link), mget s.dev.links n = some l →
    (s.dev.isStopped (6 * 4096 + n) = false → l.state = 1 →
      (∀ i : Ident, let x := { l with pkind := i.pkind, pend := i.pend, plink := i.plink, lanes := 15, snr := i.snr,
                                      reversed := i.reversed, inverted := i.inverted }
        (identOk x (s.dev.reg (rk 0x00E00000 32)) i = true → ∃ y, exec (.linkTrainingComplete n (some i)) s = .next (s.went ((s.dev.setLink n y).linkState n 2)) ∧
          y.txseq = 0 ∧ y.rxany = false ∧ y.replay = [] ∧ y.txbuf = [] ∧ y.mkind = l.mkind ∧ y.mend = l.mend ∧ y.mlink = l.mlink ∧
          y.pkind = i.pkind ∧ y.pend = i.pend ∧ y.plink = i.plink ∧ y.buckets = s.dev.tsh.map (fun e => (e.1, (64 * e.2.cbs, 64 * e.2.pbs)))) ∧
        (identOk x (s.dev.reg (rk 0x00E00000 32)) i = false → exec (.linkTrainingComplete n (some i)) s = .next (s.went ((s.dev.setLink n x).linkState n 5)))) ∧
      (l.retried = false → exec (.linkTrainingComplete n none) s = .next (s.went ((s.dev.setLink n { l with retried := true }).bump (rk (0x00C00030 + 0x4000 * n) 16) 16 1))) ∧
      (l.retried = true → exec (.linkTrainingComplete n none) s = .next (s.went (s.dev.linkState n 4)))) ∧
    (l.mkind ≠ 0 → l.state = 0 ∨ l.state = 4 ∨ l.state = 5 →
      exec (.retrain n) s = .next (s.went (((s.dev.setLink n { l with retried := false }).bump (rk (0x00C00030 + 0x4000 * n) 16) 16 1).linkState n 1)))) ∧
  (∀ (s : State) (n : Nat) (l : Link), mget s.dev.links n = some l → l.state = 2 →
    let k := rk (0x00C00030 + 0x4000 * n)
    let pk := l.subqs.flatMap (·.pkts)
    let d := (((s.dev.bump (k 0) 16 1).bump (k 16) 16 1).bump (k 32) 16 l.replay.length).bump (rk (0x00F01018 + 0x20 * n) 0) 64 pk.length
    let x : Link := { Link.reset l.mkind l.mend l.mlink with
      state := 2, pkind := l.pkind, pend := l.pend, plink := l.plink, retried := true, buckets := l.buckets, rxpkts := l.rxpkts }
    exec (.linkLoss n) s = .next (s.went (((pk.foldl (fun d p => (d.txGone p).departed p.tag) (d.setLink n x)).lossQps
      ((l.sent.map Prod.fst ++ pk.map (fun p => wf p.hdr 84 20)).eraseDups)).linkState n 1)))

/-- PACKET_INGRESS (R261, R267, R269, Table 10.6): the oldest packet that a link assembled leaves its slot: one that passes check 1 and whose QP context
is cached runs its checks; one that passes all of them takes its credits and joins its message, and CREDIT and CONTROL, which take no credit, wait on
their QP. A packet whose context is not cached is parked, when parking has room, and starts the fetch of the context once; without room it stays
where it is, and so does one whose partition's reset runs (R369). One that fails check 1 is counted. A command that carries another packet than the oldest changes nothing (log entry 14, DESIGN CHOICE). -/
def Obligations.PacketsPassTheirChecks : Prop :=
  ∀ (s : State) (n : Nat) (l : Link) (h : W512) (pay : Bytes) (r : List (W512 × Bytes)) (q : Qp), s.dev.isStopped (7 * 4096) = false →
    mget s.dev.links n = some l → l.rxpkts = (h, pay) :: r → mget s.dev.trn.qps (hDqp h) = some q →
    let p : InPkt := ⟨n, h, pay⟩
    let d : Dev := { s.dev with links := mset s.dev.links n { l with rxpkts := r } }
    let free : Prop := s.dev.partHeld q.part = false
    (free → chk1 d p = true → q.cached = true → chk2 q h = true → ∀ pt q', chk3 d q p = some (pt, q') → chk4 p = true → chk7 d h = true →
      let q1 := { q' with used := s.dev.trn.clock + 1 }
      let d1 := ({ d with trn := { d.trn with clock := d.trn.clock + 1 } }).setQp (hDqp h) q1
      (hCtl h = true → exec (.packetIngress n h pay) s = .next (s.went ((d1.bump (rk 0x00E00008 48) 16 (b2n (decide (s.dev.trn.epoch < hFence h)))).takePkt p pt false))) ∧
      (∀ k, hCtl h = false → readFits q1 h pt = true → chk5 d1 q1 h = true → mget s.dev.trn.keys (hAkidx h) = some k →
        k.cached = true → chk8 d q1 h = true →
        let sub := d1.opens q1 h && takesSub q1 h
        let q2 := { q1 with pktTaken := q1.pktTaken + 1, subTaken := q1.subTaken + b2n sub }
        chk6 q2 h pt (some k) = true →
        exec (.packetIngress n h pay) s = .next (s.went (((d1.setQp (hDqp h) q2).bump (rk 0x00E00008 48) 16 (b2n (decide (s.dev.trn.epoch < hFence h)))).takePkt p pt sub)))) ∧
    (free → chk1 s.dev p = true → q.cached = false → s.dev.parkRoom q h = true →
      let q1 := if hCtl h then q else { q with reserved := q.reserved - 1 }
      let d1 := d.setQp (hDqp h) q1
      exec (.packetIngress n h pay) s = .next (s.went (({ d1 with trn := { d1.trn with parked := d1.trn.parked ++ [(hDqp h, p)] } }).fetchQp (hDqp h) q1))) ∧
    (chk1 s.dev p = true → s.dev.partHeld q.part = true ∨ (q.cached = false ∧ s.dev.parkRoom q h = false) → exec (.packetIngress n h pay) s = .next (s.went s.dev)) ∧
    (chk1 s.dev p = false → crc32c (leBytes 60 (h.toNat % 2 ^ 480)) ≠ wf h 480 32 → exec (.packetIngress n h pay) s = .next (s.went (d.dropPkt 1 h))) ∧
    (∀ h' pay', (h, pay) ≠ (h', pay') → exec (.packetIngress n h' pay') s = .next (s.went s.dev))

/-- The context cache and the access key table (R266 to R270, R341, R342). QP_CONTEXT_EVICT of the context the node would evict marks it uncached
under the next eviction count, reserves parking for its credit and writes its image to the host table. QP_CONTEXT_FETCH_DONE of a fetch that is
under way, with room in the cache and in ingress for its credit (R277), counts its 128 bytes on its channel: an image that authenticates and has no reserved bit set caches the context, what waited to be sent on the QP is
sent and its parked packets run in order; any other puts the QP in error with ERRC 12, and its parked packets are counted. ACCESS_KEY_FETCH_DONE
caches the entry, and the packets held for it go on.

SUBMIT_HAND_ON (R272, R275): the first SUBMIT not handed on, complete and with every earlier message complete, becomes the last work of its block's
queue, and its packet credits return; its submit credit returns too unless it is a tenon. A placement message with a coded payload waits for room in
the decode staging of Ozsel (R412). -/
def Obligations.ContextsKeysAndSubmits : Prop :=
  (∀ s : State, s.dev.isStopped (7 * 4096) = false →
    (∀ n q, s.dev.evictPick = some n → mget s.dev.trn.qps n = some q →
      let x := { q with cached := false, fetching := false, ecnt := q.ecnt + 1, reserved := pktOut q }
      exec (.qpContextEvict n) s = .next (s.went ((s.dev.setQp n x).nodeWrite 0 ((s.dev.fn 0).qpt.getD 0 + 128 * n)
        (qptStore s.dev.sec.nrk n (q.ecnt + 1) (qpBits x))).escapement)) ∧
    (∀ n q im, mget s.dev.trn.qps n = some q → q.cached = false → q.fetching = true → s.dev.inFlight (.ctx n) = true → s.dev.cachedQps < 16384 →
      s.dev.ingress + pktOut q ≤ 4032 →
      let mine := (s.dev.trn.parked.filter (fun p => decide (p.1 = n))).map Prod.snd
      let c := (s.dev.chCount (s.dev.xferChan (.ctx n)) 128).dropXfer (.ctx n)
      let d : Dev := { c with trn := { c.trn with parked := s.dev.trn.parked.filter (fun p => decide (p.1 ≠ n)), clock := s.dev.trn.clock + 1 } }
      let q1 := { q with cached := true, fetching := false, reserved := 0, used := s.dev.trn.clock + 1 }
      (∀ ec b, qptLoad s.dev.sec.nrk n im = some (ec, b) → qpBitsOk b = true →
        let q2 := if q.changed then { q1 with changed := false } else qpOfBits b q1
        exec (.qpContextFetchDone n im) s = .next (s.went (mine.foldl Dev.runChecks ((d.setQp n { q2 with ecnt := ec }).flushSends n)).escapement)) ∧
      (qptLoad s.dev.sec.nrk n im = none →
        exec (.qpContextFetchDone n im) s = .next (s.went (((mine.foldl (fun d p => d.dropPkt 12 p.hdr) (d.setQp n { q1 with state := 2, errc := 12 })).fault
          { code := 0x81, engine := 7 * 4096, tenant := q.ten, part := q.part } true []).flushSends n)))) ∧
    (∀ i, (∃ w ∈ s.dev.trn.keyWait, w.1 = i) →
      let d : Dev := { s.dev with trn := { s.dev.trn with keyWait := s.dev.trn.keyWait.filter (fun w => decide (w.1 ≠ i)) } }
      exec (.accessKeyFetchDone i) s = .next (s.went ((s.dev.trn.keyWait.filter (fun w => decide (w.1 = i))).foldl Dev.resumeKey (d.cacheKey i))) ∧
      (∀ k, mget s.dev.trn.keys i = some k → mget (d.cacheKey i).trn.keys i = some { k with cached := true }))) ∧
  (∀ (s : State) (n : Nat) (q : Qp) (m : Msg), s.dev.isStopped (7 * 4096) = false → s.dev.awake = true → mget s.dev.trn.qps n = some q →
    s.dev.partHeld q.part = false → q.msgs.find? (fun m => decide (hOp m.hdr = 6) && !m.done) = some m → m.complete = true → q.prior m.msn = true →
    let w := mkWork n q m
    w.kind ≠ 4 ∨ codedBody (w.desc.toNat % 2 ^ 256) = false ∨ s.dev.linkRoom (stageUnits w.extra.length) = true →
    exec (.submitHandOn n) s = .next (s.went ((((s.dev.pushWork w).spoil m.spoilt w).modMsg n m.msn (fun m => { m with done := true })).settleCredit n m.data.length
      (b2n (decide (hSubk m.hdr ≠ 0))))) ∧
    (hSubk m.hdr = 0 → (s.dev.pushWork w).atn.queue = s.dev.atn.queue ++ [w]) ∧ (hSubk m.hdr = 1 ∨ hSubk m.hdr = 2 → (s.dev.pushWork w).pgm.queue = s.dev.pgm.queue ++ [w]) ∧
    (hSubk m.hdr = 4 → (s.dev.pushWork w).plc.queue = s.dev.plc.queue ++ [w]) ∧ (hSubk m.hdr = 3 → (s.dev.pushWork w).shp.queue = s.dev.shp.queue ++ [w]))

/-- Remote memory access (R259, R272, R310): WRITE and WRITE_IMM place every waiting packet of their message under its tenant and
generation, and return its credits but the last of a WRITE_IMM; READ and ATOMIC, complete and in order on a node that is not fenced,
answer at RBASE + RADDR with the bytes read or the old value, and ATOMIC stores the new value.

WRITE_IMM_COMPLETION (R310): the oldest completion waiting for a CQ is written when an entry is free, and its packet credit returns; one
whose CQ is not created is counted and discarded. -/
def Obligations.MemoryMessages : Prop :=
  (∀ (s : State) (n msn : Nat) (q : Qp) (m : Msg), s.dev.isStopped (7 * 4096) = false → mget s.dev.trn.qps n = some q → q.msg msn = some m →
    m.done = false → s.dev.partHeld q.part = false →
    (∀ op, op = 0 ∨ op = 1 → hOp m.hdr = op → m.pkts ≠ [] →
      let whole := decide (m.got = hMlen m.hdr)
      let d := ((s.dev.modMsg n msn (fun m => { m with pkts := [], done := whole && decide (op = 0) })).rxMsg (whole && !m.complete)).settleCredit n
        (m.pkts.length - (if whole && decide (op = 1) then 1 else 0)) 0
      exec (if op = 0 then .write n msn else .writeImm n msn) s = .next (s.wentQ (placePkts s.qb m.pkts) ((m.pkts.map (fun p => (hAddr p.hdr, hPlen p.hdr))).foldl (fun d x => d.overwrite x.1 x.2 (some (n, msn))) d))) ∧
    (m.complete = true → q.prior msn = true → s.dev.trn.fenced = false →
      let done (d : Dev) : Dev := (d.modMsg n msn (fun m => { m with done := true })).settleCredit n m.data.length 0
      let at_ := m.addr
      (hOp m.hdr = 2 → exec (.read n msn) s = .next (s.went (done (s.dev.sendMsg n ⟨3, 0, q.txclass, q.ten, s.dev.gen q.ten,
        q.rbase + leAt m.payload 0 8, 0, s.qb.read at_ (leAt m.payload 8 4), .none⟩)))) ∧
      (hOp m.hdr = 4 →
        let old := leNat (s.qb.read at_ 8)
        let new_ := if hSubk m.hdr = 0 then (old + leAt m.payload 0 8) % 2 ^ 64 else if old = leAt m.payload 8 8 then leAt m.payload 0 8 else old
        let qb := s.qb.place at_ (hTen m.hdr) (hKeygen m.hdr) (leBytes 8 new_)
        let d := done (s.dev.sendMsg n ⟨5, 0, q.txclass, q.ten, s.dev.gen q.ten, q.rbase + leAt m.payload 16 8, 0, leBytes 8 old, .none⟩)
        exec (.atomic n msn) s = .next (s.wentQ qb (d.overwrite at_ 8 (some (n, msn))))))) ∧
  (∀ (s : State) (cq : Nat) (w : ImmWait), s.dev.isStopped (7 * 4096) = false → s.dev.trn.immWait.find? (fun w => decide (w.cq = cq)) = some w →
    let d : Dev := { s.dev with trn := { s.dev.trn with immWait := dropFirst (fun x => decide (x.cq = cq)) s.dev.trn.immWait } }
    (∀ f l c, s.dev.cqHome cq = some (f, l) → mget (s.dev.fn f).cqs l = some c → c.free ≠ 0 →
      exec (.writeImmCompletion cq) s = .next (s.went ((d.cqWrite f l (cqEntry w.imm 0 1 0 0 (pack [(0, 20, w.qpn), (32, 32, w.mlen)])
        (w.src % 2 ^ 16)) false).settleCredit w.qpn 1 0))) ∧
    (s.dev.cqHome cq = none → exec (.writeImmCompletion cq) s = .next (s.went ((d.bump (rk 0x01000010 32) 16 1).settleCredit w.qpn 1 0))))

/-- CREDIT and RESYNC (R273, R276): the oldest CREDIT that waits on a QP is taken and raises its limits, a value that would lower one being
ignored; the oldest CONTROL moves EXP to the MSN it names, drops the messages below it and the packets of such messages that stand before their
record, counts those lost and returns their credits.

PARTIAL (R263, R279, R423), on a node that is not fenced: a complete message from a contributor at a ridge intake QP joins the merge of its tag,
or opens it; its submit credit stays with the entry it opened and returns otherwise; one from another node is counted and dropped. One on a peer QP,
in order, answers the forwarded request that it names. -/
def Obligations.CreditsAndPartials : Prop :=
  (∀ (s : State) (n : Nat) (q : Qp) (p : InPkt), s.dev.isStopped (7 * 4096) = false → mget s.dev.trn.qps n = some q →
    (∀ q', takeCtl q 8 = some (p, q') → ∃ x : Qp, exec (.credit n) s = .next (s.went (s.dev.setQp n x)) ∧ x.ctl = q'.ctl ∧ x.msgs = q.msgs ∧ x.exp = q.exp ∧
      x.txcl = (if (leAt p.payload 0 4 + 2 ^ 32 - q.txcl) % 2 ^ 32 < 2 ^ 31 then leAt p.payload 0 4 % 2 ^ 32 else q.txcl) ∧
      x.txsl = (if (leAt p.payload 4 4 + 2 ^ 32 - q.txsl) % 2 ^ 32 < 2 ^ 31 then leAt p.payload 4 4 % 2 ^ 32 else q.txsl)) ∧
    (∀ q', takeCtl q 9 = some (p, q') →
      let to_ := leAt p.payload 0 3
      let fwd := (to_ + 2 ^ 24 - q.exp) % 2 ^ 24
      let low (m : Nat) : Bool := decide (fwd < 2 ^ 23 ∧ q.dist m < fwd)
      let gone := q.msgs.filter (fun x => low x.msn)
      let lost := gone.filter Msg.lost
      let held := s.dev.heldBack n low
      let alone := ((held.map Prod.snd).filter (fun k => !gone.any (fun x => decide (x.msn = k)))).eraseDups
      let keep (h : W512) : Bool := !(decide (hDqp h = n) && low (hMsn h))
      let d := s.dev.setQp n { q' with exp := to_, msgs := q.msgs.filter (fun x => !low x.msn) }
      let d1 : Dev := { d with trn := { d.trn with keyWait := s.dev.trn.keyWait.filter (fun w => keep w.2.2.hdr), openWait := s.dev.trn.openWait.filter (fun w => keep w.2.hdr) } }
      let subs := ((lost.filter (fun x => !x.done && takesSub q x.hdr)).map Msg.msn ++ (held.filter Prod.fst).map Prod.snd).eraseDups
      exec (.resync n) s = .next (s.went ((d1.bump (rk 0x00E00038 0) 64 (lost.length + alone.length)).settleCredit n
        (sumN (lost.map Msg.heldPkts) + held.length) subs.length)))) ∧
  (∀ (s : State) (n msn : Nat) (q : Qp) (m : Msg), s.dev.isStopped (7 * 4096) = false → mget s.dev.trn.qps n = some q → q.msg msn = some m →
    m.done = false → s.dev.partHeld q.part = false → hOp m.hdr = 7 → m.complete = true → s.dev.trn.fenced = false →
    let d := s.dev.modMsg n msn (fun m => { m with done := true })
    (q.type = 2 → s.dev.contributes q.ridge (hSrc m.hdr) = true →
      (s.dev.mergeOf n (hImm m.hdr) = none →
        let e : Merge := ⟨n, q.ridge, hImm m.hdr, m.addr, some n, [(hSrc m.hdr, m.payload)]⟩
        exec (.partialMsg n msn) s = .next (s.went ((({ d with trn := { d.trn with merges := d.trn.merges ++ [e] } }).ridgeTry e).settleCredit n m.data.length 0))) ∧
      (∀ e, s.dev.mergeOf n (hImm m.hdr) = some e →
        let x := if e.got.any (fun g => decide (g.1 = hSrc m.hdr)) then e else { e with got := e.got ++ [(hSrc m.hdr, m.payload)] }
        exec (.partialMsg n msn) s = .next (s.went ((({ d with trn := { d.trn with
          merges := updFirst (fun y => decide (y.intake = n ∧ y.tag = hImm m.hdr)) (fun _ => x) d.trn.merges } }).ridgeTry x).settleCredit n m.data.length 1)))) ∧
    (q.type = 2 → s.dev.contributes q.ridge (hSrc m.hdr) = false →
      exec (.partialMsg n msn) s = .next (s.went ((d.dropPkt 6 m.hdr).settleCredit n m.data.length 1))) ∧
    (q.type ≠ 2 → q.prior msn = true → ∀ w, s.dev.shp.fwds.find? (fun w => decide (w.qpn = n ∧ wf w.desc 160 32 = hImm m.hdr)) = some w →
      exec (.partialMsg n msn) s = .next (s.went ((d.fwdDeliver w m.addr m.payload).settleCredit n m.data.length 0))))

/-- EGRESS_ENQUEUE (R285): the oldest waiting packet, when its QP is ready, its next path is the link, its credits allow it and the
store has room, gets its sequence and check codes and enters its subqueue, last in it.

SCHEDULER_PICK (R288, R294): on an UP link whose replay buffer has room, red packets are counted once, and the picked packet pays
its buckets, leaves its subqueue and is handed to the link layer, and what its debit turns red is counted at once. POLICER_REFILL (R293) of an UP link adds CINC and PINC to every bucket,
which hold at most 64 x CBS and 64 x PBS. -/
def Obligations.SchedulerAndPolicer : Prop :=
  (∀ (s : State) (n : Nat) (l : Link) (p : OutPkt) (r : List OutPkt) (q : Qp) (path : Nat), s.dev.isStopped (6 * 4096 + n) = false →
    mget s.dev.links n = some l → s.dev.waitq = p :: r → mget s.dev.trn.qps (wf p.hdr 84 20) = some q → q.state = 1 →
    pathOf { s.dev with waitq := r } q = some (path, n) → hasCredit q p = true → l.fits (subKey p) (pktWire p) = true →
    wf p.hdr 12 1 = 0 ∨ q.txseq + 1 < 2 ^ 64 →
    let d : Dev := { s.dev with waitq := r }
    let f := finishPkt d q path p
    exec (.egressEnqueue n) s = .next (s.went ((d.setQp (wf p.hdr 84 20) (useCredit f.2 p)).setLink n (d.joinAll (l.put f.1))))) ∧
  ((∀ (s : State) (n : Nat) (l : Link), s.dev.isStopped (6 * 4096 + n) = false → mget s.dev.links n = some l → l.state = 2 → l.replay.length < 512 →
    let m := s.dev.markRed (s.dev.joinAll l)
    let d := (s.dev.bump (rk (0x00F01010 + 0x20 * n) 32) 32 m.1).setLink n m.2
    ∀ c t l' x p r, d.pick m.2 = some (c, t, l') → l'.sub (c, t) = some x → x.pkts = p :: r →
      (mget d.trn.qps (wf p.hdr 84 20)).all (fun q => decide (q.state = 1)) = true →
      let y := d.headColor l' x
      exec (.schedulerPick n) s = .next (s.went (handOver n c p
        ((d.bump (rk (0x00F01010 + 0x20 * n) 0) 32 (b2n (decide (y = 1)))).deferReds n ((debit l' d.tsh c t (pktSize p) y).pop (c, t))).1))) ∧
  (∀ (s : State) (n : Nat) (l : Link), mget s.dev.links n = some l → l.state = 2 →
    exec (.policerRefill n) s = .next (s.went (s.dev.setLink n (s.dev.joinAll (refill s.dev.tsh l)))) ∧
    (∀ i p, (i, p) ∈ s.dev.tsh → ∃ tc tp, (i, (tc, tp)) ∈ (refill s.dev.tsh l).buckets ∧ tc ≤ 64 * p.cbs ∧ tp ≤ 64 * p.pbs ∧
      tc = min (64 * p.cbs) ((mgetD l.buckets i (64 * p.cbs, 64 * p.pbs)).1 + p.cinc))))

/-! ### Attention (R20, R26, R91 to R109, R395, R424) -/

/-- TENON (R32, R38, R130, Table 1.3): the tenon at the head of the dispatcher's queue, whose return QP's context is cached and usable and which meets no
condition, takes the lowest free entry of the tenon table and walks: with its sequence's arbor and a pin at hand, it pins the current version and
goes on to the worked pages. One that meets a condition is turned away with the first in the order of R14. -/
def Obligations.TenonsAreAdmitted : Prop :=
  ∀ (s : State) (w : Work) (r : List Work) (i : Nat), s.dev.isStopped (9 * 4096) = false → s.dev.atn.queue = w :: r → s.dev.freeTidx = some i →
    let t := parseTn w.desc
    let d : Dev := { s.dev with atn := { s.dev.atn with queue := r, spoilt := s.dev.atn.spoilt.filter r.contains } }
    let c := d.tenonConds s.qb t w
    s.dev.rqpAway w.src t.rqp = false → d.rqpOk w.src false t.rqp t.ten t.part = true →
    (c.1 = [] →
      let e := { newTenon w t true ((c.2.projOf t.ten t.layer).map Proj.reader) with unspecified := s.dev.atn.spoilt.contains w }
      let d1 : Dev := { c.2 with atn := { c.2.atn with table := mset c.2.atn.table i e } }
      exec .tenon s = .next (s.went (d1.walk s.qb i true)) ∧
      (∀ d2 v d3 q, (d1.openSeq t.seq t.ten t.part).isSome = true → d1.takeArbor (hSlot t.seq) false [hSlot t.seq] = some d2 →
        d2.takePin (hSlot t.seq) = some (v, d3) → mget d3.pgm.seqs (hSlot t.seq) = some q →
        exec .tenon s = .next (s.went ((d3.modTenon i (fun _ => { e with pin := some v })).walkPinned s.qb i { e with pin := some v } q v)))) ∧
    (∀ st info, firstCond false c.1 = some (st, info) → exec .tenon s = .next (s.went (c.2.turnAway i w t st info)))

/-- LEAF_BLOCK_READ_DONE (R20): a block read without a fault, whose tiles pass their checks, enters the cache, and of the walks that waited for it, those that wait for
more go on waiting for the rest and the others build their orders. -/
def Obligations.BlocksResumeWalks : Prop :=
  ∀ (s : State) (a : Nat), s.dev.isStopped (9 * 4096) = false →
    let waits := s.dev.atn.table.filter (fun e => match e.2.phase with
      | .leafWait l => l.contains a
      | _ => false)
    waits ≠ [] → s.dev.blkFault [] a = none →
    let rest (e : Tenon) : List Nat := match e.phase with
      | .leafWait l => l.filter (· ≠ a)
      | _ => []
    let go (d : Dev) (e : Nat × Tenon) : Dev :=
      if rest e.2 = [] then (match mget d.pgm.seqs e.2.slot with
        | none => d
        | some q => (d.modTenon e.1 (fun e => { e with phase := .working })).buildOrders s.qb e.1 e.2 q)
      else d.modTenon e.1 (fun x => { x with phase := .leafWait (rest e.2) })
    exec (.leafBlockReadDone a none) s = .next (s.went (waits.foldl go (s.dev.leafPut a)))

/-- Work orders (R26, R87, R93 to R98, R100, R107, R424). FRAME_ORDER admits the contexts that its stack has room for and takes the next order that can be
delivered, whose image keeps R94: an attention order that no bar meets, whose tiles, MACs and rows hold, opens with its strokes queued and leaves its
partials; an append order opens with its strokes queued. CLUSTER_WORK_ORDER gives the oldest cluster order to the next cluster in service with room,
whose scratch takes the tenon's query and whose claims the page makes, and folds the page's rows into its partial. An order that a bar meets ends
its tenon. -/
def Obligations.WorkOrdersAreWorked : Prop :=
  (∀ (s : State) (n : Nat) (fs : List ColFault) (o : FOrder) (e : Tenon) (q : Seq) (p : WPage), s.dev.isStopped (3 * 4096 + n) = false →
    let d := s.dev.admitCtxs n
    d.nextOrder n (d.stack n) [] (d.stack n).orders = some o → o.opc = 0 → orderOk o.bits = true →
    mget d.atn.table o.tidx = some e → mget d.pgm.seqs e.slot = some q → e.pages.find? (fun p => decide (p.page = e.tn.pfirst + o.pidx)) = some p →
    let id := q.runId e.tn.layer e.tn.pageGrp p.page
    let d1 := d.setStack n { d.stack n with orders := dropFirst (fun x => decide (x = o)) (d.stack n).orders }
    (∀ c, d.orderBar e id o.pidx = some c → exec (.frameOrder n fs) s = .next (s.went (d1.orderEnds o.tidx id p.ent c))) ∧
    (d.orderBar e id o.pidx = none → exec (.frameOrder n fs) s = .next (s.went (d1.deliver fs n o.tidx e q o p)) ∧
      let loc : Loc := .t1 n o.die o.foff
      let d2 := (d1.touchFor o.tidx e id).eccAll (frameFaults fs q.geo loc)
      let es := engineRows q.geo.heads (orderRows e.tn o.lo o.hi)
      (∀ x ∈ es, ∃ l, d2.unitPage fs q id { p.ent with loc := loc } e (engUnit n o.die x.1) x.2 = .ok l) →
      (∀ h, h < e.tn.tH → d2.macOk fs q.geo loc e.tn.ten p.ent.ver o.lo o.hi (e.tn.kvf + h) = true) →
      ∃ ps, d1.deliver fs n o.tidx e q o p = ((d2.modTenon o.tidx (fun e => { e with left := nset e.left n (mgetD e.left n 0 - 1) })).openOrd n
        ⟨d2.bnk.nextOrd, false, o.tidx, e.tn.ten, e.keygen, o.die, false, false⟩ loc q.geo o.foff es).modTenon o.tidx (fun e => { e with parts := ps }))) ∧
  (∀ (s : State) (n : Nat) (fs : List ColFault) (o : FOrder) (q : Seq) (keys : List (Nat × Nat)), s.dev.isStopped (3 * 4096 + n) = false →
    let d := s.dev.admitCtxs n
    d.nextOrder n (d.stack n) [] (d.stack n).orders = some o → o.opc = 1 → orderOk o.bits = true → mget d.pgm.seqs o.slot = some q →
    let d1 := d.setStack n { d.stack n with orders := dropFirst (fun x => decide (x = o)) (d.stack n).orders }
    d1.keyEntry (d1.stack n) (q.ten, d.gen q.ten) = some keys →
    exec (.frameOrder n fs) s = .next (s.went ((d1.setStack n { d1.stack n with keys := keys }).openOrd n ⟨d.bnk.nextOrd, true, o.slot, q.ten, d.gen q.ten, o.die, false, false⟩
      (.t1 n o.die o.foff) q.geo o.foff (engineRows q.geo.heads ((List.range (o.hi - o.lo)).flatMap (fun i => (List.range q.geo.heads).map (fun h => (o.lo + i, h)))))))) ∧
  (∀ (s : State) (fs : List ColFault) (o : ClOrder) (r : List ClOrder) (e : Tenon) (q : Seq) (p : WPage),
    s.dev.isStopped (9 * 4096) = false → s.dev.atn.clQ = o :: r → mget s.dev.atn.table o.tidx = some e →
    mget s.dev.pgm.seqs e.slot = some q → e.pages.find? (fun p => decide (p.page = o.page)) = some p →
    let id := q.runId e.tn.layer e.tn.pageGrp p.page
    let rows := orderRows e.tn p.lo p.hi
    (∀ c, s.dev.orderBar e id (p.page - e.tn.pfirst) = some c →
      exec (.clusterWorkOrder fs) s = .next (s.went (({ s.dev with atn := { s.dev.atn with clQ := r } }).orderEnds o.tidx id p.ent c))) ∧
    (∀ n, s.dev.orderBar e id (p.page - e.tn.pfirst) = none → nextCluster s.dev s.phys o.tidx (fKib q.geo.fcls) e.query = some n →
      let d : Dev := { s.dev with atn := { s.dev.atn with clQ := r, lastCl := n } }
      let d1 := ((d.touchFor o.tidx e id).eccAll (frameFaults fs q.geo p.ent.loc)).bump (rk (0x01200400 + 8 * n) 0) 64 1
      let d2 := ((d1.claimPage q.geo p.ent.loc p.lo p.hi false (some o.tidx)).scratchPut n o.tidx e.query).modTenon o.tidx (fun e => { e with clLeft := e.clLeft - 1 })
      exec (.clusterWorkOrder fs) s = .next (s.went (d.clusterWork fs n o.tidx e q id p)) ∧
      ∀ ps, d2.unitPage fs q id p.ent e (8192 + n) rows = .ok ps →
      (∀ h, h < e.tn.tH → d2.macOk fs q.geo p.ent.loc e.tn.ten p.ent.ver p.lo p.hi (e.tn.kvf + h) = true) →
        d.clusterWork fs n o.tidx e q id p = d2.modTenon o.tidx (fun e => { e with parts := ps })))

/-- Merges and reports (R18, R47, R77, R101): STACK_MERGE of a stack whose work has ended merges its engines' partials of each row and lets its contexts go;
TENON_MERGE of an ended tenon sends its status records, and of one with every result in, whose T0 leaf blocks and projections read without a fault, its data records (a leaf block that fails ends it with ST_INTEGRITY); FAULT_REPORT ends the tenon of the
oldest report whose unit's work has ended, with the tenon's ready report that is earliest in the merge order. -/
def Obligations.MergesAndReports : Prop :=
  ∀ (s : State) (i : Nat) (e : Tenon), mget s.dev.atn.table i = some e →
    (∀ n l, s.dev.isStopped (3 * 4096 + n) = false → e.phase = .working → s.dev.stackBusy n i e = false → e.parts.any (fun p => decide (p.1.1 / 512 = n)) = true →
      mergeRows (rowParts e.parts (512 * n) (512 * n + 512)) (List.range e.tn.rows) = .ok l →
      exec (.stackMerge n i) s = .next (s.went ((s.dev.setStack n { s.dev.stack n with
        ctxs := (s.dev.stack n).ctxs.filter (· ≠ i), copies := (s.dev.stack n).copies.filter (fun c => decide (c.tidx ≠ i)) }).modTenon i (fun e =>
        { e with parts := e.parts.filter (fun p => decide (p.1.1 / 512 ≠ n)), stackDone := e.stackDone ++ l.map (fun x => (n, x.1, x.2)) })))) ∧
    (∀ n insn cause, s.dev.isStopped (3 * 4096 + n) = false → e.phase = .working → s.dev.stackBusy n i e = false →
      e.parts.any (fun p => decide (p.1.1 / 512 = n)) = true → mergeRows (rowParts e.parts (512 * n) (512 * n + 512)) (List.range e.tn.rows) = .error (insn, cause) →
      exec (.stackMerge n i) s = .next (s.went (s.dev.report ⟨i, .programFault, 0, 4096 + n, cause, insn, 0, false, default⟩))) ∧
    (s.dev.isStopped (9 * 4096) = false →
      (∀ fs st info, e.phase = .ended → e.result = some (st, info) →
        exec (.tenonMerge ⟨i, fs⟩) s = .next (s.went (s.dev.sendRecords i (statusRecs e.tn st info) st info))) ∧
      (∀ fs d l, e.phase = .working → e.left = [] → e.clLeft = 0 → s.dev.staging i = false → e.parts.any (fun p => decide (p.1.1 < 4096)) = false →
        s.dev.atn.reports.any (fun r => decide (r.tidx = i)) = false → s.dev.keyOk e.tn.ten e.keygen = true →
        s.dev.walkLeaf fs e = none → s.dev.readProj fs e = (none, d) → mergeRows (fun r => rowStacks e.stackDone r ++ rowParts e.parts 8192 8216 r) (List.range e.tn.rows) = .ok l →
        let ps := (List.range e.tn.rows).map (fun r => (r, match l.find? (fun x => decide (x.1 = r)) with
          | none => emptyPart (oLenOf e.tn.shape)
          | some x => d.rowOut e r x.2))
        ps.all (fun x => outFinite e.tn.ofmt x.2) = true →
        exec (.tenonMerge ⟨i, fs⟩) s = .next (s.went ((d.dataRecs e ps).2.sendRecords i (d.dataRecs e ps).1 .ok 0))) ∧
      (∀ fs off c tile, e.phase = .working → e.left = [] → e.clLeft = 0 → s.dev.staging i = false → e.parts.any (fun p => decide (p.1.1 < 4096)) = false →
        s.dev.atn.reports.any (fun r => decide (r.tidx = i)) = false → s.dev.keyOk e.tn.ten e.keygen = true → s.dev.walkLeaf fs e = some (off, c, tile) →
        exec (.tenonMerge ⟨i, fs⟩) s = .next (s.went (s.dev.leafFails i e off c tile))) ∧
      (∀ r, s.dev.nextReport = some r → r.tidx = i → e.phase ≠ .ended → e.phase ≠ .departing →
        let d : Dev := { s.dev with atn := { s.dev.atn with reports := s.dev.atn.reports.filter (· ≠ r) } }
        exec .faultReport s = .next (s.went (if r.st = .programFault then d.programFault i r.unit r.cause r.insn else d.dataReport r e))))

/-- The bank arbiter (R91, R105, R106): at a boundary the slot that held the bank has ended and arrivals have queued; a refresh that is due
goes when nothing else claims the bank or two slots have passed since the last one; else the oldest stroke goes when it may be issued and is the only
claimant or has the turn; else the oldest ordinary claim, which gives the turn to a waiting stroke; else the bank stays free. REFRESH_DUE adds one due
refresh, and ACTIVITY_WINDOW starts the stack's stroke counts again. A stroke that may not be issued claims nothing (log entry 127, the model's
choice), and a first refresh is due two slots after reset (log entry 121, the model's choice). With the grant the page-runs of a fill that wait are read and sent (`Dev.fillSend`, log entry 35,
the model's choice). -/
def Obligations.BankArbitration : Prop :=
  (∀ (s : State) (n die bg bank : Nat) (arr : List Claim) (fs : List ColFault),
    let key := bankKey n die bg bank
    let b0 := s.dev.bank key
    let d0 := (s.dev.eccAll fs).setBank key { b0 with ords := b0.ords ++ arr.map (⟨·, false, none⟩) }
    let d := d0.slotEnds key (engUnit n die bg) (d0.bank key)
    let b := d.bank key
    let eng := d.nextStroke s.phys n die bg b
    let ref : Prop := 0 < b.due ∧ ((eng = none ∧ b.ords = []) ∨ 2 ≤ b.since)
    (ref → exec (.slotBoundary n die bg bank arr fs) s = .next (s.went ((d.setBank key { b with held := some .refresh, due := b.due - 1, since := 0, acts := 0 }).fillSend fs))) ∧
    (¬ ref → ∀ x, eng = some x → b.ords = [] ∨ b.turn = true → b.strokes.head? = some x ∧
      exec (.slotBoundary n die bg bank arr fs) s = .next (s.went ((d.grantStroke n die key b x).fillSend fs)) ∧
      ((d.grantStroke n die key b x).bank key).held = some (.stroke x) ∧ ((d.grantStroke n die key b x).bank key).turn = false ∧
      ((d.grantStroke n die key b x).bank key).strokes.length + 1 = b.strokes.length ∧ ((d.grantStroke n die key b x).bank key).since = b.since + 1) ∧
    (¬ ref → ∀ c r, b.ords = c :: r → eng = none ∨ b.turn = false →
      exec (.slotBoundary n die bg bank arr fs) s = .next (s.went ((d.grantOrdinary n key b eng.isSome).fillSend fs)) ∧
      ((d.grantOrdinary n key b eng.isSome).bank key).held = some (.ordinary c) ∧
      ((d.grantOrdinary n key b eng.isSome).bank key).turn = (b.turn || eng.isSome) ∧
      ((d.grantOrdinary n key b eng.isSome).bank key).ords = r ∧ ((d.grantOrdinary n key b eng.isSome).bank key).since = b.since + 1) ∧
    (¬ ref → eng = none → b.ords = [] → exec (.slotBoundary n die bg bank arr fs) s = .next (s.went (d.fillSend fs)))) ∧
  (∀ (s : State) (n die bg bank : Nat), s.dev.asleep = false →
    exec (.refreshDue n die bg bank) s = .next (s.went (s.dev.setBank (bankKey n die bg bank)
      { s.dev.bank (bankKey n die bg bank) with due := (s.dev.bank (bankKey n die bg bank)).due + 1 }))) ∧
  (∀ (s : State) (n : Nat), exec (.activityWindow n) s = .next (s.went (s.dev.setStack n { s.dev.stack n with win := [] })))

/-- Levels (R105, R395): REGULATOR_LEVEL_CHANGE of a core die sets its temperature and moves its level by at most one: up when the temperature is
above the next level's threshold, down at or below the level's leaving threshold; a die that reaches level 4 is journalled, and the command is held
while a full journal queue leaves the entry's port taken (R377).
CLUSTER_LEVEL_CHANGE does the same for a cluster, and the main die shows the hottest. -/
def Obligations.LevelsMoveByOne : Prop :=
  (∀ (s : State) (n die : Nat) (t : Int), n < 8 → die < 16 →
    let o := (mget s.phys.dies (16 * n + die)).map DieTherm.level
    let x := dieMeasure (mget s.phys.dies (16 * n + die)) t
    let d := if x.level = 4 ∧ o.getD 0 ≠ 4 then s.dev.journal (hotDie n die) [] else s.dev
    (s.dev.portHeld d = false → exec (.regulatorLevelChange n die t) s = .next { s with phys := { s.phys with dies := mset s.phys.dies (16 * n + die) x }, dev := d }) ∧
      (s.dev.rcv.jq.length < 64 → s.dev.portHeld d = false) ∧ x.temp = t ∧ x.level ≤ o.getD 0 + 1 ∧ o.getD 0 ≤ x.level + 1 ∧
      (∀ e, dieEnter[o.getD 0]? = some e → (e < t ↔ x.level = o.getD 0 + 1)) ∧
      (∀ e, o.getD 0 ≠ 0 → dieLeave[o.getD 0 - 1]? = some e → t ≤ e → x.level = o.getD 0 - 1)) ∧
  (∀ (s : State) (n : Nat) (t : Int), n < 24 →
    let o := (mget s.phys.cls n).map ClTherm.level
    let x := clMeasure (mget s.phys.cls n) t
    let cls := mset s.phys.cls n x
    let hot := cls.foldl (fun m c => max m c.2.temp) t
    exec (.clusterLevelChange n t) s = .next { s with phys := { s.phys with cls := cls, mainT := hot, mainPk := peakOf s.phys.mainPk hot } } ∧ x.temp = t ∧
      x.level ≤ o.getD 0 + 1 ∧ o.getD 0 ≤ x.level + 1 ∧ (∀ e, clEnter[o.getD 0]? = some e → (e < t ↔ x.level = o.getD 0 + 1)))

/-! ### Edits and sequences (R124 to R142, R183, R186, Table 5.7) -/

/-- Edits (R128, R130, R135, R141, R186, R201, Table 5.7): APPEND, TRIM, KEEP, FORK and CLOSE take the front of their slot's order when its return QP is cached
and usable. A request that meets a condition is refused with the first of them, and changes nothing. One that meets none, whose arbors and pins are at
hand, whose pages meet no condition and lie in no image in T3, whose arbors, shares and blocks read without a fault and which prepares, publishes and completes when
the tenant has no mirror, no append order of it runs and its lanes have a free slot; with a mirror it is forwarded. -/
def Obligations.EditsRunOrAreRefused : Prop :=
  ∀ (s : State) (slot op : Nat) (fs : List ColFault) (w : Work) (d : Dev), s.dev.isStopped (10 * 4096) = false → s.dev.running slot = none → s.dev.ctxHeld 2 slot = false →
    op < 5 → s.dev.takeEdit slot op = some (w, d) → w.kind = (if op = 4 then 2 else 1) →
    s.dev.rqpAway w.src w.rqp = false → d.rqpOk w.src false w.rqp w.ten (wf w.desc 12 4) = true →
    let c : Instr := if op = 0 then .append slot fs else if op = 1 then .trim slot else if op = 2 then .keep slot fs
      else if op = 3 then .fork slot fs else .closeSeq slot
    let fs' := if op = 1 ∨ op = 4 then [] else fs
    let conds := if w.kind = 1 then d.editConds s.qb w else (d.closeConds w, d)
    (∀ st info, firstCond false conds.1 = some (st, info) → exec c s = .next (s.went (conds.2.editRefuse w st info))) ∧
    (firstCond false conds.1 = none → exec c s = .next (s.went (conds.2.runEdit slot w false fs' s.qb))) ∧
    (∀ v sv d1 q, firstCond false conds.1 = none → conds.2.running slot = none → conds.2.editPins slot w = some (v, sv, d1) → mget d1.pgm.seqs slot = some q →
      let src := if w.kind = 1 then d1.forkSrc w.desc else none
      let needs := if w.kind = 1 then d1.editNeeds q src w.desc else []
      let who := src.getD q
      let held := editShares q (d1.editWalks q w) ++ editShares who (needs.map (fun n => (n.1, n.2.1)))
      let dh : Dev := { d1 with pgm := { d1.pgm with shares := held.foldl (fun m k => mmod m k (fun x => { x with holds := x.holds + 1 })) d1.pgm.shares } }
      conds.2.arborFault fs' (slot :: w.srcSlot.toList) = none → dh.shareFault fs' held = none →
      let pc := if w.kind = 1 then dh.pageConds who q src w.desc [] else ([], dh)
      let blocks := editBlocks pc.2 q (pc.2.editWalks q w) ++ (match src with
        | none => []
        | some x => editBlocks pc.2 x (needs.map (fun n => (n.1, n.2.1))))
      ∀ d2 p endp d3, firstCond false pc.1 = none → (∀ n ∈ needs, ∀ u, (pc.2.resolve n.2.2.1).loc ≠ .t3 u) →
        Dev.leafTouch fs' blocks.eraseDups (pc.2.eccAll fs') = (none, d2) → Dev.prepare slot q w fs' s.qb d2 = .ok (p, endp, d3) →
        let e : Edit := ⟨w, w.op, none, .slot, some v, some p, endp, sv, held⟩
        (∀ m, (d3.tenant q.ten).mirror = some m → d3.transitSpent = false → exec c s = .next (s.went ((d3.setEdits slot [{ e with phase := .mirror }]).forward s.qb m q w endp))) ∧
        ((d3.tenant q.ten).mirror = none → d3.appending slot = false → (∀ x, mget d3.pgm.seqs slot = some x → slotsFree x p.lanes = true) →
          (∀ k x, p.src = some k → mget d3.pgm.seqs k = some x → slotsFree x p.srcLanes = true) →
          exec c s = .next (s.went (d3.publish slot e p))))

/-- OPEN (R183): an OPEN at the front of the queue whose return QP's context is cached (those that are not are fetched), with a shape and format of Table 5.9, room and quota opens the lowest free own slot with its
lane directory, its reservation and the slot's generation, and answers ST_OK with the handle.

EDIT_PUBLISH (R128, R129): an edit that waits for a lane slot publishes once its lanes have a free slot, but for a lend or a return of the node's own under a fence (R194, R263). -/
def Obligations.OpensAndPublishes : Prop :=
  (∀ (s : State) (w : Work) (r : List Work) (g : Geom) (slot : Nat), s.dev.isStopped (10 * 4096) = false → s.dev.pgm.queue = w :: r → w.op = 5 →
    let d0 := s.dev.pgm.queue.foldl (fun d w => if w.op = 5 && d.rqpAway w.src w.rqp then d.rqpFetch w.rqp else d) s.dev
    d0.rqpAway w.src w.rqp = false →
    let x := w.desc
    let part := wf x 12 4
    let d : Dev := { d0 with pgm := { d0.pgm with queue := r } }
    let kib := scRpages x * g.lanes * (fKib g.fcls + 1)
    d.rqpOk w.src false w.rqp w.ten part = true → d.trn.fenced = false → d.keyOk w.ten w.keygen = true → d.admitted w.ten part = true →
    scOk x = true → scOp x = 0 → w.extra = [] → openGeom x = some g → d.usage w.ten + kib ≤ (d.tenant w.ten).quota → (d.tenant w.ten).quota ≠ 0 →
    d.ownSlot = some slot → d.blkRoom (ldBlocks 4 (cdiv g.lanes 16)) = true → kib ≤ d.t1Open →
    let h := mkHandle slot d.pwr.node (mgetD d.pgm.sgens slot 0)
    exec .openSeq s = .next (s.went ((d.openSlot slot w.ten part (mgetD d.pgm.sgens slot 0) h g (scRpages x * g.lanes)).answer w.src w.rqp w.roff w.tag w.ten 2 0 0
      [(0, scRecord x .ok h)]))) ∧
  (∀ (s : State) (slot : Nat) (e : Edit) (p : Prep), s.dev.isStopped (10 * 4096) = false → s.dev.running slot = some e → e.phase = .slot →
    e.prep = some p → e.fenced s.dev = false → (∀ k x, p.src = some k → mget s.dev.pgm.seqs k = some x → slotsFree x p.srcLanes = true) →
    (∀ q, mget s.dev.pgm.seqs slot = some q → slotsFree q p.lanes = true) → exec (.editPublish slot) s = .next (s.went (s.dev.publish slot e p)))

/-! ### Placement (R168 to R208, Tables 7.7 to 7.12) and the pool (R213 to R233) -/

/-- The home transfer (R192 to R194, Table 7.8), on a node that is not fenced, for a message of good form at the tenant's key generation: an OFFER that no
rule refuses leaves a PENDING copy written from its image into a new frame and is answered ACCEPT when the tenant has no mirror, and else goes to the
mirror first; the ACCEPT of the offer under way, when no stroke runs against the page, publishes the page as away; a COMMIT of the next epoch publishes the
PENDING copy, makes the record HOME and is answered CLAIMED; CLAIMED ends the source's wait; DECLINE of the offer under way makes the record HOME again
and marks the tray position. -/
def Obligations.HomeTransfer : Prop :=
  ∀ (s : State) (w : Work) (d : Dev), s.dev.isStopped (11 * 4096) = false → d.trn.fenced = false → placeBad w = false →
    let b := w.body
    let id := pbRun b
    let g := pbGeom b
    (∀ fs, (s.dev.eccAll fs).takePlace 0 = some (w, d) → d.keyOk id.ten (pbKeygen b) = true →
      exec (.offer fs) s = .next (s.went ((offerGo w d).getD (s.dev.eccAll fs)))) ∧
    (s.dev.takePlace 1 = some (w, d) → (∀ x, d.acceptMove b = some x → d.strokesOn x.2.2.2.1.loc = false) →
      exec .accept s = .next (s.went ((acceptGo w d).getD d.protocol))) ∧
    (s.dev.takePlace 2 = some (w, d) → d.keyOk id.ten (pbKeygen b) = true → exec .commit s = .next (s.went ((commitGo w d).getD s.dev))) ∧
    (∀ fs d1 rows ks vs d2 f d3, (s.dev.eccAll fs).takePlace 0 = some (w, d) → d.keyOk id.ten (pbKeygen b) = true → d.offerConds b = [] →
      d.lodge id (pbPart b) g = some d1 → d1.takeImage b w.extra = .ok (rows, ks, vs, d2) → d2.allocT1 id.ten g.fcls (copyDie id g) = some (f, d3) →
      let d4 := d3.writeRowsAt g id f.loc f.ver rows
      let c : Copy := ⟨g, frameEnt f (pbFirst b) ks vs, pbHeld b⟩
      let r : Run := { freshRun id .pending (pbFrom b) (pbEpoch b) ((((d4.run id).map Run.count)).getD 0) (((d4.run id).map Run.stamp).getD d4.plc.tnow) (some c) with
        was := (d4.run id).map (fun r => (r.epoch, r.peer)) }
      ((d4.tenant id.ten).mirror = none → exec (.offer fs) s = .next (s.went ((d4.putRun r).reply w 1 (pbEpoch b) 0 0))) ∧
      (∀ m, (d4.tenant id.ten).mirror = some m →
        let d5 := (d4.putRun r).sendImage m 9 id (pbEpoch b) g c.ent c.held rows
        exec (.offer fs) s = .next (s.went { d5 with plc := { d5.plc with owed := (d4.putRun r).plc.owed ++ [(id, m, true)] } }))) ∧
    (∀ slot q lane e r ed l m dst d1, s.dev.takePlace 1 = some (w, d) → d.pageOf id = some (slot, q, lane, e) → d.run id = some r → q.edits = ed :: l →
      d.strokesOn e.loc = false → ed.phase = .offer → ed.move = some (m, id, dst) → r.hstate = .offered → r.epoch = pbEpoch b → r.peer = pbFrom b →
      let d0 := if m = .lend then { d with plc := { d.plc with
        lastPeer := ((List.range 8).find? (fun i => decide (d.tray i = pbFrom b))).getD d.plc.lastPeer
        declined := d.plc.declined.filter (fun x => decide (x.1 ≠ id)) } } else d
      d0.swaps slot q lane m id (pbFrom b) { e with loc := .away (pbFrom b), ver := 0, sblk := 0 } ed.pin { emptyPrep with retire := emptyRetired.unref e } d1 →
      exec .accept s = .next (s.went d1)) ∧
    (∀ r c slot q p d1, s.dev.takePlace 2 = some (w, d) → d.keyOk id.ten (pbKeygen b) = true → d.run id = some r → r.hstate = .pending →
      r.epoch + 1 = pbEpoch b → r.copy = some c → d.ledgerOf id = some (slot, q) → d.editBusy slot = false →
      let lane := q.geo.lane id.layer id.hgrp
      Dev.newLane q lane (max (q.now lane).endp (16 * id.page + c.held)) (mset (q.now lane).pages id.page c.ent) [id.page] emptyPrep d = .ok (p, d1) →
      slotsFree q p.lanes = true →
      let d2 := (((d1.putLanes slot p.lanes p.retire).lastWend slot lane id.page (16 * id.page + c.held)).modRun id (fun r => { r with copy := none, was := none })).reap slot
      exec .commit s = .next (s.went ((d2.setHome id .home (pbEpoch b) (pbFrom b)).reply w 3 (pbEpoch b) 0 0))) ∧
    (s.dev.takePlace 3 = some (w, d) → (id, pbEpoch b, pbFrom b) ∈ d.plc.commits →
      exec .claimed s = .next (s.went { d with plc := { d.plc with commits := d.plc.commits.filter (· ≠ (id, pbEpoch b, pbFrom b)) } })) ∧
    (∀ r, s.dev.takePlace 5 = some (w, d) → d.plc.claims.find? (fun c => decide (c.id = id ∧ c.peer = pbFrom b ∧ c.epoch = pbEpoch b)) = none →
      d.run id = some r → r.hstate = .offered → r.epoch = pbEpoch b → r.peer = pbFrom b →
      let d1 := (d.endOffer id).modRun id (fun r => { r with hstate := .home })
      exec .decline s = .next (s.went (match (List.range 8).find? (fun i => decide (d.tray i = pbFrom b)) with
        | none => d1
        | some i => { d1 with plc := { d1.plc with declined := d1.plc.declined ++ [(id, i)] } })))

/-- The claim rule (R196, Table 7.9): of two that both claim, the higher epoch stays and the lower relinquishes; equal epochs orphan both; one
that claims against one that does not becomes or stays HOME; and no case raises an epoch above both.

CLAIM and RELEASE (R196, R197, R208): a CLAIM that answers none of this node's is answered with the record's state and epoch, and the claim rule is
applied: where it leaves the record as it is, nothing more happens unless that is relinquished, whose peer is then the sender; a record that relinquishes
frees its copy, and any other becomes what the rule says. RELEASE frees the copy that the record holds, the record, and a lodging ledger with nothing left;
the RELINQUISHED record that a PENDING one replaced stands again. -/
def Obligations.ClaimsAreDecided : Prop :=
  (∀ (x : HState) (ex y ey : Nat),
    let r := claimRule x ex y ey
    let claims := x = .home ∨ x = .offered
    (claims → y < 2 → ey < ex → r = (x, ex)) ∧ (claims → y < 2 → ex < ey → r = (.relinquished, ey)) ∧ (claims → y < 2 → ex = ey → r = (.orphaned, ex)) ∧
    (claims → 2 ≤ y → r = (.home, ex)) ∧ (¬ claims → y < 2 → r = (.relinquished, ey)) ∧ r.2 ≤ max ex ey ∧
    (∀ x', y = hCode x' → ¬ (((claimRule x ex y ey).1 = .home ∨ (claimRule x ex y ey).1 = .offered) ∧
      ((claimRule x' ey (hCode x) ex).1 = .home ∨ (claimRule x' ey (hCode x) ex).1 = .offered)))) ∧
  (∀ (s : State) (w : Work) (d : Dev) (r : Run), s.dev.isStopped (11 * 4096) = false → d.trn.fenced = false → placeBad w = false →
    let b := w.body
    let id := pbRun b
    d.run id = some r →
    (let d1 := d.reply w 4 r.epoch 0 (hCode r.hstate)
     let c := claimRule r.hstate r.epoch (pbState b) (pbEpoch b)
     let d2 := if r.hstate = .offered then d1.endOffer id else d1
     s.dev.takePlace 4 = some (w, d) → d.plc.claims.find? (fun c => decide (c.id = id ∧ c.peer = pbFrom b)) = none → d1.run id = some r →
      (c = (r.hstate, r.epoch) → r.hstate ≠ .relinquished → exec .claim s = .next (s.went d1)) ∧
      (c.1 = .relinquished → r.hstate = .relinquished → c.2 = r.epoch ∨ r.copy = none → exec .claim s = .next (s.went (d1.setHome id .relinquished c.2 (pbFrom b)))) ∧
      (c.1 = .relinquished → r.copy.isSome = true → c ≠ (r.hstate, r.epoch) →
        exec .claim s = .next (s.went (((d2.freeCopy id).setHome id .relinquished c.2 (pbFrom b)).lodgeEnd (hSlot id.seq)))) ∧
      (c.1 = .relinquished → r.copy = none → r.hstate ≠ .relinquished → d2.pageOf id = none →
        exec .claim s = .next (s.went (d2.setHome id .relinquished c.2 (pbFrom b)))) ∧
      (c.1 ≠ .relinquished → c ≠ (r.hstate, r.epoch) → exec .claim s = .next (s.went (d2.setHome id c.1 c.2 r.peer)))) ∧
    (s.dev.takePlace 6 = some (w, d) → r.copy.isSome = true → r.was = none →
      exec .release s = .next (s.went (((d.freeCopy id).dropRun id).lodgeEnd (hSlot id.seq)))) ∧
    (∀ e p, s.dev.takePlace 6 = some (w, d) → r.copy.isSome = true → r.was = some (e, p) →
      exec .release s = .next (s.went (((d.freeCopy id).modRun id (fun r => { r with hstate := .relinquished, epoch := e, peer := p, was := none })).lodgeEnd (hSlot id.seq)))) ∧
    (s.dev.takePlace 6 = some (w, d) → r.copy = none → d.pageOf id = none → exec .release s = .next (s.went (d.dropRun id))))

/-- The mirror's messages (R199 to R201, R203): a SHADOW that no rule refuses is stored in a frame of its own and acknowledged, and the last one of a shard
leaves its shadows complete (which one is the last is a free value, log entry 34); a forwarded CLOSE empties the sequence's shadows and is acknowledged; MIRROR_ACK of a transfer's SHADOW sends ACCEPT to the
source, and of a forwarded edit publishes it. -/
def Obligations.MirrorMessages : Prop :=
  ∀ (s : State) (w : Work) (d : Dev), s.dev.isStopped (11 * 4096) = false → d.trn.fenced = false → placeBad w = false →
    let b := w.body
    let id := pbRun b
    let g := pbGeom b
    let kib := fKib g.fcls + 1
    (s.dev.takePlace 9 = some (w, d) → d.keyOk id.ten (pbKeygen b) = true → exec .shadow s = .next (s.went ((shadowGo Dev.endFill Dev.finishFill w d).getD s.dev))) ∧
    (s.dev.takePlace 7 = some (w, d) → d.keyOk id.ten (pbKeygen b) = true → exec .mirrorEdit s = .next (s.went ((mirrorEditGo w d).getD s.dev))) ∧
    (∀ rows ks vs d1 f d2, s.dev.takePlace 9 = some (w, d) → d.keyOk id.ten (pbKeygen b) = true → shapeOk g.shape = true → fmtOk g.shape g.kvfmt = true →
      frameClass g.shape g.kvfmt g.heads = some g.fcls → d.run id = none → d.usage id.ten + kib ≤ (d.tenant id.ten).quota → kib ≤ d.t1Open →
      d.takeImage b w.extra = .ok (rows, ks, vs, d1) → d1.allocT1 id.ten g.fcls (copyDie id g) = some (f, d2) →
      let d3 := d2.writeRowsAt g id f.loc f.ver rows
      d3.run id = none →
      let r := freshRun id .shadow (pbFrom b) (pbEpoch b) 0 d3.plc.tnow (some ⟨g, frameEnt f (pbFirst b) ks vs, pbHeld b⟩)
      let d4 := ((d3.reseat id.ten id.seq (pbFrom b)).putRun r).reply w 8 (pbEpoch b) 0 0
      (Config.lastShadow b = false → exec .shadow s = .next (s.went d4)) ∧
      (Config.lastShadow b = true → d.filling id.ten (pbFrom b) = false →
        exec .shadow s = .next (s.went (if d4.plc.full.contains (id.ten, pbFrom b) then d4
          else { d4 with plc := { d4.plc with full := d4.plc.full ++ [(id.ten, pbFrom b)] } })))) ∧
    (∀ rows, s.dev.takePlace 7 = some (w, d) → d.keyOk id.ten (pbKeygen b) = true → d.transitTake id.ten (leBytes 32 b) (w.extra.drop 88) = some rows →
      2 ^ 63 ≤ leAt w.extra 64 8 →
      let gb := leAt w.extra 72 8
      let g : Geom := ⟨fld gb 0 8, fld gb 8 4, fld gb 12 3, fld gb 15 6, fld gb 21 10, fld gb 31 3⟩
      let d := d.reseat id.ten id.seq (pbFrom b)
      let q := d.shadowSeq id.ten (pbPart b) id.seq g
      mirrorBad w.extra (w512 w.extra) g = false →
      exec .mirrorEdit s = .next (s.went (((d.shadowsFrom q g (pbFrom b) (fun _ => pbEpoch b) (Dev.prepClose q d).1).whole b).reply w 8 (pbEpoch b) 0 0))) ∧
    (∀ o r, s.dev.takePlace 8 = some (w, d) → d.plc.owed.find? (fun o => decide (o.1 = id ∧ o.2.1 = pbFrom b)) = some o → o.2.2 = true →
      d.run id = some r → pbStatus b = 0 →
      exec .mirrorAck s = .next (s.went (({ d with plc := { d.plc with owed := d.plc.owed.filter (fun o => !decide (o.1 = id ∧ o.2.1 = pbFrom b)) } }).placeTo
        r.peer 1 id r.epoch 0 0))) ∧
    (∀ slot q e l p, s.dev.takePlace 8 = some (w, d) → d.plc.owed.find? (fun o => decide (o.1 = id ∧ o.2.1 = pbFrom b)) = none →
      d.ledgerOf id = some (slot, q) → mget d.pgm.seqs slot = some q → q.edits = e :: l → e.phase = .mirror → (d.tenant q.ten).mirror = some (pbFrom b) →
      pbStatus b = 0 → e.prep = some p → d.appending slot = false → slotsFree q p.lanes = true → p.src = none →
      exec .mirrorAck s = .next (s.went (d.publish slot e p)))

/-- The tally clocks (R172, R173, R231): TNOW_ADVANCE after 2^STAMP_SHIFT touches adds 1 below the largest value; TNOW_REBASE takes 2^31 from TNOW
and from every STAMP at the largest; PNOW_ADVANCE does one or the other for the pool's own clock. -/
def Obligations.TallyClocks : Prop :=
  (∀ s : State, s.dev.isStopped (11 * 4096) = false → 2 ^ s.dev.reg (rk 0x00800018 0) ≤ s.dev.plc.touches →
    let left := s.dev.plc.touches - 2 ^ s.dev.reg (rk 0x00800018 0)
    (s.dev.plc.tnow ≠ 0xFFFFFFFF →
      exec .tnowAdvance s = .next (s.went { s.dev with plc := { s.dev.plc with touches := left, tnow := s.dev.plc.tnow + 1 } }) ∧ exec .tnowRebase s = .next (s.went s.dev)) ∧
    (s.dev.plc.tnow = 0xFFFFFFFF →
      exec .tnowRebase s = .next (s.went { s.dev with plc := { s.dev.plc with touches := left, tnow := 0x80000000,
                                                                              runs := s.dev.plc.runs.map (fun r => { r with stamp := r.stamp - 0x80000000 }) } }) ∧
      exec .tnowAdvance s = .next (s.went s.dev))) ∧
  (∀ s : State, s.dev.isStopped (12 * 4096) = false → 2 ^ s.dev.reg (rk 0x00900000 24) ≤ s.dev.shp.touches →
    let p := { s.dev.shp with touches := s.dev.shp.touches - 2 ^ s.dev.reg (rk 0x00900000 24) }
    exec .pnowAdvance s = .next (s.went { s.dev with shp := if s.dev.shp.pnow = 0xFFFFFFFF
      then { p with pnow := 0x80000000, units := mmap s.dev.shp.units (fun _ u => { u with stamp := u.stamp - 0x80000000 }) }
      else { p with pnow := s.dev.shp.pnow + 1 } }))

/-- Moves of the tier manager (R175 to R178, R187, R188): each is made for the page-run that its rule picks, once its arbor and a pin are at hand and its
rows read. PROMOTION of a due T1 page-run into T0 room; DEMOTION of the oldest T0 page-run under pressure; LENDING and RETURN as an offer; SPILL of
a page-run that no peer may take, or of a shadow, into a free place of the area, or its failure by a bus error; STAGE_BACK of a T3 page-run or shadow that
a request waits for.

TILE_REREAD (R206): the suspect page-run's held rows are read again, by ordinary claims; a second failure makes it FAILED with the cause found, and a
read that holds ends the suspicion. The page-run lies in T0 or T1, in a copy or in the ledger. -/
def Obligations.TierMoves : Prop :=
  (∀ (s : State) (id : RunId) (fs : List ColFault), s.dev.isStopped (11 * 4096) = false → s.dev.isStopped (4 * 4096) = false → s.dev.awake = true →
    let d := s.dev
    (∀ slot q lane e, d.pageOf id = some (slot, q, lane, e) →
      let e' := d.resolve e
      (d.moveDue id = true → e'.loc.isT1 = true → d.movable slot id e' = true → d.lodging slot = false → fld (d.tenant id.ten).tiers 0 1 ≠ 0 →
        d.t0Fits (fKib q.geo.fcls) = true → d.shareHeld e = false → d.arborFree slot = true →
        exec (.promotion id fs) s = .next (s.went ((d.notDue id).refit .promote id fs (fun d _ => d.allocT0 q.ten q.geo.fcls)))) ∧
      (e'.loc.isT0 = true → d.movable slot id e' = true → fld (d.tenant id.ten).tiers 0 1 = 0 ∨ (d.plc.t0press = true ∧ d.oldT0 (fun _ => true) = some id) →
        exec (.demotion id fs) s = .next (s.went (d.demote id fs))) ∧
      (∀ i l, d.nextDown = some id → d.lodging slot = false → d.trn.fenced = false → d.lendTo id = i :: l →
        exec (.lending id fs) s = .next (s.went (d.startOffer .lend id (d.tray i) fs))) ∧
      (∀ r, d.run id = some r → r.due = true → d.trn.fenced = false → d.lodging slot = true → e.loc.isT1 = true → d.movable slot id e = true →
        (d.peerQp r.peer).isSome = true → d.arborFree slot = true →
        exec (.returnRun id fs) s = .next (s.went ((d.notDue id).startOffer .ret id r.peer fs))) ∧
      (∀ ch v d1, d.spillChan = some ch → d.nextDown = some id → d.canSpill id = true → (d.run id).bind Run.copy = none →
        d.lodging slot = true ∨ d.lendTo id = [] → (d.takeArbor slot true [slot]).bind (fun d => d.takePin slot) = some (v, d1) →
        exec (.spill id ⟨fs, none⟩) s = .next (s.went (match (d1.moveGoes id).moveRead fs slot q lane id e with
          | .error x => x.unpin slot v
          | .ok (rows, d2) => match d2.spillOut id q.geo (imageRaw q.geo e.first (heldIn q lane id.page) rows) with
            | (none, d3) => (d3.unpin slot v).noRoom id
            | (some (u, ver), d3) => d3.swapEntry slot q lane .spill id 0 (some { e with loc := .t3 u, ver := ver, sblk := 0 }) (some v)
                { emptyPrep with retire := emptyRetired.unref e }))) ∧
      (∀ u im, d.dma.xfers.any (fun x => decide (x.what = .stage id) && x.issued) = true → d.active id.ten = true →
        (d.run id).bind Run.copy = none → e.loc = .t3 u → (d.chCount (d.xferChan (.stage id)) im.length).stageWants.contains id = true →
        exec (.stageBack id im) s = .next (s.went ((d.chCount (d.xferChan (.stage id)) im.length).stagePage id slot q lane e im))) ∧
      (∀ d1, d.moveDue id = true → e'.loc.isT1 = true → d.movable slot id e' = true → d.lodging slot = false → fld (d.tenant id.ten).tiers 0 1 ≠ 0 →
        d.t0Fits (fKib q.geo.fcls) = true → d.shareHeld e = false → d.arborFree slot = true →
        (d.notDue id).refits .promote fs (fun d => d.allocT0 q.ten q.geo.fcls) slot q lane id e d1 →
        exec (.promotion id fs) s = .next (s.went d1)) ∧
      (∀ d1, e'.loc.isT0 = true → d.movable slot id e' = true → fld (d.tenant id.ten).tiers 0 1 = 0 ∨ (d.plc.t0press = true ∧ d.oldT0 (fun _ => true) = some id) →
        fKib q.geo.fcls + 1 ≤ d.t1Open → d.shareHeld e = false →
        d.refits .demote fs (fun d => d.allocT1 q.ten q.geo.fcls (slot + 7 * lane + id.page)) slot q lane id e d1 →
        exec (.demotion id fs) s = .next (s.went d1)) ∧
      (∀ i l r v rows d1, d.nextDown = some id → d.lodging slot = false → d.trn.fenced = false → d.lendTo id = i :: l → d.run id = some r →
        r.epoch ≠ 0xFFFFFFFF → d.transitSpent = false → d.readsFor fs slot q lane id e v rows d1 →
        exec (.lending id fs) s = .next (s.went (((d1.modRun id (fun r => { r with hstate := .offered, peer := d.tray i })).sendImage (d.tray i) 0 id r.epoch q.geo e
          (heldIn q lane id.page) rows).setEdits slot [moveEdit q .lend id (d.tray i) .offer (some v) emptyPrep]))) ∧
      (∀ r v rows d1, d.run id = some r → r.due = true → d.trn.fenced = false → d.lodging slot = true → e.loc.isT1 = true → d.movable slot id e = true →
        (d.peerQp r.peer).isSome = true → d.arborFree slot = true → r.epoch ≠ 0xFFFFFFFF → d.transitSpent = false → (d.notDue id).run id = some { r with due := false } →
        (d.notDue id).readsFor fs slot q lane id e v rows d1 →
        exec (.returnRun id fs) s = .next (s.went (((d1.modRun id (fun x => { x with hstate := .offered, peer := r.peer })).sendImage r.peer 0 id r.epoch q.geo e
          (heldIn q lane id.page) rows).setEdits slot [moveEdit q .ret id r.peer .offer (some v) emptyPrep]))) ∧
      (∀ ch v rows d1 u ver d2 d3, d.spillChan = some ch → d.nextDown = some id → d.canSpill id = true → (d.run id).bind Run.copy = none →
        d.lodging slot = true ∨ d.lendTo id = [] → d.readsFor fs slot q lane id e v rows d1 →
        d1.spillOut id q.geo (imageRaw q.geo e.first (heldIn q lane id.page) rows) = (some (u, ver), d2) →
        d2.swaps slot q lane .spill id 0 { e with loc := .t3 u, ver := ver, sblk := 0 } (some v) { emptyPrep with retire := emptyRetired.unref e } d3 →
        exec (.spill id ⟨fs, none⟩) s = .next (s.went d3)) ∧
      (∀ u im d0 rows d1 f d2 p d3, d.dma.xfers.any (fun x => decide (x.what = .stage id) && x.issued) = true → d.active id.ten = true →
        (d.run id).bind Run.copy = none → (∀ x ∈ q.edits, x.phase = .stage id) → e.loc = .t3 u →
        let dc := d.chCount (d.xferChan (.stage id)) im.length
        dc.stageWants.contains id = true → dc.noT1 q.geo.fcls (slot + 7 * lane + id.page) = false → dc.takeArbor slot true [slot] = some d0 →
        ((Dev.leafTouch [] (editBlocks d0 q [(lane, id.page)]) d0).2).stageRows id q.geo e.first 16 e.ver im = .ok (rows, d1) → d1.allocT1 q.ten q.geo.fcls (slot + 7 * lane + id.page) = some (f, d2) →
        Dev.newLane q lane (q.now lane).endp (mset (q.now lane).pages id.page (frameEnt f e.first e.kscale e.vscale)) [id.page] { emptyPrep with made := [f.loc] }
          ((d2.dropXfer (.stage id)).writeRowsAt q.geo id f.loc f.ver rows) = .ok (p, d3) → slotsFree q p.lanes = true →
        exec (.stageBack id im) s = .next (s.went ((d3.publish slot (moveEdit q .stageBack id 0 .slot none p) p).setEdits slot q.edits)))) ∧
    (∀ r c, d.run id = some r → r.copy = some c →
      (∀ ch rows u ver d2, d.spillChan = some ch → d.nextDown = some id → d.canSpill id = true →
        let d1 := (d.eccAll fs).claimPage c.geo c.ent.loc c.ent.first c.held false
        d1.rowsAt fs c.geo id id.ten c.ent c.ent.first c.held = .ok rows →
        (∀ cause, exec (.spill id ⟨fs, some cause⟩) s = .next (s.went (d1.spillFails ch cause id c.geo (imageRaw c.geo c.ent.first c.held rows)))) ∧
        (d1.spillOut id c.geo (imageRaw c.geo c.ent.first c.held rows) = (some (u, ver), d2) →
        exec (.spill id ⟨fs, none⟩) s = .next (s.went (((d2.dropFrame c.ent.loc).modRun id (fun r =>
          { r with copy := some { c with ent := { c.ent with loc := .t3 u, ver := ver, sblk := 0 } } })).moveDone (.spill, id, 0))))) ∧
      (∀ u im rows d1 f d2, d.dma.xfers.any (fun x => decide (x.what = .stage id) && x.issued) = true → d.active id.ten = true →
        c.ent.loc = .t3 u → c.ent.failed = false →
        let dc := d.chCount (d.xferChan (.stage id)) im.length
        dc.shadowWanted id = true → dc.noT1 c.geo.fcls (copyDie id c.geo) = false → dc.stageRows id c.geo c.ent.first 16 c.ent.ver im = .ok (rows, d1) →
        d1.allocT1 id.ten c.geo.fcls (copyDie id c.geo) = some (f, d2) →
        exec (.stageBack id im) s = .next (s.went ((((d2.dropXfer (.stage id)).writeRowsAt c.geo id f.loc f.ver rows).modRun id (fun r =>
          { r with copy := some { c with ent := frameEnt f c.ent.first c.ent.kscale c.ent.vscale } })).moveDone (.stageBack, id, 0)))))) ∧
  (∀ (s : State) (id : RunId) (fs : List ColFault) (x : RunId × Nat) (g : Geom) (e : PageEnt) (hi : Nat), s.dev.isStopped (11 * 4096) = false →
    s.dev.plc.suspects.find? (fun y => decide (y.1 = id ∧ y.2 < 16)) = some x → s.dev.quiet id = true →
    let d := ({ s.dev with plc := { s.dev.plc with suspects := s.dev.plc.suspects.filter (fun y => decide (y.1 ≠ id)) } }).eccAll fs
    (∃ c, (d.run id).bind Run.copy = some c ∧ g = c.geo ∧ e = c.ent ∧ hi = c.held) ∨
      ((d.run id).bind Run.copy = none ∧ ∃ slot q lane e0, d.pageOf id = some (slot, q, lane, e0) ∧ g = q.geo ∧ e = d.resolve e0 ∧ hi = heldIn q lane id.page) →
    e.failed = false → e.loc.isT0 = true ∨ e.loc.isT1 = true →
    let d := d.claimPage g e.loc e.first hi false
    exec (.tileReread id fs) s = .next (s.went (match d.rowsAt fs g id id.ten e e.first hi with
      | .ok _ => d
      | .error (k, _) => d.markFailed id (if k = 2 then 1 else 2))))

/-- Queries by register (Tables 7.19, 8.10, R237): each GO leaves its answer in the answer registers with DONE, and changes nothing else. -/
def Obligations.QueriesAnswer : Prop :=
  ∀ s : State, s.dev.awake = true →
    let d := s.dev
    (d.isStopped (11 * 4096) = false → ∃ e, exec .plcQcmdGo s = .next (s.went e) ∧ d.onlyIn [.regs] e ∧ e.reg (rk 0x00800220 63) = 1 ∧
      (∀ id : RunId, id.ten = d.reg (rk 0x00800200 0) % 2 ^ 12 → id.ten + id.seq * 2 ^ 12 = d.reg (rk 0x00800200 0) + d.reg (rk 0x00800200 12) * 2 ^ 12 →
        id.layer = d.reg (rk 0x00800208 0) → id.hgrp = d.reg (rk 0x00800208 10) → id.page = d.reg (rk 0x00800208 16) →
        e.reg (rk 0x00800218 0) = d.runBits id % 2 ^ 64 ∧ e.reg (rk 0x00800220 0) = d.runBits id / 2 ^ 64)) ∧
    (d.isStopped (12 * 4096) = false → ∃ e, exec .shpQcmdGo s = .next (s.went e) ∧ d.onlyIn [.regs] e ∧ e.reg (rk 0x00900210 31) = 1 ∧
      ∀ g i u, mget d.shp.regions (d.reg (rk 0x00900200 0)) = some g → mget (g.ver g.current).units (d.reg (rk 0x00900200 10)) = some i →
        mget d.shp.units i = some u → e.reg (rk 0x00900210 8) = u.count ∧ e.reg (rk 0x00900210 32) = u.stamp ∧
          e.reg (rk 0x00900210 0) = if u.failed then 3 else if u.loc.isT0 then 2 else 1) ∧
    (d.isStopped (8 * 4096) = false →
      let d0 := d.setReg (rk 0x00A00128 63) 0
      d0.isStopped (8 * 4096) = false → d0.awake = true →
      ∀ m multi d1, d0.search (BitVec.ofNat 112 (d.reg (rk 0x00A00100 0) + d.reg (rk 0x00A00108 0) * 2 ^ 64)) (d.reg (rk 0x00A00110 0)) = ((m, multi), d1) →
        let res := (m.map (fun e => e.2.result.toNat)).getD 0
        exec .dirQcmdGo s = .next (s.went (d1.setRegs [(rk 0x00A00120 0, fld res 0 64), (rk 0x00A00128 0, fld res 64 32), (rk 0x00A00128 32, dirCursor m),
          (rk 0x00A00128 61, b2n m.isSome), (rk 0x00A00128 62, b2n multi), (rk 0x00A00128 63, 1)])))

/-- Pool requests (R218 to R225): the request at the head of the queue, on a region that exists, with a usable return QP and no condition of Table
8.3: OPEN_VERSION takes the lowest free reader slot and answers its handle and version; CLOSE_VERSION closes it; OPEN_DRAFT takes a draft
slot; DISCARD frees the draft; WRITE places its lines in the draft's units; PUBLISH prepares the next version, or conflicts.

The swap, GATHER and DRAFT_ABORT (R222, R226, R229): a prepared publish on the current version becomes it, and its draft ends; a GATHER
answers the rows of the version its handle holds, with its completion record after them; DRAFT_ABORT ends what the named function holds. -/
def Obligations.PoolRequests : Prop :=
  (∀ (s : State) (w : Work) (g : Region) (d : Dev) (op : Nat), s.dev.isStopped (12 * 4096) = false → s.dev.isStopped (4 * 4096) = false →
    s.dev.takePool op = some (w, d) → s.dev.rqpAway w.src (plRqp w.desc) = false → d.rqpOk w.src true (plRqp w.desc) (plTen w.desc) (plPart w.desc) = true → d.poolConds s.qb w = [] →
    mget d.shp.regions (plRegion w.desc) = some g →
    (∀ i, op = 0 → d.readerSlot = some i →
      let v := if plVersion w.desc = 0 then g.current else plVersion w.desc
      let gen := mgetD d.shp.readerGen i 0
      exec .openVersion s = .next (s.went (({ d with shp := { d.shp with readers := mset d.shp.readers i ⟨gen, plRegion w.desc, v, (d.owner w).1, (d.owner w).2⟩ } }).poolAnswer
        w .ok false v (i + gen * 2 ^ 14)))) ∧
    (∀ i r, op = 1 → d.readerOf (plHandle w.desc) (plRegion w.desc) = some (i, r) →
      exec .closeVersion s = .next (s.went (((d.closeReader i).poolReap).poolAnswer w .ok false r.ver 0))) ∧
    (∀ i, op = 2 → d.draftSlot = some i →
      let v := if plVersion w.desc = 0 then g.current else plVersion w.desc
      let gen := mgetD d.shp.draftGen i 0
      exec .openDraft s = .next (s.went (({ d with shp := { d.shp with drafts := mset d.shp.drafts i ⟨gen, plRegion w.desc, v, (d.owner w).1, (d.owner w).2, [], none⟩ } }).poolAnswer
        w .ok false v (i + gen * 2 ^ 8)))) ∧
    (∀ i x fs, d.draftOf (plHandle w.desc) (plRegion w.desc) = some (i, x) →
      (op = 4 → exec .discard s = .next (s.went ((((d.dropDraft i).bump (rk 0x00900030 0) 32 1).poolReap).poolAnswer w .ok false x.base 0))) ∧
      (op = 3 → exec (.poolWrite fs) s = .next (s.went (poolWriteGo fs w g d))) ∧
      (op = 5 → exec (.publish fs) s = .next (s.went (publishGo fs w g d))) ∧
      (∀ ids new n us d1 d2, op = 3 → d.writeBase g (g.ver x.base) x (plLine w.desc) (plNlm1 w.desc + 1) = .ok (ids, new, n) →
        (Dev.newUnits (plRegion w.desc) new d).isSome = true → (∃ got, Dev.useUnits fs (plTag w.desc) ids d = ((none, got), d1)) →
        Dev.newUnits (plRegion w.desc) new (d1.bump (rk 0x00700018 0) 64 n) = some (us, d2) →
        let y := { x with units := x.units ++ us }
        exec (.poolWrite fs) s = .next (s.went ((({ d2 with shp := { d2.shp with drafts := mset d2.shp.drafts i y } }).putLines y (plLine w.desc) (linesB w.extra)).poolAnswer
          w .ok false x.base 0))) ∧
      (op = 5 → x.base ≠ g.current → exec (.publish fs) s = .next (s.went (d.conflict w i x.base g.current))) ∧
      (∀ us d1 d2, op = 5 → x.base = g.current →
        let pl := d.prepPlan g.p (g.ver x.base) x
        (Dev.newUnits (plRegion w.desc) pl.news d).isSome = true → (∃ got, Dev.useUnits fs (plTag w.desc) pl.reads d = ((none, got), d1)) →
        Dev.newUnits (plRegion w.desc) pl.news d1 = some (us, d2) →
        let nv := d2.mkVersion (plRegion w.desc) g.p (g.ver x.base) x pl us
        let d3 := { d2 with shp := { d2.shp with drafts := mset d2.shp.drafts i { x with pub := some (w, nv, us) } } }
        d3.poolRoom 0 = true →
        exec (.publish fs) s = .next (s.went ((((d3.tblRef true nv.slots).bump (rk 0x00700010 0) 64 pl.blocks).bump (rk 0x00700020 0) 64 pl.rawIn).bump (rk 0x00700028 0) 64 pl.out))))) ∧
  (∀ (s : State), s.dev.isStopped (12 * 4096) = false → s.dev.isStopped (4 * 4096) = false →
    (∀ i x w v us g, mget s.dev.shp.drafts i = some x → x.pub = some (w, v, us) → s.dev.trn.fenced = false →
      mget s.dev.shp.regions x.region = some g → x.base = g.current → g.versions.length < 16 →
      let v' := s.dev.dropHoles g.p v
      let g' := { g with current := v'.num, versions := g.versions ++ [v'] }
      let d := ({ s.dev with shp := { s.dev.shp with regions := mset s.dev.shp.regions x.region g' } }).tblRef true v'.slots
      let d := (d.bump (rk 0x00900018 0) 64 1).poolEvent x.region g.p v' 0
      exec (.poolPublishSwap i) s = .next (s.went (((d.dropDraft i).poolReap).poolAnswer w .ok false v'.num v'.num))) ∧
    (∀ w d g h r fs, s.dev.takePool 6 = some (w, d) → s.dev.rqpAway w.src (plRqp w.desc) = false → d.rqpOk w.src true (plRqp w.desc) (plTen w.desc) (plPart w.desc) = true →
      d.poolConds s.qb w = [] → mget d.shp.regions (plRegion w.desc) = some g → d.readerOf (plHandle w.desc) (plRegion w.desc) = some (h, r) →
      let got := gatherGo fs w g.p (g.ver r.ver) (d.gatherRows s.qb w) [] d
      got.2.1 = none →
      let e0 := got.2.2.1.foldl (Dev.touchUnit fs) got.2.2.2
      let n := got.1.length
      let e : Dev := { e0 with shp := { e0.shp with gathers := e0.shp.gathers.filter (fun g => e0.rowsWait g.1 ≠ 0) ++ (if n = 0 then [] else [(w.desc, n)]) } }
      exec (.gather fs) s = .next (s.went (Dev.answerAfter d (Dev.fieldsAfter d (e.bump (rk 0x00900020 0) 64 n) []) w.src (plRqp w.desc) (plRoff w.desc) (plTag w.desc)
        (plTen w.desc) 3 0 0 (got.1.zipIdx.map (fun (b, j) => (j * rpRow g.p, b)) ++
          [((plNrm1 w.desc + 1) * rpRow g.p, gatherRecord w.desc .ok n 0)])))) ∧
    (∀ w r, s.dev.shp.queue = w :: r → w.kind = 5 → s.dev.trn.fenced = false →
      exec .draftAbort s = .next (s.went (({ s.dev with shp := { s.dev.shp with queue := r } }).abortOwner (fun n f => decide (n = wf w.desc 0 12 ∧ f = wf w.desc 12 5))))))

/-! ### Management and security (R338 to R357, R391 to R394) -/

/-- MGMT (R391, R392): an admin entry of opcode 8 on the PF, whose envelope has its form and passes every check, is taken; the issuer's
sequence number becomes the envelope's, and the command is under way with its response's place. One that a later check turns away is counted and refused
with a response and in its CQ entry; one whose form fails, in its CQ entry alone. Arguments that do not have the command's layout (R393) end the accepted
command with ST_SHAPE (which rules count there: log entry 12, the model's choice). -/
def Obligations.EnvelopesAreTaken : Prop :=
  ∀ (s : State) (e : W512) (env : Bytes), s.dev.adminReady 0 = true → s.dev.pwr.inflight.length < 64 → s.dev.chipReset = false → s.dev.isStopped (14 * 4096) = false →
    s.dev.bar0Open = true → aAop e = 8 → wf e 192 320 = 0 → aBase e % 4096 = 0 →
    let h := leNat (sliceB env 0 64)
    let d := s.dev.adminTake 0
    (d.envForm (aLen e) h = true →
      let d1 := d.setReg (cseqKey (fld h 40 2)) (fld h 128 64)
      let args := sliceB env 64 (fld h 192 32)
      let m : MCmd := ⟨fld h 48 16, fld h 40 2, fld h 128 64, aCtag e, aBase e + fld h 224 32, fld h 256 32, (d1.fn 0).asqHead, true, args⟩
      let head (st : St) : Bytes := leBytes 16 (pack [(0, 16, fld h 48 16), (16, 8, stCode st), (64, 64, fld h 128 64)])
      match d.envFails h env with
      | none =>
        (argsOk (fld h 48 16) args = true →
          exec (.mgmt 0 e env) s = .next (s.went (({ d1 with pwr := { d1.pwr with inflight := d1.pwr.inflight ++ [m] } }).wakeCause 2))) ∧
        (argsOk (fld h 48 16) args = false → exec (.mgmt 0 e env) s = .next (s.went (((d1.bump (rk 0x01200208 0) 64 1).nodeWrite 0 (aBase e + fld h 224 32)
          (head .shape)).adminDone 0 e .shape)))
      | some st => exec (.mgmt 0 e env) s = .next (s.went (((d.bump (rk 0x01300060 32) 16 1).nodeWrite 0 (aBase e + fld h 224 32)
          (head st)).adminDone 0 e st))) ∧
    (d.envForm (aLen e) h = false → exec (.mgmt 0 e env) s = .next (s.went ((d.bump (rk 0x01300060 32) 16 1).adminDone 0 e .shape)))

/-- Transport commands (Table 10.9): each, on a node that takes commands and with its rule met, has its effect on its table and completes
ST_OK: a new QP with room in the cache, its paths and credits changed, its destruction begun, an error QP cleared, an access key written or
removed, a ridge set or cancelled.

Fence commands (R262, R378): SET_FENCE with an epoch not below the node's and a map of nodes takes both, and SELF makes the node FENCED and
ends its own work; UNFENCE with an epoch above lifts it, and ridge entries that are complete are sent. Both are journalled, and the command completes when its entry has committed. -/
def Obligations.TransportAndFenceCommands : Prop :=
  (∀ s : State, s.dev.ready = true →
    let d := s.dev
    (∀ a : QpArgs, a.type = 1 ∨ d.admitted a.ten a.part = true → d.qpOk a = true → d.cachedQps < 16384 →
      let d1 : Dev := { d with trn := { d.trn with clock := d.trn.clock + 1 } }
      let d2 := d1.setQp a.qpn (newQp a d1.trn.clock)
      let d3 : Dev := if a.enc then { d2 with sec := { d2.sec with ckeys := mmod d2.sec.ckeys a.ckey (fun k => { k with qpn := some a.qpn }) } } else d2
      (s.dev.asked (.qpCreate a) = true → exec (.qpCreate a) s = .next (s.went (d3.mgmtDone 0x0301 0 []).escapement))) ∧
    (∀ n q paths pm cw sw tc pc, mget d.trn.qps n = some q → d.qpTune paths pm cw sw tc pc = true →
      let x := { q with paths := paths, pmask := pm, cwin := cw, swin := sw, txclass := tc, pmaxc := pc, changed := !q.cached }
      (s.dev.asked (.qpModify n paths pm cw sw tc pc) = true → exec (.qpModify n paths pm cw sw tc pc) s = .next (s.went (({ d with trn := { d.trn with qps := mmod d.trn.qps n (fun _ => x) } }).mgmtDone 0x0302 0 [])))) ∧
    (∀ n q, mget d.trn.qps n = some q →
      let d1 := d.setQp n { q with destroying := true }
      (s.dev.asked (.qpDestroy n) = true → exec (.qpDestroy n) s = .next (s.went (({ d1 with pwr := { d1.pwr with waits := d1.pwr.waits ++ [MWait.qpDestroy n] } }).endDestroy n)))) ∧
    (∀ n q, mget d.trn.qps n = some q → q.state = 2 →
      let x : Qp := { q with state := 1, errc := 0, exp := 0, txmsn := 0, rxcl := 0, rxret := 0, txcl := 0, txused := 0, rxsl := 0, rxsret := 0,
                             txsl := 0, txsused := 0, rexp := 0, retAt := 0, subTaken := 0, pktTaken := 0, msgs := [], ctl := [], txPart := [],
                             changed := !q.cached }
      (s.dev.asked (.qpClear n) = true → exec (.qpClear n) s = .next (s.went (({ d with trn := { d.trn with qps := mmod d.trn.qps n (fun _ => x) } }).escapement.mgmtDone 0x0304 0 [])))) ∧
    (∀ i e, d.keyOkCreate i e = true → (keyOf e).kind = 3 ∨ d.active (keyOf e).ten = true → (s.dev.asked (.keyCreate i e) = true → exec (.keyCreate i e) s = .next (s.went (({ d with trn := { d.trn with keys := mset d.trn.keys i (keyOf e) } }).mgmtDone 0x0305 0 [])))) ∧
    (∀ i, i < 2 ^ d.reg (rk 0x00E00000 16) → (mget d.trn.keys i).isSome = true →
      (s.dev.asked (.keyDestroy i) = true → exec (.keyDestroy i) s = .next (s.went (({ d with trn := { d.trn with keys := mdel d.trn.keys i } }).mgmtDone 0x0306 0 [])))) ∧
    (∀ i a b cs, i < 1024 → d.qpType a = some 2 → d.qpType b = some 0 → 1 ≤ cs.length → cs.length ≤ 64 → (∀ c ∈ cs, c < 2 ^ 12) → cs.Nodup →
      exec (.setRidge i a b cs) s = .next (s.went (({ d with trn := { d.trn with
        ridges := mset d.trn.ridges i ⟨a, b, cs⟩, qps := mmod d.trn.qps a (fun q => { q with ridge := i, changed := !q.cached }) } }).mgmtDone 0x0307 0 []))) ∧
    (∀ i t, (mget d.trn.ridges i).isSome = true → exec (.cancelRidge i t) s = .next (s.went ((d.ridgeCancel i t).mgmtDone 0x0308 0 [])))) ∧
  (∀ s : State, s.dev.ready = true →
    let d := s.dev
    (∀ e map, d.trn.epoch ≤ e → e < 2 ^ 32 → (∀ n ∈ map, n < 2 ^ 12) →
      let d1 : Dev := { d with trn := { d.trn with epoch := e, map := (map.mergeSort (· ≤ ·)).eraseDups } }
      let d2 := d1.journal { type := 10, epoch := e, sub := 2 } []
      d.rcv.jq.length < d2.rcv.jq.length → (s.dev.asked (.setFence e false map) = true → exec (.setFence e false map) s = .next (s.went (d2.hold [.mgmt 0x0309 0 []])))) ∧
    (∀ e map, d.trn.epoch ≤ e → e < 2 ^ 32 → (∀ n ∈ map, n < 2 ^ 12) →
      let d1 : Dev := { d with trn := { d.trn with epoch := e, map := (map.mergeSort (· ≤ ·)).eraseDups, fenced := true } }
      let d2 := Dev.fenceSelf d (d1.journal { type := 10, epoch := e, sub := 1 } [])
      d.rcv.jq.length < d2.rcv.jq.length → (s.dev.asked (.setFence e true map) = true → exec (.setFence e true map) s = .next (s.went (d2.hold [.mgmt 0x0309 0 []])))) ∧
    (∀ e, d.trn.epoch < e → e < 2 ^ 32 → d.trn.epoch ≠ 0xFFFFFFFF →
      (s.dev.asked (.unfence e) = true → exec (.unfence e) s = .next (s.went (d.trn.merges.foldl Dev.ridgeTry (({ d with trn := { d.trn with epoch := e, fenced := false } }).journal
        { type := 10, epoch := e, sub := 3 } [.mgmt 0x030A 0 []]))))))

/-- Policer and quantum commands (R291, R297, Table 11.2): SET_POLICER within its rule binds the instance, a new one with both buckets full on
every link; CLEAR_POLICER removes it; a packet found red under an instance that is rebound keeps its colour until the next refill (log entry 113, the
model's choice), and one whose instance is new or gone is decided again; SET_TENANT_QUANTUM sets an admitted tenant's quantum of 1 to 255 units.

Directory commands (R235, R248, Table 9.6): DIR_PUT of a good image for an admitted tenant takes the lowest free index of the key's class and
answers it; DIR_REMOVE makes a valid entry that the runtime wrote invalid; DIR_FIND answers the search; DIR_READ answers the entry's image. -/
def Obligations.EgressAndDirectoryCommands : Prop :=
  (∀ s : State, s.dev.ready = true →
    let d := s.dev
    (∀ i t c ci pi cb pb, d.active t = true → i < 512 → c = 0 ∨ (2 ≤ c ∧ c ≤ 15) → 1 ≤ ci → ci ≤ pi → pi < 2 ^ 16 → 4184 ≤ cb → cb ≤ pb → pb ≤ 16777215 →
      (∀ e ∈ d.tsh, e.1 ≠ i → ¬ (e.2.ten = t ∧ e.2.cls = c)) →
      (s.dev.asked (.setPolicer i t c ci pi cb pb) = true → exec (.setPolicer i t c ci pi cb pb) s = .next (s.went (({ d with tsh := mset d.tsh i ⟨t, c, ci, pi, cb, pb⟩, links := mmap d.links (fun _ l =>
        if mget d.tsh i = none then { d.keepColors (mset d.tsh i ⟨t, c, ci, pi, cb, pb⟩) none l with buckets := mset l.buckets i (64 * cb, 64 * pb) }
        else d.keepColors (mset d.tsh i ⟨t, c, ci, pi, cb, pb⟩) (some i) l) }).mgmtDone 0x0311 0 [])))) ∧
    (∀ i, i < 512 → (s.dev.asked (.clearPolicer i) = true → exec (.clearPolicer i) s = .next (s.went (({ d with tsh := mdel d.tsh i, links := mmap d.links (fun _ l => d.keepColors (mdel d.tsh i) none l) }).mgmtDone 0x0312 0 [])))) ∧
    (∀ t q, d.active t = true → 1 ≤ q → q ≤ 255 → (s.dev.asked (.setTenantQuantum t q) = true → exec (.setTenantQuantum t q) s = .next (s.went (({ d with sec := { d.sec with tenants := mmod d.sec.tenants t (fun x => { x with quantum := q }) } }).mgmtDone 0x0313 0 []))))) ∧
  (∀ s : State, s.dev.ready = true → s.dev.isStopped (8 * 4096) = false →
    let d := s.dev
    (∀ w i, let key := BitVec.ofNat 112 (wf w 0 112)
      d.active (keyTen key) = true → dirOk w = true → d.mgmtRoom 0x0221 8 = true → keyClass key ≠ 0 ∨ d.rtHome < d.reg (rk 0x00A00000 32) →
      d.dirFree (keyClass key) = some i →
      (s.dev.asked (.dirPut w) = true → exec (.dirPut w) s = .next (s.went (({ d with dir := mset d.dir i ⟨true, key, BitVec.ofNat 112 (wf w 128 112), wf w 256 8, BitVec.ofNat 96 (wf w 288 96), true⟩ }).mgmtDone
        0x0221 0 (leBytes 2 i))))) ∧
    (∀ i e, mget d.dir i = some e → e.valid = true → e.runtime = true →
      (s.dev.asked (.dirRemove i) = true → exec (.dirRemove i) s = .next (s.went (({ d with dir := mmod d.dir i (fun e => { e with valid := false }) }).mgmtDone 0x0222 0 [])))) ∧
    (∀ key cur i e multi d1, d.mgmtRoom 0x0223 24 = true → d.search key cur.toNat = ((some (i, e), multi), d1) →
      (s.dev.asked (.dirFind key cur) = true → exec (.dirFind key cur) s = .next (s.went (d1.mgmtDone 0x0223 0 (leBytes 1 1 ++ leBytes 1 (b2n multi) ++ leBytes 12 e.result.toNat ++ leBytes 1 e.prio ++ leBytes 2 i ++
        leBytes 4 (dirCursor (some (i, e)))))))) ∧
    (∀ i, i < 65536 → d.mgmtRoom 0x0224 64 = true → (s.dev.asked (.dirRead i) = true → exec (.dirRead i) s = .next (s.went (d.mgmtDone 0x0224 0 (wBytes (dirImage d.dir i)))))))

/-- Pool commands (R213, R226, R227, Table 8.5) on a node that is not fenced: CREATE_REGION of good properties for an admitted tenant makes version 1, with the units it needs and its log
event; DELETE_REGION marks the region, orphans its drafts and logs the deletion; CLOSE_READERS and ABORT_OWNER end what they name.

Placement commands (R169, R196 to R204, Table 7.12): SET_PLACEMENT sets a tenant's quota, tiers and peers; SET_MIRROR names a mirror outside the tray,
releases edits that waited for the old one, and starts the fill; RECONCILE sends a CLAIM for each page-run; ADOPT_HOME and DISCARD_PENDING settle an open
case; PROMOTE makes a failed node's shadows homes; FILL_SPARE begins a fill, and CANCEL_FILL ends it. -/
def Obligations.PoolAndPlacementCommands : Prop :=
  (∀ s : State, s.dev.ready = true → s.dev.trn.fenced = false →
    let d := s.dev
    (∀ i p v d1, d.admitted p.ten p.part = true → i < 1024 → rpOk p = true → mget d.shp.regions i = none → d.poolLimit ≠ 0 → d.version1 i p = some (v, d1) →
      let d2 := { d1 with shp := { d1.shp with regions := mset d1.shp.regions i ⟨false, p, 1, [v]⟩ } }
      let d2 := d2.seals (fun _ u => decide (u.region = i))
      d2.poolRoom 0 = true → (s.dev.asked (.createRegion i p) = true → exec (.createRegion i p) s = .next (s.went ((d2.poolEvent i p v 0).mgmtDone 0x0211 0 [])))) ∧
    (∀ i g, mget d.shp.regions i = some g → g.deleting = false →
      let d1 := d.poolEvent i g.p (g.ver g.current) 1
      let d2 := { d1 with shp := { d1.shp with regions := mset d1.shp.regions i { g with deleting := true } } }
      (s.dev.asked (.deleteRegion i) = true → exec (.deleteRegion i) s = .next (s.went (((d2.abortDrafts .orphaned (fun x => decide (x.region = i))).poolReap).mgmtDone 0x0212 0 [])))) ∧
    (∀ i, (mget d.shp.regions i).isSome = true → (s.dev.asked (.closeReaders i) = true → exec (.closeReaders i) s = .next (s.went ((((d.closeReaders (fun r => decide (r.region = i))).pruneProjs).poolReap).mgmtDone 0x0213 0 [])))) ∧
    (∀ n, n < 2 ^ 12 → (s.dev.asked (.abortOwner n) = true → exec (.abortOwner n) s = .next (s.went ((d.abortOwner (fun m f => decide (m = n ∧ f < 17))).mgmtDone 0x0214 0 []))))) ∧
  (∀ s : State, s.dev.ready = true →
    let d := s.dev
    (∀ t q ti p, d.active t = true → q < 2 ^ 32 → ti < 8 → p < 256 → fld p d.myPos 1 = 0 →
      (s.dev.asked (.setPlacement t q ti p) = true → exec (.setPlacement t q ti p) s = .next (s.went ((d.modTenant t (fun x => { x with quota := q, tiers := ti, peers := p })).mgmtDone 0x0201 0 [])))) ∧
    (∀ t m fs, d.active t = true → m < 2 ^ 12 → (∀ i, i < 8 → d.tray i ≠ m) → MWait.setMirror t ∉ d.pwr.waits →
      let d1 := ((d.modTenant t (fun x => { x with mirror := some m, mirstate := 0 })).unwaitMirror t).modTenant t (fun x => { x with mirstate := 1 })
      exec (.setMirror t ⟨some m, fs⟩) s = .next (s.went (({ d1 with pwr := { d1.pwr with waits := d1.pwr.waits ++ [MWait.setMirror t] } }).startFill t (some fs)))) ∧
    (∀ t fs, d.active t = true → MWait.setMirror t ∉ d.pwr.waits →
      exec (.setMirror t ⟨none, fs⟩) s = .next (s.went ((((d.modTenant t (fun x => { x with mirror := none, mirstate := 0 })).unwaitMirror t).noFill t).mgmtDone 0x0202 0 []))) ∧
    (∀ id n p, d.trn.fenced = false → d.active id.ten = true → 0 < n → n ≤ 65536 → (d.peerQp p).isSome = true →
      let ids := (List.range n).map (fun i => { id with page := (id.page + i) % 2 ^ 32 })
      let d1 := ids.foldl (fun d i => d.sendClaim i p true) d
      (s.dev.asked (.reconcile id n p) = true → exec (.reconcile id n p) s = .next (s.went { d1 with pwr := { d1.pwr with waits := d1.pwr.waits ++ [MWait.reconcile p ids] } }))) ∧
    (∀ id r e d1, d.active id.ten = true → d.run id = some r → r.hstate = .pending ∨ r.hstate = .orphaned → d.holdsData id = true → r.epoch < e → e < 2 ^ 32 →
      d.trn.fenced = false ∨ r.peer = d.pwr.node → (r.copy = none ∧ d1 = d) ∨ (r.copy.isSome = true ∧ d.publishCopy id = some d1) →
      let d2 := d1.setHome id .home e r.peer
      (s.dev.asked (.adoptHome id e) = true → exec (.adoptHome id e) s = .next (s.went ((if r.peer = d2.pwr.node then d2 else d2.sendClaim id r.peer true).mgmtDone 0x0204 0 [])))) ∧
    (∀ id r, d.active id.ten = true → d.run id = some r → r.hstate = .pending ∨ r.hstate = .orphaned → d.holdsData id = true →
      (r.copy.isSome = true → r.was = none → (s.dev.asked (.discardPending id) = true → exec (.discardPending id) s = .next (s.went (((((d.freeCopy id).dropRun id).dirDrop id).lodgeEnd (hSlot id.seq)).mgmtDone 0x0205 0 [])))) ∧
      (∀ e p, r.copy.isSome = true → r.was = some (e, p) → (s.dev.asked (.discardPending id) = true → exec (.discardPending id) s = .next (s.went ((((d.freeCopy id).modRun id (fun r =>
        { r with hstate := .relinquished, epoch := e, peer := p, was := none })).lodgeEnd (hSlot id.seq)).mgmtDone 0x0205 0 [])))) ∧
      (∀ slot q lane e d1, r.copy = none → d.pageOf id = some (slot, q, lane, e) →
        (d.lodging slot = true → d.entryAway id none true = some d1 →
          (s.dev.asked (.discardPending id) = true → exec (.discardPending id) s = .next (s.went ((((d1.dropRun id).dirDrop id).lodgeEnd slot).mgmtDone 0x0205 0 [])))) ∧
        (d.lodging slot = false → d.entryAway id (some r.peer) false = some d1 →
          (s.dev.asked (.discardPending id) = true → exec (.discardPending id) s = .next (s.went ((d1.setHome id .relinquished r.epoch r.peer).mgmtDone 0x0205 0 [])))))) ∧
    (∀ t f m d1, let os := d.shadowed t f
      d.active t = true → os ≠ [] → d.plc.full.contains (t, f) = true → d.worn t f = none → d.mgmtRoom 0x0206 (16 * os.length) = true → os.length ≤ d.ownFree →
      Dev.promoteAll t os d = some (m, d1) →
      (s.dev.asked (.promote t f) = true → exec (.promote t f) s = .next (s.went (((d1.notFull t f).modTenant t (fun x => { x with mirror := none, mirstate := 0 })).mgmtDone 0x0206 0 m)))) ∧
    (∀ t m f, d.active t = true → m < 2 ^ 12 → f < 2 ^ 12 →
      (s.dev.asked (.fillSpare t m f) = true → exec (.fillSpare t m f) s = .next (s.went { d with pwr := { d.pwr with waits := d.pwr.waits ++ [MWait.fillSpare ⟨t, m, f⟩] } }))) ∧
    (∀ t, d.active t = true → (d.fillOf t).isSome = true → (s.dev.asked (.cancelFill t) = true → exec (.cancelFill t) s = .next (s.went ((Dev.endFill t .mirrorLost d).mgmtDone 0x0208 0 [])))))

/-- Admission and keys (R344, R345): ADMIT_TENANT of a free slot at a generation not below its own, whose wrapped root key unwraps, admits the
tenant and logs it; SET_FABRIC_KEY stores the fabric key; SET_CONN_KEY derives the slot's two keys from its secret. A key that does not unwrap changes no
slot: it is counted, and a fault whose completion waits for its journal entry.

Teardown (R349 to R352, Table 13.5): REMOVE_TENANT of an admitted tenant, with no other teardown under way, bumps its generation and ends its work, its
transfers and its bindings; TEARDOWN_RESIDUE_CLEAR, when nothing of it is left, clears its query-buffer granules and erases what it stored;
ZERO_FILL lowers what waits to be filled by what it filled, oldest storage first, and storage that is zero throughout goes back to its allocator. -/
def Obligations.TenantsComeAndGo : Prop :=
  (∀ s : State, s.dev.ready = true → s.dev.isStopped (13 * 4096) = false →
    let d := s.dev
    (∀ t p g ct w, t < 2 ^ 12 → p < 16 → g < 2 ^ 16 → ct.length = 1568 → w.length = 40 → (d.tenant t).gen ≤ g → g ≠ 0xFFFF → (d.tenant t).state = 0 →
      (∀ k, unwrapKey (d.kek "ADMIT" ct t p g) w = some k →
        (s.dev.asked (.admitTenant t p g ct w) = true → exec (.admitTenant t p g ct w) s = .next (s.went ((({ d with sec := { d.sec with tenants := mset d.sec.tenants t ⟨1, p, g, k, 0, 0, 0, none, 0, 16⟩ } }).tenantLog
          t p g 2).mgmtDone 0x0101 0 [])))) ∧
      (unwrapKey (d.kek "ADMIT" ct t p g) w = none → (s.dev.asked (.admitTenant t p g ct w) = true → exec (.admitTenant t p g ct w) s = .next (s.went (d.unwrapFails 0x0101 t p))))) ∧
    (∀ ct w, ct.length = 1568 → w.length = 40 → (s.dev.asked (.setFabricKey ct w) = true → exec (.setFabricKey ct w) s = .next (s.went (match unwrapKey (d.kek "FABRIC" ct 0 0 Config.fabricGen) w with
      | some k => ({ d with sec := { d.sec with fwk := some k } }).mgmtDone 0x0103 0 []
      | none => d.unwrapFails 0x0103 0 0)))) ∧
    (∀ i t salt w c, d.active t = true → i < 4096 → w.length = 40 → unwrapKey (d.tkey t "WRAP") w = some c →
      let k : CKey := ⟨some t, salt, derive c "LO" [], derive c "HI" [], (mget d.sec.ckeys i).bind CKey.qpn⟩
      exec (.setConnKey i t false salt w) s = .next (s.went (({ d with sec := { d.sec with ckeys := mset d.sec.ckeys i k } }).mgmtDone 0x0104 0 [])))) ∧
  ((∀ (s : State) (t : Nat), s.dev.isStopped (13 * 4096) = false → s.dev.ready = true → s.dev.active t = true → s.dev.sec.td = none → s.dev.sec.tdWait = [] →
    let d := s.dev.tdBump t
    let d1 : Dev := { d with sec := { d.sec with td := some ⟨t, 5, d.gen t⟩ } }
    (s.dev.asked (.removeTenant t) = true → exec (.removeTenant t) s = .next (s.went (((d1.tdStop t).tdDma t).tdUnbind t))) ∧ (s.dev.tdBump t).gen t = s.dev.gen t + 1) ∧
  (∀ (s : State) (t : Teardown), s.dev.sec.td = some t → t.step = 5 → s.dev.residue = 0 →
    exec .teardownResidueClear s = .next (s.wentQ (s.qb.clear (fun x => decide (x = t.ten))) (s.dev.tdFinish t).tdNext)) ∧
  (∀ (s : State) (k : Nat), s.dev.isStopped (13 * 4096) = false → s.dev.awake = true →
    let z := zeroed (min k s.dev.zeroPend) s.dev.sec.zero
    let e := (z.1.foldl Dev.zeroDone { s.dev with sec := { s.dev.sec with zero := z.2 } }).bump (rk 0x01100040 0) 64 (min k s.dev.zeroPend)
    exec (.zeroFill k) s = .next (s.went e) ∧ e.zeroPend + min k s.dev.zeroPend = s.dev.zeroPend))

/-- Evidence (R303, R355, R357): GET_REPORT counts itself and answers the report over the nonce with its signature; GET_CERT answers the certificate
section; SPDM_REQUEST is answered over DOE; a key exchange that completes makes its function's IDE stream secure, and one that does not changes nothing. -/
def Obligations.EvidenceIsAnswered : Prop :=
  ∀ s : State, s.dev.isStopped (13 * 4096) = false →
    let d := s.dev
    (∀ nonce t nw, d.ready = true → nonce.length = 64 → nw = true ∨ d.active t = true →
      let who := if nw then none else some t
      d.mgmtRoom 0x0105 (6264 + 80 * (d.repEntries who).length) = true →
      let d1 := d.bump (rk 0x01100018 0) 64 1
      exec (.getReport nonce t nw) s = .next (s.went (d1.mgmtDone 0x0105 0
        (d1.repBody nonce who ++ sliceB (Config.falconSign (d1.layerSeed "ALIAS") (d1.repBody nonce who)) 0 1280)))) ∧
    (d.ready = true → d.mgmtRoom 0x0106 (pad8 d.sec.cert).length = true → (s.dev.asked .getCert = true → exec .getCert s = .next (s.went (d.mgmtDone 0x0106 0 d.sec.cert)))) ∧
    (∀ req, d.dma.linkup = true → d.sec.identity = true → exec (.spdmRequest req) s = .next (s.went (({ d with free := d.free + 1 }).emit
      (.doe (Config.spdmRespond d.free (d.layerSeed "SPDM") Config.romSha d.sec.fwSha d.sec.imgSha req))))) ∧
    (∀ st fn msgs, d.dma.linkup = true → d.sec.identity = true → fn < 17 → st < 256 →
      (mget d.dma.ides st = none ∧ d.dma.ides.length < 17) ∨ (∃ x, mget d.dma.ides st = some x ∧ x.fn = fn) →
      exec (.ideKm st fn msgs) s = .next (s.went (if Config.ideKmCompletes msgs then { d with dma := { d.dma with ides := mset d.dma.ides st ⟨fn, true⟩ } } else d)))

/-- Loads (R78 to R81, R152, R153, R346): LOAD_PROGRAM and LOAD_TABLE of an image that passes its checks into an empty slot load it with its digest and
log event; UNLOAD_PROGRAM and UNLOAD_TABLE begin to drain a loaded slot, and complete when nothing uses it; SET_PROJECTION takes a reader handle on the
region's current version, and bindings of the region that it meets give way; CLEAR_PROJECTION ends the binding.

Images (R387, R408): IMAGE_WRITE within the slot that the selector does not name begins its NOR steps, an erase first at the start of a 64 KiB block;
IMAGE_COMMIT of a slot that passes the checks begins the program of the selector, and of one that does not is refused, with ST_INTEGRITY where a signature
fails; each that began completes with its last step. -/
def Obligations.LoadsAndImages : Prop :=
  (∀ s : State, s.dev.ready = true →
    let d := s.dev
    (∀ im, spCheck im d.admitted = none → let i := fld (leAt im 0 16) 8 6
      mget d.atn.progs i = none →
      (s.dev.asked (.loadProgram im) = true → exec (.loadProgram im) s = .next (s.went ((({ d with atn := { d.atn with progs := mset d.atn.progs i ⟨1, im, shake256 64 im⟩ } }).mlog (spEvent im 0)
        (shake256 64 im)).mgmtDone 0x0401 0 [])))) ∧
    (∀ i p, i ≠ 0 → mget d.atn.progs i = some p → p.state = 1 →
      (s.dev.asked (.unloadProgram i) = true → exec (.unloadProgram i) s = .next (s.went (({ d with atn := { d.atn with progs := mset d.atn.progs i { p with state := 2 } }, pwr := { d.pwr with waits := d.pwr.waits ++ [MWait.unloadProgram i] } }).drainProgs)))) ∧
    (∀ im i, tblCheck im (fun slot ef => d.cmp.any (fun e => decide (e.1 ≠ slot ∧ e.2.state = 1 ∧ tblEfmt e.2.image = ef ∧
        fld (leAt e.2.image 0 16) 14 1 = 1))) = none → i = fld (leAt im 0 16) 8 3 → mget d.cmp i = none →
      let h := leAt im 0 16
      (s.dev.asked (.loadTable im) = true → exec (.loadTable im) s = .next (s.went ((({ d with cmp := mset d.cmp i ⟨1, im, shake256 64 im, 0⟩ }).mlog
        (pack [(0, 8, 5), (8, 6, i), (32, 8, fld h 16 8), (40, 3, fld h 11 3)]) (shake256 64 im)).mgmtDone 0x0403 0 [])))) ∧
    (∀ i t, mget d.cmp i = some t → t.state = 1 →
      (s.dev.asked (.unloadTable i) = true → exec (.unloadTable i) s = .next (s.went (({ d with cmp := mset d.cmp i { t with state := 2 }, pwr := { d.pwr with waits := d.pwr.waits ++ [MWait.unloadTable i] } }).endTable i)))) ∧
    (∀ t a n nq dc lc r i g, d.active t = true → a + n < 1024 → 1 ≤ nq → nq ≤ 1024 → dc < 5 → lc < 4 → d.projFits t n nq dc lc r = true →
      d.trn.fenced = false → (∀ p ∈ d.shp.projs, projMeets p t a n = true → p.region = r) → d.readerSlot = some i → mget d.shp.regions r = some g →
      let d1 : Dev := { d with shp := { d.shp with
        readers := mset d.shp.readers i ⟨mgetD d.shp.readerGen i 0, r, g.current, d.pwr.node, 31⟩
        projs := d.shp.projs.map (fun p => if projMeets p t a n then { p with live := false } else p) ++ [⟨t, a, n, nq, dc, lc, r, i, true⟩] } }
      (s.dev.asked (.setProjection t a n nq dc lc r) = true → exec (.setProjection t a n nq dc lc r) s = .next (s.went ((d1.mlog (d1.projEvent t r g.current a n 0) (d1.verDigest r g.current)).mgmtDone 0x0405 0 [])))) ∧
    (∀ t a n p rd, d.active t = true → d.shp.projs.find? (fun p => p.live && decide (p.ten = t ∧ p.first = a ∧ p.nlm1 = n)) = some p →
      mget d.shp.readers p.reader = some rd →
      let d1 : Dev := { d with shp := { d.shp with projs := d.shp.projs.map (fun p =>
        if p.live && decide (p.ten = t ∧ p.first = a ∧ p.nlm1 = n) then { p with live := false } else p) } }
      (s.dev.asked (.clearProjection t a n) = true → exec (.clearProjection t a n) s = .next (s.went ((d1.mlog (d1.projEvent t p.region rd.ver a n 1) (d1.verDigest p.region rd.ver)).mgmtDone 0x0406 0 []))))) ∧
  (∀ s : State, s.dev.ready = true → s.dev.pwr.norOp = [] →
    (∀ off bs, 0 < bs.length → bs.length ≤ 60 * 1024 → off + bs.length ≤ 0x02000000 →
      let a := 0x02000000 * spareSlot s.nor + off
      (s.dev.asked (.imageWrite off bs) = true → exec (.imageWrite off bs) s = .next (s.went { s.dev with pwr := { s.dev.pwr with
        norOp := (if off % 65536 = 0 then [NorStep.erase a] else []) ++ norPrograms bs.length a bs, norOpc := 0x0503 } }))) ∧
    (s.dev.asked .imageCommit = true → exec .imageCommit s = .next (s.went (match imageCheck s.nor (spareSlot s.nor) Dev.reset with
      | .ok _ => { s.dev with pwr := { s.dev.pwr with norOp := [selNext s.nor (spareSlot s.nor)], norOpc := 0x0504 } }
      | .error (f, _) => s.dev.mgmtDone 0x0504 (stCode (if f = 3 ∨ f = 4 then .integrity else .shape)) []))))

/-- Management commands are turned away (R394): while the node does not take commands, none of those that its management core runs has an effect. -/
def Obligations.NotReadyTurnsCommandsAway : Prop :=
  ∀ (s : State), s.dev.ready = false →
    ∀ c : Instr, (∃ a, c = .qpCreate a) ∨ (∃ n, c = .qpDestroy n) ∨ (∃ n, c = .qpClear n) ∨ (∃ i e, c = .keyCreate i e) ∨ (∃ i, c = .keyDestroy i) ∨
      (∃ e b m, c = .setFence e b m) ∨ (∃ e, c = .unfence e) ∨ (∃ i, c = .clearPolicer i) ∨ (∃ t q, c = .setTenantQuantum t q) ∨
      (∃ i p, c = .createRegion i p) ∨ (∃ i, c = .deleteRegion i) ∨ (∃ n, c = .abortOwner n) ∨ (∃ t q a b, c = .setPlacement t q a b) ∨
      (∃ t n fs, c = .setMirror t ⟨n, fs⟩) ∨ (∃ a b e, c = .reconcile a b e) ∨ (∃ a b, c = .adoptHome a b) ∨ (∃ t f, c = .promote t f) ∨
      (∃ a b e, c = .fillSpare a b e) ∨ (∃ a b e f g, c = .admitTenant a b e f g) ∨ (∃ t, c = .removeTenant t) ∨ (∃ a b, c = .setFabricKey a b) ∨
      (∃ a b e f g, c = .setConnKey a b e f g) ∨ (∃ a b e, c = .getReport a b e) ∨ c = .getCert ∨ (∃ im, c = .loadProgram im) ∨ (∃ i, c = .unloadProgram i) ∨
      (∃ im, c = .loadTable im) ∨ (∃ i, c = .unloadTable i) ∨ (∃ w, c = .dirPut w) ∨ (∃ i, c = .dirRead i) ∨ (∃ a b, c = .imageWrite a b) ∨ c = .imageCommit →
    exec c s = .next (s.went s.dev)

/-! ### The machine as a whole -/

/-- A step takes the command at the front of the queue and runs it on the state with the rest; with an empty queue the node idles, which is
this model's choice (log entry 1, DESIGN CHOICE). The table's rows give no bits, so no word spells a command. What a command makes of the node then
goes on (`Dev.after`), and a command that finds a journalled event changes nothing where the journal's queue of 64 is full and its block's port is taken
(R377; log entry 91, the model's reading). -/
def Obligations.StepRunsFrontCommand : Prop :=
  (∀ (c : Instr) (r : List Instr) (s : State), step { s with pending := c :: r } = exec c { s with pending := r }) ∧
  (∀ s : State, s.pending = [] → step s = .next s) ∧
  (∀ (s : State) (nbits w : Nat), Sys2Proof.decodeTableWord nbits w = none ∧ s.withFetchWord nbits w = s) ∧
  (∀ (s : State) (d : Dev), (s.dev.portHeld d = true → s.went d = s) ∧ (s.dev.portHeld d = false → s.went d = { s with dev := d.after s.qb }) ∧
    (s.dev.rcv.jq.length < 64 → s.dev.portHeld d = false))

/-- What power leaves (R388, R402, Table 0.10, Table 4.11): the node has not started, PERST# and NODE_RST# are low, no function is enabled,
no tenant, sequence, QP, program or journal entry exists, every stored register field is 0 but CAP of the eight region registers, and the
three invariants below hold. The pins and the registers whose reset value the manual does not give are this model's (log entries 4, 7). -/
def Obligations.ResetHolds : Prop :=
  let s := State.reset
  s.pending = [] ∧ s.phys.levelsOk ∧ s.memoriesOk ∧ s.phys.scan = s.phys ∧
  s.dev.pwr.state = .starting ∧ s.phys.pwrok = false ∧ s.phys.perst = true ∧ s.phys.nodeRst = true ∧
  (∀ f, (s.dev.fn f).enable = false ∧ (s.dev.fn f).sqs = [] ∧ (s.dev.fn f).cqs = []) ∧
  s.dev.pgm.seqs = [] ∧ s.dev.trn.qps = [] ∧ s.dev.atn.progs = [] ∧ s.dev.atn.table = [] ∧ s.dev.cmp = [] ∧ s.qb.tags = [] ∧
  (∀ n < 8, s.dev.reg (rk (0x00400008 + 0x100 * n) 0) = 0xFFFF) ∧
  (∀ k, (∀ n < 8, k ≠ rk (0x00400008 + 0x100 * n) 0) → s.dev.reg k = 0)

/-- Regulator levels of core dies stay within 0 to 4 and cluster levels within 0 to 2 over every step (Table 4.6, Table 15.9). -/
def Obligations.LevelsStayLegal : Prop :=
  ∀ s t : State, s.phys.levelsOk → step s = .next t → t.phys.levelsOk

/-- The query buffer (R36) and the NOR (R408) keep their canonical form over every step, so equal memories are equal data; the form is this
model's (log entries 5, 6). -/
def Obligations.MemoriesStayCanonical : Prop :=
  ∀ s t : State, s.memoriesOk → step s = .next t → t.memoriesOk

/-- Boundary scan (R404): after every step the mode in force is the one that the instruction register and NODE_RST# give, so the pins are
taken over (EXTEST, CLAMP, HIGHZ) only while NODE_RST# is low. -/
def Obligations.ScanModeFollowsNodeReset : Prop :=
  ∀ s t : State, s.phys.scan = s.phys → step s = .next t →
    t.phys.scan = t.phys ∧ (t.phys.jmode = .extest ∨ t.phys.jmode = .clamp ∨ t.phys.jmode = .highz → t.phys.nodeRst = true)

/-- The one command that stops the model is power rising with a rail out of regulation, under which no rule holds (R400): every other
command in every state answers a next state, none is refused, and none touches the queue. -/
def Obligations.OnlyBadRailsStop : Prop :=
  ∀ (c : Instr) (s : State), (c ≠ .pwrokRise false → ∃ t, exec c s = .next t ∧ t.pending = s.pending) ∧
    (c = .pwrokRise false → exec c s = .fault .railsVoid)

/-- Frames of the memories and the pins. The NOR changes at no command but NOR_STATUS_POLL, by which a committed image is written (R387,
R408); the journal's MRAM only where entries commit and where the node resets or starts; the signals and the test port only at the pins'
and the sideband's commands, boundary scan, the sensors and what resets the chip, and a register read may clear a peak there. -/
def Obligations.MemoriesChangeOnlyByTheirCommands : Prop :=
  ∀ (c : Instr) (s t : State), exec c s = .next t →
    ((∀ a b, c ≠ .norStatusPoll a b) → t.nor = s.nor) ∧
    (match c with
      | .contextReset .. => True
      | .engineReset .. => True
      | .partitionReset .. => True
      | .computeOnlyChipReset .. => True
      | .fullChipReset _ => True
      | .powerCycle => True
      | .reset .. => True
      | .journalCommitDone _ => True
      | .perstRelease _ => True
      | .nodeRstRelease _ => True
      | .chipReset .. => True
      | _ => t.mram = s.mram) ∧
    (match c with
      | .rcRegisterRead .. => t.phys.pwrok = s.phys.pwrok ∧ t.phys.perst = s.phys.perst ∧ t.phys.nodeRst = s.phys.nodeRst ∧
          t.phys.ir = s.phys.ir ∧ t.phys.bsr = s.phys.bsr ∧ t.phys.i3cDyn = s.phys.i3cDyn
      | .regulatorLevelChange .. => t.phys.pwrok = s.phys.pwrok ∧ t.phys.nodeRst = s.phys.nodeRst ∧ t.phys.cls = s.phys.cls
      | .clusterLevelChange .. => t.phys.pwrok = s.phys.pwrok ∧ t.phys.nodeRst = s.phys.nodeRst ∧ t.phys.dies = s.phys.dies
      | .fullChipReset _ => True
      | .powerCycle => True
      | .reset .. => True
      | .perstRelease _ => True
      | .nodeRstRelease _ => True
      | .chipReset .. => True
      | .powerLoss => True
      | .pwrokRise _ => True
      | .perstAssert => True
      | .nodeRstAssert => True
      | .dynamicAddress _ => True
      | .extest => True
      | .idcode => True
      | .samplePreload _ => True
      | .clamp => True
      | .highz => True
      | .bypass _ => True
      | _ => t.phys = s.phys)

/-- What goes on after a command, in a node where nothing waits (log entry 1, DESIGN CHOICE): only the pressure flags of the two tiers and the page-runs set
aside for want of room are brought up to date (R177, R178). -/
def Obligations.AfterACalmCommand : Prop :=
  ∀ (d : Dev) (qb : QBuf), d.calm → d.after qb = d.pressure ∧ d.onlyIn [.plc] (d.after qb)

/-- R14: of the conditions that the node knows of at one point it reports one that comes first in the order, and reports one whenever there
is any. A program fault has the fourth place at admission and the last one during execution. -/
def Obligations.TheFirstConditionIsReported : Prop :=
  (∀ (x : Bool) (l : List (St × Nat)), firstCond x l = none ↔ l = []) ∧
  (∀ (x : Bool) (l : List (St × Nat)) (c : St × Nat), firstCond x l = some c → c ∈ l ∧ ∀ e ∈ l, stRank x c.1 ≤ stRank x e.1) ∧
  [St.fenced, .keyRevoked, .shape, .programFault, .quota, .refusedCapacity, .notHome, .orphaned, .mirrorLost, .integrity, .tierError].map
    (stRank false) = [1, 2, 3, 4, 5, 6, 7, 8, 9, 10, 11] ∧
  [St.fenced, .keyRevoked, .shape, .quota, .refusedCapacity, .notHome, .orphaned, .mirrorLost, .integrity, .tierError, .programFault].map
    (stRank true) = [1, 2, 3, 5, 6, 7, 8, 9, 10, 11, 12]

/-- R38: bytes placed in the query buffer read back, leave every other byte as it was, tag every granule they touch with the tenant and its
key generation and leave the other tags; a teardown's clear leaves the tenant's granules zero and without a tag, and every other tenant's
tags and the bytes of granules without a tag of the tenant; a full chip reset leaves no tag.

R38: a tenon whose query lies in the query buffer, in a granule that carries another tag than its tenant's with its key generation or
none, meets ST_KEY_REVOKED, and TENON turns it away: with ST_FENCED on a fenced node, and otherwise with ST_KEY_REVOKED (R14). -/
def Obligations.GranuleTags : Prop :=
  ((∀ (q : QBuf) (a ten gen : Nat) (bs : Bytes), bs ≠ [] →
    (q.place a ten gen bs).read a bs.length = bs ∧
    (∀ j, j < a ∨ a + bs.length ≤ j → memGet sramByte (q.place a ten gen bs).mem j = memGet sramByte q.mem j) ∧
    (∀ g, mget (q.place a ten gen bs).tags g = if a / 64 ≤ g ∧ g ≤ (a + bs.length - 1) / 64 then some (ten, gen) else mget q.tags g)) ∧
  (∀ (q : QBuf) (ten g : Nat), risingFrom none q.tags = true →
    let t := q.clear (fun x => decide (x = ten))
    (∀ gen, mget q.tags g = some (ten, gen) → mget t.tags g = none ∧ ∀ j, j / 64 = g → memGet sramByte t.mem j = 0) ∧
    ((∀ gen, mget q.tags g ≠ some (ten, gen)) → mget t.tags g = mget q.tags g ∧ ∀ j, j / 64 = g → memGet sramByte t.mem j = memGet sramByte q.mem j)) ∧
  (∀ (env : StartEnv) (s : State), (fullChip env s).qb.tags = [])) ∧
  (∀ (s : State) (w : Work) (r : List Work) (i g : Nat), s.dev.isStopped (9 * 4096) = false → s.dev.atn.queue = w :: r → s.dev.freeTidx = some i →
    let t := parseTn w.desc
    let a := s.dev.qAddr t
    let d : Dev := { s.dev with atn := { s.dev.atn with queue := r, spoilt := s.dev.atn.spoilt.filter r.contains } }
    s.dev.rqpAway w.src t.rqp = false → s.dev.rqpOk w.src false t.rqp t.ten t.part = true → t.qinl = false → 0 < t.qlen → 64 * t.qoff + t.qlen ≤ s.dev.shareSize t.part →
    a / 64 ≤ g → g ≤ (a + t.qlen - 1) / 64 → mget s.qb.tags g ≠ some (t.ten, w.keygen) →
    exec .tenon s = .next (s.went ((d.tenonConds s.qb t w).2.turnAway i w t (if s.dev.trn.fenced then .fenced else .keyRevoked) 0)))

/-- GCM (R281, R339, R340): what is encrypted decrypts to itself under the same key, IV and additional data, for every key and text; and
a ciphertext with a tag other than its own gives nothing. -/
def Obligations.EncryptedBytesDecrypt : Prop :=
  ∀ (key iv aad pt : Bytes),
    let e := gcmEncrypt key iv aad pt
    e.1.length = pt.length ∧ gcmDecrypt key iv aad e.1 e.2 = some pt ∧ ∀ tag, tag ≠ e.2 → gcmDecrypt key iv aad e.1 tag = none

/-- Handles and status codes (Table 2.2, Table 0.13): the fields of a handle read back as they were put together, and every status is the
one its code names. -/
def Obligations.HandlesAndCodesReadBack : Prop :=
  (∀ slot node sgen : Nat, slot < 2 ^ 22 → node < 2 ^ 12 → sgen < 2 ^ 14 →
    hSlot (mkHandle slot node sgen) = slot ∧ hNode (mkHandle slot node sgen) = node ∧ hGen (mkHandle slot node sgen) = sgen) ∧
  (∀ st : St, stOf (stCode st) = st ∧ stCode st ≤ 11)
end

