-- ==== Sys2Proof/Laws/Frames.lean ====
section
/-! SUPPORT. What the operations over the whole state leave alone: the waiting commands, the NOR, and for resets the pins and the test
port. -/

namespace Sys2Proof.Machine

/-! ### Resets and start-up -/

theorem wakeFirst_frame (s : State) :
    (wakeFirst s).pending = s.pending ∧ (wakeFirst s).nor = s.nor ∧ (wakeFirst s).phys = s.phys := ⟨rfl, rfl, rfl⟩

theorem fullChip_frame (env : StartEnv) (s : State) :
    (fullChip env s).pending = s.pending ∧ (fullChip env s).nor = s.nor ∧
    (fullChip env s).phys = s.phys.lost ∧ (fullChip env s).qb = ⟨[], []⟩ := ⟨rfl, rfl, rfl, rfl⟩

/-- A reset leaves the waiting commands and the NOR; one below level 5 leaves the pins and the test port too. -/
theorem runReset_frame (r : ResetRun) (a g : Bool) (env : StartEnv) (s : State) :
    (runReset r a g env s).pending = s.pending ∧ (runReset r a g env s).nor = s.nor ∧
    (r.level ≤ 4 → (runReset r a g env s).phys = s.phys) := by
  unfold runReset
  by_cases h : r.level ≤ 4
  · simp only [h, if_true]
    exact ⟨rfl, rfl, fun _ => rfl⟩
  · simp only [h, if_false]
    by_cases h5 : r.level = 5
    · simp only [h5, if_true]; exact ⟨rfl, rfl, fun x => absurd x (by decide)⟩
    · simp only [h5, if_false]; exact ⟨rfl, rfl, fun x => absurd x (by simp)⟩

theorem driverReset_frame (level ckind target : Nat) (a g : Bool) (env : StartEnv) (s : State) :
    (driverReset level ckind target a g env s).pending = s.pending ∧ (driverReset level ckind target a g env s).nor = s.nor ∧
    (level ≤ 4 → (driverReset level ckind target a g env s).phys = s.phys) := by
  unfold driverReset
  split
  · exact ⟨rfl, rfl, fun _ => rfl⟩
  · split
    · exact runReset_frame _ _ _ _ _
    · exact ⟨rfl, rfl, fun _ => rfl⟩

theorem mgmtReset_frame (level ckind target : Nat) (a g : Bool) (env : StartEnv) (s : State) :
    (mgmtReset level ckind target a g env s).pending = s.pending ∧ (mgmtReset level ckind target a g env s).nor = s.nor ∧
    (level ≤ 4 → (mgmtReset level ckind target a g env s).phys = s.phys) := by
  unfold mgmtReset
  split
  · exact ⟨rfl, rfl, fun _ => rfl⟩
  · split
    · exact runReset_frame _ _ _ _ _
    · exact ⟨rfl, rfl, fun _ => rfl⟩

theorem releaseStep_frame (env : StartEnv) (p : Phys) (s : State) :
    (releaseStep env p s).pending = s.pending ∧ (releaseStep env p s).nor = s.nor := by
  unfold releaseStep
  dsimp only
  split <;> exact ⟨rfl, rfl⟩

theorem pinAssert_frame (p : Phys) (s : State) :
    (pinAssert p s).pending = s.pending ∧ (pinAssert p s).nor = s.nor ∧ (pinAssert p s).mram = s.mram := by
  unfold pinAssert
  dsimp only
  split <;> exact ⟨rfl, rfl, rfl⟩

/-! ### Reads and the sideband -/

/-- A read of a register leaves the memories, and of the pins and the test port all but a peak temperature. -/
theorem regRead_frame (win : Window) (off width : Nat) (s : State) :
    (regRead win off width s).pending = s.pending ∧ (regRead win off width s).nor = s.nor ∧ (regRead win off width s).mram = s.mram ∧
    (regRead win off width s).qb = s.qb ∧
    ((regRead win off width s).phys = s.phys ∨ (regRead win off width s).phys = s.phys.clearPeak off) := by
  unfold regRead
  dsimp only
  split
  · exact ⟨rfl, rfl, rfl, rfl, .inl rfl⟩
  · cases win with
    | bar0 =>
      dsimp only
      split
      · exact ⟨rfl, rfl, rfl, rfl, .inl rfl⟩
      · unfold State.clears
        split
        · exact ⟨rfl, rfl, rfl, rfl, .inl rfl⟩
        · exact ⟨rfl, rfl, rfl, rfl, .inr rfl⟩
    | bar2 f =>
      dsimp only
      split <;> exact ⟨rfl, rfl, rfl, rfl, .inl rfl⟩
    | bar4 f =>
      dsimp only
      split <;> exact ⟨rfl, rfl, rfl, rfl, .inl rfl⟩

theorem i3cSend_frame (s : State) (bs : Bytes) :
    (s.i3cSend bs).pending = s.pending ∧ (s.i3cSend bs).nor = s.nor ∧ (s.i3cSend bs).mram = s.mram ∧ (s.i3cSend bs).qb = s.qb ∧
    (s.i3cSend bs).phys = s.phys := by
  unfold State.i3cSend
  split <;> exact ⟨rfl, rfl, rfl, rfl, rfl⟩

/-! ### Boundary scan -/

/-- The mode in force is settled by one look at NODE_RST#, whatever was in force. -/
@[simp] theorem Phys.scan_scan (p : Phys) : p.scan.scan = p.scan := rfl
@[simp] theorem Phys.scan_load (p : Phys) (code : Byte) : (p.load code).scan = p.load code := rfl
@[simp] theorem Phys.scan_nodeRst (p : Phys) : p.scan.nodeRst = p.nodeRst := rfl
@[simp] theorem Phys.scan_dies (p : Phys) : p.scan.dies = p.dies := rfl
@[simp] theorem Phys.scan_cls (p : Phys) : p.scan.cls = p.cls := rfl

end Sys2Proof.Machine
end

