-- ==== Sys2Proof/Laws/Maps.lean ====
section
/-! SUPPORT. The laws of sparse maps and of byte memory: reading after writing, and the canonical form that every write keeps. -/

namespace Sys2Proof.Machine

variable {α : Type}

/-! ### Sparse maps -/

@[simp] theorem mget_nil (k : Nat) : mget ([] : NMap α) k = none := rfl

@[simp] theorem mget_mset_self (m : NMap α) (k : Nat) (v : α) : mget (mset m k v) k = some v := by
  induction m with
  | nil => simp [mset, mget]
  | cons e r ih =>
    obtain ⟨i, u⟩ := e
    unfold mset
    split
    · simp [mget]
    · split
      · simp [mget]
      · rename_i h; simp [mget, h, ih]

theorem mget_mset_ne (m : NMap α) (k j : Nat) (v : α) (h : j ≠ k) : mget (mset m k v) j = mget m j := by
  induction m with
  | nil => simp [mset, mget, Ne.symm h]
  | cons e r ih =>
    obtain ⟨i, u⟩ := e
    unfold mset
    split
    · simp [mget, Ne.symm h]
    · split
      · rename_i hik; subst hik; simp [mget, Ne.symm h]
      · simp [mget, ih]

theorem mget_mset (m : NMap α) (k j : Nat) (v : α) : mget (mset m k v) j = if j = k then some v else mget m j := by
  by_cases h : j = k
  · subst h; simp
  · simp [h, mget_mset_ne m k j v h]

@[simp] theorem mget_mdel_self (m : NMap α) (k : Nat) : mget (mdel m k) k = none := by
  induction m with
  | nil => rfl
  | cons e r ih =>
    obtain ⟨i, u⟩ := e
    by_cases h : i = k
    · simpa [mdel, h] using ih
    · simp only [mdel, List.filter_cons] at ih ⊢
      simpa [h, mget] using ih

theorem mget_mdel_ne (m : NMap α) (k j : Nat) (h : j ≠ k) : mget (mdel m k) j = mget m j := by
  induction m with
  | nil => rfl
  | cons e r ih =>
    obtain ⟨i, u⟩ := e
    by_cases hi : i = k
    · subst hi; simpa [mdel, mget, Ne.symm h] using ih
    · simp only [mdel, List.filter_cons] at ih ⊢
      have : mget (List.filter (fun e : Nat × α => !decide (e.fst = k)) r) j = mget r j := by simpa using ih
      simp [hi, mget, this]

theorem mget_mmod_self (m : NMap α) (k : Nat) (f : α → α) : mget (mmod m k f) k = (mget m k).map f := by
  unfold mmod; split <;> simp_all

theorem mget_mmod_ne (m : NMap α) (k j : Nat) (f : α → α) (h : j ≠ k) : mget (mmod m k f) j = mget m j := by
  unfold mmod; split
  · rfl
  · exact mget_mset_ne m k j _ h

theorem mget_mmap {β : Type} (m : NMap α) (f : Nat → α → β) (k : Nat) : mget (mmap m f) k = (mget m k).map (f k) := by
  induction m with
  | nil => rfl
  | cons e r ih =>
    obtain ⟨i, u⟩ := e
    by_cases h : i = k
    · subst h; simp [mmap, mget]
    · simpa [mmap, mget, h] using ih

@[simp] theorem mgetD_mset_self (m : NMap α) (k : Nat) (v x : α) : mgetD (mset m k v) k x = v := by simp [mgetD]

theorem mgetD_mset_ne (m : NMap α) (k j : Nat) (v x : α) (h : j ≠ k) : mgetD (mset m k v) j x = mgetD m j x := by
  simp [mgetD, mget_mset_ne m k j v h]

@[simp] theorem mgetD_nset_self (m : NMap Nat) (k v : Nat) : mgetD (nset m k v) k 0 = v := by
  unfold nset; split <;> simp_all [mgetD]

theorem mgetD_nset_ne (m : NMap Nat) (k j v : Nat) (h : j ≠ k) : mgetD (nset m k v) j 0 = mgetD m j 0 := by
  unfold nset; split
  · simp [mgetD, mget_mdel_ne m k j h]
  · exact mgetD_mset_ne m k j v 0 h

/-! ### Rising keys -/

/-- Keys rise from a bound: every key is above it, and the list rises. -/
def above : Option Nat → Nat → Prop
  | none, _ => True
  | some j, k => j < k

theorem risingFrom_cons (p : Option Nat) (i : Nat) (u : α) (r : List (Nat × α)) :
    risingFrom p ((i, u) :: r) = true ↔ above p i ∧ risingFrom (some i) r = true := by
  cases p <;> simp [risingFrom, above]

theorem risingFrom_weaken {p q : Option Nat} {m : List (Nat × α)} (h : risingFrom p m = true) (hq : ∀ k, above p k → above q k) :
    risingFrom q m = true := by
  cases m with
  | nil => rfl
  | cons e r =>
    obtain ⟨i, u⟩ := e
    rw [risingFrom_cons] at h ⊢
    exact ⟨hq _ h.1, h.2⟩

theorem risingFrom_mset (m : NMap α) (p : Option Nat) (k : Nat) (v : α) (h : risingFrom p m = true) (hk : above p k) :
    risingFrom p (mset m k v) = true := by
  induction m generalizing p with
  | nil => simp [mset, risingFrom_cons, hk]; rfl
  | cons e r ih =>
    obtain ⟨i, u⟩ := e
    rw [risingFrom_cons] at h
    unfold mset
    split
    · rename_i hki
      rw [risingFrom_cons, risingFrom_cons]
      exact ⟨hk, hki, h.2⟩
    · split
      · rename_i hik; subst hik
        rw [risingFrom_cons]; exact ⟨hk, h.2⟩
      · rename_i h1 h2
        rw [risingFrom_cons]
        exact ⟨h.1, ih (some i) h.2 (show i < k by omega)⟩

theorem risingFrom_filter (m : NMap α) (p : Option Nat) (f : Nat × α → Bool) (h : risingFrom p m = true) :
    risingFrom p (m.filter f) = true := by
  induction m generalizing p with
  | nil => rfl
  | cons e r ih =>
    obtain ⟨i, u⟩ := e
    rw [risingFrom_cons] at h
    simp only [List.filter_cons]
    split
    · rw [risingFrom_cons]; exact ⟨h.1, ih _ h.2⟩
    · refine ih p (risingFrom_weaken h.2 ?_)
      intro k hk
      cases p with
      | none => trivial
      | some j => exact Nat.lt_trans h.1 hk

theorem mset_all (m : NMap α) (k : Nat) (v : α) (f : Nat × α → Bool) (h : m.all f = true) (hv : f (k, v) = true) :
    (mset m k v).all f = true := by
  induction m with
  | nil => simp [mset, hv]
  | cons e r ih =>
    obtain ⟨i, u⟩ := e
    simp only [List.all_cons, Bool.and_eq_true] at h
    unfold mset
    split
    · simp_all
    · split <;> simp_all

/-! ### Byte memory -/

/-- A write of one byte keeps the canonical form. -/
theorem memSet_wf (d : Byte) (m : Memory) (a : Nat) (b : Byte) (h : Memory.wf d m = true) : Memory.wf d (memSet d m a b) = true := by
  simp only [Memory.wf, Bool.and_eq_true] at h ⊢
  unfold memSet
  split
  · refine ⟨risingFrom_filter m none _ h.1, ?_⟩
    simp only [mdel, List.all_eq_true] at h ⊢
    intro x hx
    exact h.2 x (List.mem_filter.mp hx).1
  · rename_i hb
    exact ⟨risingFrom_mset m none a b h.1 trivial, mset_all m a b _ h.2 (by simp [hb])⟩

/-- A write of a string of bytes keeps the canonical form. -/
theorem memWrite_wf (d : Byte) (bs : Bytes) (m : Memory) (a : Nat) (h : Memory.wf d m = true) : Memory.wf d (memWrite d m a bs) = true := by
  induction bs generalizing m a with
  | nil => exact h
  | cons b r ih => exact ih _ _ (memSet_wf d m a b h)

@[simp] theorem memGet_memSet_self (d : Byte) (m : Memory) (a : Nat) (b : Byte) : memGet d (memSet d m a b) a = b := by
  unfold memGet memSet; split <;> simp_all

theorem memGet_memSet_ne (d : Byte) (m : Memory) (a j : Nat) (b : Byte) (h : j ≠ a) : memGet d (memSet d m a b) j = memGet d m j := by
  unfold memGet memSet; split
  · rw [mget_mdel_ne m a j h]
  · rw [mget_mset_ne m a j b h]

/-- A write leaves every byte outside it alone. -/
theorem memGet_memWrite_out (d : Byte) (bs : Bytes) (m : Memory) (a j : Nat) (h : j < a ∨ a + bs.length ≤ j) :
    memGet d (memWrite d m a bs) j = memGet d m j := by
  induction bs generalizing m a with
  | nil => rfl
  | cons b r ih =>
    simp only [List.length_cons] at h
    unfold memWrite
    rw [ih _ _ (by omega), memGet_memSet_ne d m a j b (by omega)]

/-- Reading the string just written gives it back. -/
theorem memRead_memWrite (d : Byte) (bs : Bytes) (m : Memory) (a : Nat) : memRead d (memWrite d m a bs) a bs.length = bs := by
  induction bs generalizing m a with
  | nil => rfl
  | cons b r ih =>
    simp only [List.length_cons, memRead, memWrite]
    rw [ih, memGet_memWrite_out d r _ (a + 1) a (by omega), memGet_memSet_self]

end Sys2Proof.Machine
end

