-- ==== Sys2Proof/Laws/State.lean ====
section
/-! SUPPORT. One lemma for each block of the device and each named update: which blocks an update leaves alone, true by computation. -/

namespace Sys2Proof.Machine

/-! ### Named updates -/

@[simp] theorem Dev.setReg_links (d : Dev) (k v : Nat) : (d.setReg k v).links = d.links := rfl
@[simp] theorem Dev.setReg_trn (d : Dev) (k v : Nat) : (d.setReg k v).trn = d.trn := rfl
@[simp] theorem Dev.setReg_tsh (d : Dev) (k v : Nat) : (d.setReg k v).tsh = d.tsh := rfl
@[simp] theorem Dev.setReg_waitq (d : Dev) (k v : Nat) : (d.setReg k v).waitq = d.waitq := rfl
@[simp] theorem Dev.setReg_dir (d : Dev) (k v : Nat) : (d.setReg k v).dir = d.dir := rfl
@[simp] theorem Dev.setReg_atn (d : Dev) (k v : Nat) : (d.setReg k v).atn = d.atn := rfl
@[simp] theorem Dev.setReg_bnk (d : Dev) (k v : Nat) : (d.setReg k v).bnk = d.bnk := rfl
@[simp] theorem Dev.setReg_pgm (d : Dev) (k v : Nat) : (d.setReg k v).pgm = d.pgm := rfl
@[simp] theorem Dev.setReg_plc (d : Dev) (k v : Nat) : (d.setReg k v).plc = d.plc := rfl
@[simp] theorem Dev.setReg_cmp (d : Dev) (k v : Nat) : (d.setReg k v).cmp = d.cmp := rfl
@[simp] theorem Dev.setReg_shp (d : Dev) (k v : Nat) : (d.setReg k v).shp = d.shp := rfl
@[simp] theorem Dev.setReg_dma (d : Dev) (k v : Nat) : (d.setReg k v).dma = d.dma := rfl
@[simp] theorem Dev.setReg_sec (d : Dev) (k v : Nat) : (d.setReg k v).sec = d.sec := rfl
@[simp] theorem Dev.setReg_rcv (d : Dev) (k v : Nat) : (d.setReg k v).rcv = d.rcv := rfl
@[simp] theorem Dev.setReg_pwr (d : Dev) (k v : Nat) : (d.setReg k v).pwr = d.pwr := rfl
@[simp] theorem Dev.setReg_out (d : Dev) (k v : Nat) : (d.setReg k v).out = d.out := rfl
@[simp] theorem Dev.setReg_free (d : Dev) (k v : Nat) : (d.setReg k v).free = d.free := rfl

@[simp] theorem Dev.bump_links (d : Dev) (k w n : Nat) : (d.bump k w n).links = d.links := rfl
@[simp] theorem Dev.bump_trn (d : Dev) (k w n : Nat) : (d.bump k w n).trn = d.trn := rfl
@[simp] theorem Dev.bump_tsh (d : Dev) (k w n : Nat) : (d.bump k w n).tsh = d.tsh := rfl
@[simp] theorem Dev.bump_waitq (d : Dev) (k w n : Nat) : (d.bump k w n).waitq = d.waitq := rfl
@[simp] theorem Dev.bump_dir (d : Dev) (k w n : Nat) : (d.bump k w n).dir = d.dir := rfl
@[simp] theorem Dev.bump_atn (d : Dev) (k w n : Nat) : (d.bump k w n).atn = d.atn := rfl
@[simp] theorem Dev.bump_bnk (d : Dev) (k w n : Nat) : (d.bump k w n).bnk = d.bnk := rfl
@[simp] theorem Dev.bump_pgm (d : Dev) (k w n : Nat) : (d.bump k w n).pgm = d.pgm := rfl
@[simp] theorem Dev.bump_plc (d : Dev) (k w n : Nat) : (d.bump k w n).plc = d.plc := rfl
@[simp] theorem Dev.bump_cmp (d : Dev) (k w n : Nat) : (d.bump k w n).cmp = d.cmp := rfl
@[simp] theorem Dev.bump_shp (d : Dev) (k w n : Nat) : (d.bump k w n).shp = d.shp := rfl
@[simp] theorem Dev.bump_dma (d : Dev) (k w n : Nat) : (d.bump k w n).dma = d.dma := rfl
@[simp] theorem Dev.bump_sec (d : Dev) (k w n : Nat) : (d.bump k w n).sec = d.sec := rfl
@[simp] theorem Dev.bump_rcv (d : Dev) (k w n : Nat) : (d.bump k w n).rcv = d.rcv := rfl
@[simp] theorem Dev.bump_pwr (d : Dev) (k w n : Nat) : (d.bump k w n).pwr = d.pwr := rfl
@[simp] theorem Dev.bump_out (d : Dev) (k w n : Nat) : (d.bump k w n).out = d.out := rfl
@[simp] theorem Dev.bump_free (d : Dev) (k w n : Nat) : (d.bump k w n).free = d.free := rfl

@[simp] theorem Dev.badWrite_links (d : Dev) : (d.badWrite).links = d.links := rfl
@[simp] theorem Dev.badWrite_trn (d : Dev) : (d.badWrite).trn = d.trn := rfl
@[simp] theorem Dev.badWrite_tsh (d : Dev) : (d.badWrite).tsh = d.tsh := rfl
@[simp] theorem Dev.badWrite_waitq (d : Dev) : (d.badWrite).waitq = d.waitq := rfl
@[simp] theorem Dev.badWrite_dir (d : Dev) : (d.badWrite).dir = d.dir := rfl
@[simp] theorem Dev.badWrite_atn (d : Dev) : (d.badWrite).atn = d.atn := rfl
@[simp] theorem Dev.badWrite_bnk (d : Dev) : (d.badWrite).bnk = d.bnk := rfl
@[simp] theorem Dev.badWrite_pgm (d : Dev) : (d.badWrite).pgm = d.pgm := rfl
@[simp] theorem Dev.badWrite_plc (d : Dev) : (d.badWrite).plc = d.plc := rfl
@[simp] theorem Dev.badWrite_cmp (d : Dev) : (d.badWrite).cmp = d.cmp := rfl
@[simp] theorem Dev.badWrite_shp (d : Dev) : (d.badWrite).shp = d.shp := rfl
@[simp] theorem Dev.badWrite_dma (d : Dev) : (d.badWrite).dma = d.dma := rfl
@[simp] theorem Dev.badWrite_sec (d : Dev) : (d.badWrite).sec = d.sec := rfl
@[simp] theorem Dev.badWrite_rcv (d : Dev) : (d.badWrite).rcv = d.rcv := rfl
@[simp] theorem Dev.badWrite_pwr (d : Dev) : (d.badWrite).pwr = d.pwr := rfl
@[simp] theorem Dev.badWrite_out (d : Dev) : (d.badWrite).out = d.out := rfl
@[simp] theorem Dev.badWrite_free (d : Dev) : (d.badWrite).free = d.free := rfl

@[simp] theorem Dev.emit_regs (d : Dev) (o : Output) : (d.emit o).regs = d.regs := rfl
@[simp] theorem Dev.emit_links (d : Dev) (o : Output) : (d.emit o).links = d.links := rfl
@[simp] theorem Dev.emit_trn (d : Dev) (o : Output) : (d.emit o).trn = d.trn := rfl
@[simp] theorem Dev.emit_tsh (d : Dev) (o : Output) : (d.emit o).tsh = d.tsh := rfl
@[simp] theorem Dev.emit_waitq (d : Dev) (o : Output) : (d.emit o).waitq = d.waitq := rfl
@[simp] theorem Dev.emit_dir (d : Dev) (o : Output) : (d.emit o).dir = d.dir := rfl
@[simp] theorem Dev.emit_atn (d : Dev) (o : Output) : (d.emit o).atn = d.atn := rfl
@[simp] theorem Dev.emit_bnk (d : Dev) (o : Output) : (d.emit o).bnk = d.bnk := rfl
@[simp] theorem Dev.emit_pgm (d : Dev) (o : Output) : (d.emit o).pgm = d.pgm := rfl
@[simp] theorem Dev.emit_plc (d : Dev) (o : Output) : (d.emit o).plc = d.plc := rfl
@[simp] theorem Dev.emit_cmp (d : Dev) (o : Output) : (d.emit o).cmp = d.cmp := rfl
@[simp] theorem Dev.emit_shp (d : Dev) (o : Output) : (d.emit o).shp = d.shp := rfl
@[simp] theorem Dev.emit_dma (d : Dev) (o : Output) : (d.emit o).dma = d.dma := rfl
@[simp] theorem Dev.emit_sec (d : Dev) (o : Output) : (d.emit o).sec = d.sec := rfl
@[simp] theorem Dev.emit_rcv (d : Dev) (o : Output) : (d.emit o).rcv = d.rcv := rfl
@[simp] theorem Dev.emit_pwr (d : Dev) (o : Output) : (d.emit o).pwr = d.pwr := rfl
@[simp] theorem Dev.emit_free (d : Dev) (o : Output) : (d.emit o).free = d.free := rfl

@[simp] theorem Dev.setFn_regs (d : Dev) (f : Nat) (x : Fn) : (d.setFn f x).regs = d.regs := rfl
@[simp] theorem Dev.setFn_links (d : Dev) (f : Nat) (x : Fn) : (d.setFn f x).links = d.links := rfl
@[simp] theorem Dev.setFn_trn (d : Dev) (f : Nat) (x : Fn) : (d.setFn f x).trn = d.trn := rfl
@[simp] theorem Dev.setFn_tsh (d : Dev) (f : Nat) (x : Fn) : (d.setFn f x).tsh = d.tsh := rfl
@[simp] theorem Dev.setFn_waitq (d : Dev) (f : Nat) (x : Fn) : (d.setFn f x).waitq = d.waitq := rfl
@[simp] theorem Dev.setFn_dir (d : Dev) (f : Nat) (x : Fn) : (d.setFn f x).dir = d.dir := rfl
@[simp] theorem Dev.setFn_atn (d : Dev) (f : Nat) (x : Fn) : (d.setFn f x).atn = d.atn := rfl
@[simp] theorem Dev.setFn_bnk (d : Dev) (f : Nat) (x : Fn) : (d.setFn f x).bnk = d.bnk := rfl
@[simp] theorem Dev.setFn_pgm (d : Dev) (f : Nat) (x : Fn) : (d.setFn f x).pgm = d.pgm := rfl
@[simp] theorem Dev.setFn_plc (d : Dev) (f : Nat) (x : Fn) : (d.setFn f x).plc = d.plc := rfl
@[simp] theorem Dev.setFn_cmp (d : Dev) (f : Nat) (x : Fn) : (d.setFn f x).cmp = d.cmp := rfl
@[simp] theorem Dev.setFn_shp (d : Dev) (f : Nat) (x : Fn) : (d.setFn f x).shp = d.shp := rfl
@[simp] theorem Dev.setFn_sec (d : Dev) (f : Nat) (x : Fn) : (d.setFn f x).sec = d.sec := rfl
@[simp] theorem Dev.setFn_rcv (d : Dev) (f : Nat) (x : Fn) : (d.setFn f x).rcv = d.rcv := rfl
@[simp] theorem Dev.setFn_pwr (d : Dev) (f : Nat) (x : Fn) : (d.setFn f x).pwr = d.pwr := rfl
@[simp] theorem Dev.setFn_out (d : Dev) (f : Nat) (x : Fn) : (d.setFn f x).out = d.out := rfl
@[simp] theorem Dev.setFn_free (d : Dev) (f : Nat) (x : Fn) : (d.setFn f x).free = d.free := rfl

@[simp] theorem Dev.modFn_regs (d : Dev) (f : Nat) (g : Fn → Fn) : (d.modFn f g).regs = d.regs := rfl
@[simp] theorem Dev.modFn_links (d : Dev) (f : Nat) (g : Fn → Fn) : (d.modFn f g).links = d.links := rfl
@[simp] theorem Dev.modFn_trn (d : Dev) (f : Nat) (g : Fn → Fn) : (d.modFn f g).trn = d.trn := rfl
@[simp] theorem Dev.modFn_tsh (d : Dev) (f : Nat) (g : Fn → Fn) : (d.modFn f g).tsh = d.tsh := rfl
@[simp] theorem Dev.modFn_waitq (d : Dev) (f : Nat) (g : Fn → Fn) : (d.modFn f g).waitq = d.waitq := rfl
@[simp] theorem Dev.modFn_dir (d : Dev) (f : Nat) (g : Fn → Fn) : (d.modFn f g).dir = d.dir := rfl
@[simp] theorem Dev.modFn_atn (d : Dev) (f : Nat) (g : Fn → Fn) : (d.modFn f g).atn = d.atn := rfl
@[simp] theorem Dev.modFn_bnk (d : Dev) (f : Nat) (g : Fn → Fn) : (d.modFn f g).bnk = d.bnk := rfl
@[simp] theorem Dev.modFn_pgm (d : Dev) (f : Nat) (g : Fn → Fn) : (d.modFn f g).pgm = d.pgm := rfl
@[simp] theorem Dev.modFn_plc (d : Dev) (f : Nat) (g : Fn → Fn) : (d.modFn f g).plc = d.plc := rfl
@[simp] theorem Dev.modFn_cmp (d : Dev) (f : Nat) (g : Fn → Fn) : (d.modFn f g).cmp = d.cmp := rfl
@[simp] theorem Dev.modFn_shp (d : Dev) (f : Nat) (g : Fn → Fn) : (d.modFn f g).shp = d.shp := rfl
@[simp] theorem Dev.modFn_sec (d : Dev) (f : Nat) (g : Fn → Fn) : (d.modFn f g).sec = d.sec := rfl
@[simp] theorem Dev.modFn_rcv (d : Dev) (f : Nat) (g : Fn → Fn) : (d.modFn f g).rcv = d.rcv := rfl
@[simp] theorem Dev.modFn_pwr (d : Dev) (f : Nat) (g : Fn → Fn) : (d.modFn f g).pwr = d.pwr := rfl
@[simp] theorem Dev.modFn_out (d : Dev) (f : Nat) (g : Fn → Fn) : (d.modFn f g).out = d.out := rfl
@[simp] theorem Dev.modFn_free (d : Dev) (f : Nat) (g : Fn → Fn) : (d.modFn f g).free = d.free := rfl

@[simp] theorem Dev.setQp_regs (d : Dev) (n : Nat) (q : Qp) : (d.setQp n q).regs = d.regs := rfl
@[simp] theorem Dev.setQp_links (d : Dev) (n : Nat) (q : Qp) : (d.setQp n q).links = d.links := rfl
@[simp] theorem Dev.setQp_tsh (d : Dev) (n : Nat) (q : Qp) : (d.setQp n q).tsh = d.tsh := rfl
@[simp] theorem Dev.setQp_waitq (d : Dev) (n : Nat) (q : Qp) : (d.setQp n q).waitq = d.waitq := rfl
@[simp] theorem Dev.setQp_dir (d : Dev) (n : Nat) (q : Qp) : (d.setQp n q).dir = d.dir := rfl
@[simp] theorem Dev.setQp_atn (d : Dev) (n : Nat) (q : Qp) : (d.setQp n q).atn = d.atn := rfl
@[simp] theorem Dev.setQp_bnk (d : Dev) (n : Nat) (q : Qp) : (d.setQp n q).bnk = d.bnk := rfl
@[simp] theorem Dev.setQp_pgm (d : Dev) (n : Nat) (q : Qp) : (d.setQp n q).pgm = d.pgm := rfl
@[simp] theorem Dev.setQp_plc (d : Dev) (n : Nat) (q : Qp) : (d.setQp n q).plc = d.plc := rfl
@[simp] theorem Dev.setQp_cmp (d : Dev) (n : Nat) (q : Qp) : (d.setQp n q).cmp = d.cmp := rfl
@[simp] theorem Dev.setQp_shp (d : Dev) (n : Nat) (q : Qp) : (d.setQp n q).shp = d.shp := rfl
@[simp] theorem Dev.setQp_dma (d : Dev) (n : Nat) (q : Qp) : (d.setQp n q).dma = d.dma := rfl
@[simp] theorem Dev.setQp_sec (d : Dev) (n : Nat) (q : Qp) : (d.setQp n q).sec = d.sec := rfl
@[simp] theorem Dev.setQp_rcv (d : Dev) (n : Nat) (q : Qp) : (d.setQp n q).rcv = d.rcv := rfl
@[simp] theorem Dev.setQp_pwr (d : Dev) (n : Nat) (q : Qp) : (d.setQp n q).pwr = d.pwr := rfl
@[simp] theorem Dev.setQp_out (d : Dev) (n : Nat) (q : Qp) : (d.setQp n q).out = d.out := rfl
@[simp] theorem Dev.setQp_free (d : Dev) (n : Nat) (q : Qp) : (d.setQp n q).free = d.free := rfl

@[simp] theorem Dev.enqueue_regs (d : Dev) (ps : List OutPkt) : (d.enqueue ps).regs = d.regs := rfl
@[simp] theorem Dev.enqueue_links (d : Dev) (ps : List OutPkt) : (d.enqueue ps).links = d.links := rfl
@[simp] theorem Dev.enqueue_trn (d : Dev) (ps : List OutPkt) : (d.enqueue ps).trn = d.trn := rfl
@[simp] theorem Dev.enqueue_tsh (d : Dev) (ps : List OutPkt) : (d.enqueue ps).tsh = d.tsh := rfl
@[simp] theorem Dev.enqueue_dir (d : Dev) (ps : List OutPkt) : (d.enqueue ps).dir = d.dir := rfl
@[simp] theorem Dev.enqueue_atn (d : Dev) (ps : List OutPkt) : (d.enqueue ps).atn = d.atn := rfl
@[simp] theorem Dev.enqueue_bnk (d : Dev) (ps : List OutPkt) : (d.enqueue ps).bnk = d.bnk := rfl
@[simp] theorem Dev.enqueue_pgm (d : Dev) (ps : List OutPkt) : (d.enqueue ps).pgm = d.pgm := rfl
@[simp] theorem Dev.enqueue_plc (d : Dev) (ps : List OutPkt) : (d.enqueue ps).plc = d.plc := rfl
@[simp] theorem Dev.enqueue_cmp (d : Dev) (ps : List OutPkt) : (d.enqueue ps).cmp = d.cmp := rfl
@[simp] theorem Dev.enqueue_shp (d : Dev) (ps : List OutPkt) : (d.enqueue ps).shp = d.shp := rfl
@[simp] theorem Dev.enqueue_dma (d : Dev) (ps : List OutPkt) : (d.enqueue ps).dma = d.dma := rfl
@[simp] theorem Dev.enqueue_sec (d : Dev) (ps : List OutPkt) : (d.enqueue ps).sec = d.sec := rfl
@[simp] theorem Dev.enqueue_rcv (d : Dev) (ps : List OutPkt) : (d.enqueue ps).rcv = d.rcv := rfl
@[simp] theorem Dev.enqueue_pwr (d : Dev) (ps : List OutPkt) : (d.enqueue ps).pwr = d.pwr := rfl
@[simp] theorem Dev.enqueue_out (d : Dev) (ps : List OutPkt) : (d.enqueue ps).out = d.out := rfl
@[simp] theorem Dev.enqueue_free (d : Dev) (ps : List OutPkt) : (d.enqueue ps).free = d.free := rfl

@[simp] theorem Dev.stop_regs (d : Dev) (e l : Nat) : (d.stop e l).regs = d.regs := rfl
@[simp] theorem Dev.stop_links (d : Dev) (e l : Nat) : (d.stop e l).links = d.links := rfl
@[simp] theorem Dev.stop_trn (d : Dev) (e l : Nat) : (d.stop e l).trn = d.trn := rfl
@[simp] theorem Dev.stop_tsh (d : Dev) (e l : Nat) : (d.stop e l).tsh = d.tsh := rfl
@[simp] theorem Dev.stop_waitq (d : Dev) (e l : Nat) : (d.stop e l).waitq = d.waitq := rfl
@[simp] theorem Dev.stop_dir (d : Dev) (e l : Nat) : (d.stop e l).dir = d.dir := rfl
@[simp] theorem Dev.stop_atn (d : Dev) (e l : Nat) : (d.stop e l).atn = d.atn := rfl
@[simp] theorem Dev.stop_bnk (d : Dev) (e l : Nat) : (d.stop e l).bnk = d.bnk := rfl
@[simp] theorem Dev.stop_pgm (d : Dev) (e l : Nat) : (d.stop e l).pgm = d.pgm := rfl
@[simp] theorem Dev.stop_plc (d : Dev) (e l : Nat) : (d.stop e l).plc = d.plc := rfl
@[simp] theorem Dev.stop_cmp (d : Dev) (e l : Nat) : (d.stop e l).cmp = d.cmp := rfl
@[simp] theorem Dev.stop_shp (d : Dev) (e l : Nat) : (d.stop e l).shp = d.shp := rfl
@[simp] theorem Dev.stop_dma (d : Dev) (e l : Nat) : (d.stop e l).dma = d.dma := rfl
@[simp] theorem Dev.stop_sec (d : Dev) (e l : Nat) : (d.stop e l).sec = d.sec := rfl
@[simp] theorem Dev.stop_pwr (d : Dev) (e l : Nat) : (d.stop e l).pwr = d.pwr := rfl
@[simp] theorem Dev.stop_out (d : Dev) (e l : Nat) : (d.stop e l).out = d.out := rfl
@[simp] theorem Dev.stop_free (d : Dev) (e l : Nat) : (d.stop e l).free = d.free := rfl

@[simp] theorem Dev.mlog_regs (d : Dev) (ev : Nat) (g : Bytes) : (d.mlog ev g).regs = d.regs := rfl
@[simp] theorem Dev.mlog_links (d : Dev) (ev : Nat) (g : Bytes) : (d.mlog ev g).links = d.links := rfl
@[simp] theorem Dev.mlog_trn (d : Dev) (ev : Nat) (g : Bytes) : (d.mlog ev g).trn = d.trn := rfl
@[simp] theorem Dev.mlog_tsh (d : Dev) (ev : Nat) (g : Bytes) : (d.mlog ev g).tsh = d.tsh := rfl
@[simp] theorem Dev.mlog_waitq (d : Dev) (ev : Nat) (g : Bytes) : (d.mlog ev g).waitq = d.waitq := rfl
@[simp] theorem Dev.mlog_dir (d : Dev) (ev : Nat) (g : Bytes) : (d.mlog ev g).dir = d.dir := rfl
@[simp] theorem Dev.mlog_atn (d : Dev) (ev : Nat) (g : Bytes) : (d.mlog ev g).atn = d.atn := rfl
@[simp] theorem Dev.mlog_bnk (d : Dev) (ev : Nat) (g : Bytes) : (d.mlog ev g).bnk = d.bnk := rfl
@[simp] theorem Dev.mlog_pgm (d : Dev) (ev : Nat) (g : Bytes) : (d.mlog ev g).pgm = d.pgm := rfl
@[simp] theorem Dev.mlog_plc (d : Dev) (ev : Nat) (g : Bytes) : (d.mlog ev g).plc = d.plc := rfl
@[simp] theorem Dev.mlog_cmp (d : Dev) (ev : Nat) (g : Bytes) : (d.mlog ev g).cmp = d.cmp := rfl
@[simp] theorem Dev.mlog_shp (d : Dev) (ev : Nat) (g : Bytes) : (d.mlog ev g).shp = d.shp := rfl
@[simp] theorem Dev.mlog_dma (d : Dev) (ev : Nat) (g : Bytes) : (d.mlog ev g).dma = d.dma := rfl
@[simp] theorem Dev.mlog_rcv (d : Dev) (ev : Nat) (g : Bytes) : (d.mlog ev g).rcv = d.rcv := rfl
@[simp] theorem Dev.mlog_pwr (d : Dev) (ev : Nat) (g : Bytes) : (d.mlog ev g).pwr = d.pwr := rfl
@[simp] theorem Dev.mlog_out (d : Dev) (ev : Nat) (g : Bytes) : (d.mlog ev g).out = d.out := rfl
@[simp] theorem Dev.mlog_free (d : Dev) (ev : Nat) (g : Bytes) : (d.mlog ev g).free = d.free := rfl

@[simp] theorem Dev.setLink_regs (d : Dev) (n : Nat) (l : Link) : (d.setLink n l).regs = d.regs := rfl
@[simp] theorem Dev.setLink_trn (d : Dev) (n : Nat) (l : Link) : (d.setLink n l).trn = d.trn := rfl
@[simp] theorem Dev.setLink_tsh (d : Dev) (n : Nat) (l : Link) : (d.setLink n l).tsh = d.tsh := rfl
@[simp] theorem Dev.setLink_waitq (d : Dev) (n : Nat) (l : Link) : (d.setLink n l).waitq = d.waitq := rfl
@[simp] theorem Dev.setLink_dir (d : Dev) (n : Nat) (l : Link) : (d.setLink n l).dir = d.dir := rfl
@[simp] theorem Dev.setLink_atn (d : Dev) (n : Nat) (l : Link) : (d.setLink n l).atn = d.atn := rfl
@[simp] theorem Dev.setLink_bnk (d : Dev) (n : Nat) (l : Link) : (d.setLink n l).bnk = d.bnk := rfl
@[simp] theorem Dev.setLink_pgm (d : Dev) (n : Nat) (l : Link) : (d.setLink n l).pgm = d.pgm := rfl
@[simp] theorem Dev.setLink_plc (d : Dev) (n : Nat) (l : Link) : (d.setLink n l).plc = d.plc := rfl
@[simp] theorem Dev.setLink_cmp (d : Dev) (n : Nat) (l : Link) : (d.setLink n l).cmp = d.cmp := rfl
@[simp] theorem Dev.setLink_shp (d : Dev) (n : Nat) (l : Link) : (d.setLink n l).shp = d.shp := rfl
@[simp] theorem Dev.setLink_dma (d : Dev) (n : Nat) (l : Link) : (d.setLink n l).dma = d.dma := rfl
@[simp] theorem Dev.setLink_sec (d : Dev) (n : Nat) (l : Link) : (d.setLink n l).sec = d.sec := rfl
@[simp] theorem Dev.setLink_rcv (d : Dev) (n : Nat) (l : Link) : (d.setLink n l).rcv = d.rcv := rfl
@[simp] theorem Dev.setLink_pwr (d : Dev) (n : Nat) (l : Link) : (d.setLink n l).pwr = d.pwr := rfl
@[simp] theorem Dev.setLink_out (d : Dev) (n : Nat) (l : Link) : (d.setLink n l).out = d.out := rfl
@[simp] theorem Dev.setLink_free (d : Dev) (n : Nat) (l : Link) : (d.setLink n l).free = d.free := rfl

@[simp] theorem Dev.setChan_regs (d : Dev) (n : Nat) (c : Chan) : (d.setChan n c).regs = d.regs := rfl
@[simp] theorem Dev.setChan_links (d : Dev) (n : Nat) (c : Chan) : (d.setChan n c).links = d.links := rfl
@[simp] theorem Dev.setChan_trn (d : Dev) (n : Nat) (c : Chan) : (d.setChan n c).trn = d.trn := rfl
@[simp] theorem Dev.setChan_tsh (d : Dev) (n : Nat) (c : Chan) : (d.setChan n c).tsh = d.tsh := rfl
@[simp] theorem Dev.setChan_waitq (d : Dev) (n : Nat) (c : Chan) : (d.setChan n c).waitq = d.waitq := rfl
@[simp] theorem Dev.setChan_dir (d : Dev) (n : Nat) (c : Chan) : (d.setChan n c).dir = d.dir := rfl
@[simp] theorem Dev.setChan_atn (d : Dev) (n : Nat) (c : Chan) : (d.setChan n c).atn = d.atn := rfl
@[simp] theorem Dev.setChan_bnk (d : Dev) (n : Nat) (c : Chan) : (d.setChan n c).bnk = d.bnk := rfl
@[simp] theorem Dev.setChan_pgm (d : Dev) (n : Nat) (c : Chan) : (d.setChan n c).pgm = d.pgm := rfl
@[simp] theorem Dev.setChan_plc (d : Dev) (n : Nat) (c : Chan) : (d.setChan n c).plc = d.plc := rfl
@[simp] theorem Dev.setChan_cmp (d : Dev) (n : Nat) (c : Chan) : (d.setChan n c).cmp = d.cmp := rfl
@[simp] theorem Dev.setChan_shp (d : Dev) (n : Nat) (c : Chan) : (d.setChan n c).shp = d.shp := rfl
@[simp] theorem Dev.setChan_sec (d : Dev) (n : Nat) (c : Chan) : (d.setChan n c).sec = d.sec := rfl
@[simp] theorem Dev.setChan_rcv (d : Dev) (n : Nat) (c : Chan) : (d.setChan n c).rcv = d.rcv := rfl
@[simp] theorem Dev.setChan_pwr (d : Dev) (n : Nat) (c : Chan) : (d.setChan n c).pwr = d.pwr := rfl
@[simp] theorem Dev.setChan_out (d : Dev) (n : Nat) (c : Chan) : (d.setChan n c).out = d.out := rfl
@[simp] theorem Dev.setChan_free (d : Dev) (n : Nat) (c : Chan) : (d.setChan n c).free = d.free := rfl

@[simp] theorem Dev.setBank_regs (d : Dev) (k : Nat) (b : Bank) : (d.setBank k b).regs = d.regs := rfl
@[simp] theorem Dev.setBank_links (d : Dev) (k : Nat) (b : Bank) : (d.setBank k b).links = d.links := rfl
@[simp] theorem Dev.setBank_trn (d : Dev) (k : Nat) (b : Bank) : (d.setBank k b).trn = d.trn := rfl
@[simp] theorem Dev.setBank_tsh (d : Dev) (k : Nat) (b : Bank) : (d.setBank k b).tsh = d.tsh := rfl
@[simp] theorem Dev.setBank_waitq (d : Dev) (k : Nat) (b : Bank) : (d.setBank k b).waitq = d.waitq := rfl
@[simp] theorem Dev.setBank_dir (d : Dev) (k : Nat) (b : Bank) : (d.setBank k b).dir = d.dir := rfl
@[simp] theorem Dev.setBank_atn (d : Dev) (k : Nat) (b : Bank) : (d.setBank k b).atn = d.atn := rfl
@[simp] theorem Dev.setBank_pgm (d : Dev) (k : Nat) (b : Bank) : (d.setBank k b).pgm = d.pgm := rfl
@[simp] theorem Dev.setBank_plc (d : Dev) (k : Nat) (b : Bank) : (d.setBank k b).plc = d.plc := rfl
@[simp] theorem Dev.setBank_cmp (d : Dev) (k : Nat) (b : Bank) : (d.setBank k b).cmp = d.cmp := rfl
@[simp] theorem Dev.setBank_shp (d : Dev) (k : Nat) (b : Bank) : (d.setBank k b).shp = d.shp := rfl
@[simp] theorem Dev.setBank_dma (d : Dev) (k : Nat) (b : Bank) : (d.setBank k b).dma = d.dma := rfl
@[simp] theorem Dev.setBank_sec (d : Dev) (k : Nat) (b : Bank) : (d.setBank k b).sec = d.sec := rfl
@[simp] theorem Dev.setBank_rcv (d : Dev) (k : Nat) (b : Bank) : (d.setBank k b).rcv = d.rcv := rfl
@[simp] theorem Dev.setBank_pwr (d : Dev) (k : Nat) (b : Bank) : (d.setBank k b).pwr = d.pwr := rfl
@[simp] theorem Dev.setBank_out (d : Dev) (k : Nat) (b : Bank) : (d.setBank k b).out = d.out := rfl
@[simp] theorem Dev.setBank_free (d : Dev) (k : Nat) (b : Bank) : (d.setBank k b).free = d.free := rfl

@[simp] theorem Dev.setStack_regs (d : Dev) (n : Nat) (x : Stack) : (d.setStack n x).regs = d.regs := rfl
@[simp] theorem Dev.setStack_links (d : Dev) (n : Nat) (x : Stack) : (d.setStack n x).links = d.links := rfl
@[simp] theorem Dev.setStack_trn (d : Dev) (n : Nat) (x : Stack) : (d.setStack n x).trn = d.trn := rfl
@[simp] theorem Dev.setStack_tsh (d : Dev) (n : Nat) (x : Stack) : (d.setStack n x).tsh = d.tsh := rfl
@[simp] theorem Dev.setStack_waitq (d : Dev) (n : Nat) (x : Stack) : (d.setStack n x).waitq = d.waitq := rfl
@[simp] theorem Dev.setStack_dir (d : Dev) (n : Nat) (x : Stack) : (d.setStack n x).dir = d.dir := rfl
@[simp] theorem Dev.setStack_atn (d : Dev) (n : Nat) (x : Stack) : (d.setStack n x).atn = d.atn := rfl
@[simp] theorem Dev.setStack_pgm (d : Dev) (n : Nat) (x : Stack) : (d.setStack n x).pgm = d.pgm := rfl
@[simp] theorem Dev.setStack_plc (d : Dev) (n : Nat) (x : Stack) : (d.setStack n x).plc = d.plc := rfl
@[simp] theorem Dev.setStack_cmp (d : Dev) (n : Nat) (x : Stack) : (d.setStack n x).cmp = d.cmp := rfl
@[simp] theorem Dev.setStack_shp (d : Dev) (n : Nat) (x : Stack) : (d.setStack n x).shp = d.shp := rfl
@[simp] theorem Dev.setStack_dma (d : Dev) (n : Nat) (x : Stack) : (d.setStack n x).dma = d.dma := rfl
@[simp] theorem Dev.setStack_sec (d : Dev) (n : Nat) (x : Stack) : (d.setStack n x).sec = d.sec := rfl
@[simp] theorem Dev.setStack_rcv (d : Dev) (n : Nat) (x : Stack) : (d.setStack n x).rcv = d.rcv := rfl
@[simp] theorem Dev.setStack_pwr (d : Dev) (n : Nat) (x : Stack) : (d.setStack n x).pwr = d.pwr := rfl
@[simp] theorem Dev.setStack_out (d : Dev) (n : Nat) (x : Stack) : (d.setStack n x).out = d.out := rfl
@[simp] theorem Dev.setStack_free (d : Dev) (n : Nat) (x : Stack) : (d.setStack n x).free = d.free := rfl

@[simp] theorem Dev.modTenant_regs (d : Dev) (t : Nat) (f : Tenant → Tenant) : (d.modTenant t f).regs = d.regs := rfl
@[simp] theorem Dev.modTenant_links (d : Dev) (t : Nat) (f : Tenant → Tenant) : (d.modTenant t f).links = d.links := rfl
@[simp] theorem Dev.modTenant_trn (d : Dev) (t : Nat) (f : Tenant → Tenant) : (d.modTenant t f).trn = d.trn := rfl
@[simp] theorem Dev.modTenant_tsh (d : Dev) (t : Nat) (f : Tenant → Tenant) : (d.modTenant t f).tsh = d.tsh := rfl
@[simp] theorem Dev.modTenant_waitq (d : Dev) (t : Nat) (f : Tenant → Tenant) : (d.modTenant t f).waitq = d.waitq := rfl
@[simp] theorem Dev.modTenant_dir (d : Dev) (t : Nat) (f : Tenant → Tenant) : (d.modTenant t f).dir = d.dir := rfl
@[simp] theorem Dev.modTenant_atn (d : Dev) (t : Nat) (f : Tenant → Tenant) : (d.modTenant t f).atn = d.atn := rfl
@[simp] theorem Dev.modTenant_bnk (d : Dev) (t : Nat) (f : Tenant → Tenant) : (d.modTenant t f).bnk = d.bnk := rfl
@[simp] theorem Dev.modTenant_pgm (d : Dev) (t : Nat) (f : Tenant → Tenant) : (d.modTenant t f).pgm = d.pgm := rfl
@[simp] theorem Dev.modTenant_plc (d : Dev) (t : Nat) (f : Tenant → Tenant) : (d.modTenant t f).plc = d.plc := rfl
@[simp] theorem Dev.modTenant_cmp (d : Dev) (t : Nat) (f : Tenant → Tenant) : (d.modTenant t f).cmp = d.cmp := rfl
@[simp] theorem Dev.modTenant_shp (d : Dev) (t : Nat) (f : Tenant → Tenant) : (d.modTenant t f).shp = d.shp := rfl
@[simp] theorem Dev.modTenant_dma (d : Dev) (t : Nat) (f : Tenant → Tenant) : (d.modTenant t f).dma = d.dma := rfl
@[simp] theorem Dev.modTenant_rcv (d : Dev) (t : Nat) (f : Tenant → Tenant) : (d.modTenant t f).rcv = d.rcv := rfl
@[simp] theorem Dev.modTenant_pwr (d : Dev) (t : Nat) (f : Tenant → Tenant) : (d.modTenant t f).pwr = d.pwr := rfl
@[simp] theorem Dev.modTenant_out (d : Dev) (t : Nat) (f : Tenant → Tenant) : (d.modTenant t f).out = d.out := rfl
@[simp] theorem Dev.modTenant_free (d : Dev) (t : Nat) (f : Tenant → Tenant) : (d.modTenant t f).free = d.free := rfl

@[simp] theorem Dev.modRun_regs (d : Dev) (i : RunId) (f : Run → Run) : (d.modRun i f).regs = d.regs := rfl
@[simp] theorem Dev.modRun_links (d : Dev) (i : RunId) (f : Run → Run) : (d.modRun i f).links = d.links := rfl
@[simp] theorem Dev.modRun_trn (d : Dev) (i : RunId) (f : Run → Run) : (d.modRun i f).trn = d.trn := rfl
@[simp] theorem Dev.modRun_tsh (d : Dev) (i : RunId) (f : Run → Run) : (d.modRun i f).tsh = d.tsh := rfl
@[simp] theorem Dev.modRun_waitq (d : Dev) (i : RunId) (f : Run → Run) : (d.modRun i f).waitq = d.waitq := rfl
@[simp] theorem Dev.modRun_dir (d : Dev) (i : RunId) (f : Run → Run) : (d.modRun i f).dir = d.dir := rfl
@[simp] theorem Dev.modRun_atn (d : Dev) (i : RunId) (f : Run → Run) : (d.modRun i f).atn = d.atn := rfl
@[simp] theorem Dev.modRun_bnk (d : Dev) (i : RunId) (f : Run → Run) : (d.modRun i f).bnk = d.bnk := rfl
@[simp] theorem Dev.modRun_pgm (d : Dev) (i : RunId) (f : Run → Run) : (d.modRun i f).pgm = d.pgm := rfl
@[simp] theorem Dev.modRun_cmp (d : Dev) (i : RunId) (f : Run → Run) : (d.modRun i f).cmp = d.cmp := rfl
@[simp] theorem Dev.modRun_shp (d : Dev) (i : RunId) (f : Run → Run) : (d.modRun i f).shp = d.shp := rfl
@[simp] theorem Dev.modRun_dma (d : Dev) (i : RunId) (f : Run → Run) : (d.modRun i f).dma = d.dma := rfl
@[simp] theorem Dev.modRun_sec (d : Dev) (i : RunId) (f : Run → Run) : (d.modRun i f).sec = d.sec := rfl
@[simp] theorem Dev.modRun_rcv (d : Dev) (i : RunId) (f : Run → Run) : (d.modRun i f).rcv = d.rcv := rfl
@[simp] theorem Dev.modRun_pwr (d : Dev) (i : RunId) (f : Run → Run) : (d.modRun i f).pwr = d.pwr := rfl
@[simp] theorem Dev.modRun_out (d : Dev) (i : RunId) (f : Run → Run) : (d.modRun i f).out = d.out := rfl
@[simp] theorem Dev.modRun_free (d : Dev) (i : RunId) (f : Run → Run) : (d.modRun i f).free = d.free := rfl

@[simp] theorem Dev.putRun_regs (d : Dev) (r : Run) : (d.putRun r).regs = d.regs := rfl
@[simp] theorem Dev.putRun_links (d : Dev) (r : Run) : (d.putRun r).links = d.links := rfl
@[simp] theorem Dev.putRun_trn (d : Dev) (r : Run) : (d.putRun r).trn = d.trn := rfl
@[simp] theorem Dev.putRun_tsh (d : Dev) (r : Run) : (d.putRun r).tsh = d.tsh := rfl
@[simp] theorem Dev.putRun_waitq (d : Dev) (r : Run) : (d.putRun r).waitq = d.waitq := rfl
@[simp] theorem Dev.putRun_dir (d : Dev) (r : Run) : (d.putRun r).dir = d.dir := rfl
@[simp] theorem Dev.putRun_atn (d : Dev) (r : Run) : (d.putRun r).atn = d.atn := rfl
@[simp] theorem Dev.putRun_bnk (d : Dev) (r : Run) : (d.putRun r).bnk = d.bnk := rfl
@[simp] theorem Dev.putRun_pgm (d : Dev) (r : Run) : (d.putRun r).pgm = d.pgm := rfl
@[simp] theorem Dev.putRun_cmp (d : Dev) (r : Run) : (d.putRun r).cmp = d.cmp := rfl
@[simp] theorem Dev.putRun_shp (d : Dev) (r : Run) : (d.putRun r).shp = d.shp := rfl
@[simp] theorem Dev.putRun_dma (d : Dev) (r : Run) : (d.putRun r).dma = d.dma := rfl
@[simp] theorem Dev.putRun_sec (d : Dev) (r : Run) : (d.putRun r).sec = d.sec := rfl
@[simp] theorem Dev.putRun_rcv (d : Dev) (r : Run) : (d.putRun r).rcv = d.rcv := rfl
@[simp] theorem Dev.putRun_pwr (d : Dev) (r : Run) : (d.putRun r).pwr = d.pwr := rfl
@[simp] theorem Dev.putRun_out (d : Dev) (r : Run) : (d.putRun r).out = d.out := rfl
@[simp] theorem Dev.putRun_free (d : Dev) (r : Run) : (d.putRun r).free = d.free := rfl

@[simp] theorem Dev.modSeq_regs (d : Dev) (n : Nat) (f : Seq → Seq) : (d.modSeq n f).regs = d.regs := rfl
@[simp] theorem Dev.modSeq_links (d : Dev) (n : Nat) (f : Seq → Seq) : (d.modSeq n f).links = d.links := rfl
@[simp] theorem Dev.modSeq_trn (d : Dev) (n : Nat) (f : Seq → Seq) : (d.modSeq n f).trn = d.trn := rfl
@[simp] theorem Dev.modSeq_tsh (d : Dev) (n : Nat) (f : Seq → Seq) : (d.modSeq n f).tsh = d.tsh := rfl
@[simp] theorem Dev.modSeq_waitq (d : Dev) (n : Nat) (f : Seq → Seq) : (d.modSeq n f).waitq = d.waitq := rfl
@[simp] theorem Dev.modSeq_dir (d : Dev) (n : Nat) (f : Seq → Seq) : (d.modSeq n f).dir = d.dir := rfl
@[simp] theorem Dev.modSeq_atn (d : Dev) (n : Nat) (f : Seq → Seq) : (d.modSeq n f).atn = d.atn := rfl
@[simp] theorem Dev.modSeq_bnk (d : Dev) (n : Nat) (f : Seq → Seq) : (d.modSeq n f).bnk = d.bnk := rfl
@[simp] theorem Dev.modSeq_plc (d : Dev) (n : Nat) (f : Seq → Seq) : (d.modSeq n f).plc = d.plc := rfl
@[simp] theorem Dev.modSeq_cmp (d : Dev) (n : Nat) (f : Seq → Seq) : (d.modSeq n f).cmp = d.cmp := rfl
@[simp] theorem Dev.modSeq_shp (d : Dev) (n : Nat) (f : Seq → Seq) : (d.modSeq n f).shp = d.shp := rfl
@[simp] theorem Dev.modSeq_dma (d : Dev) (n : Nat) (f : Seq → Seq) : (d.modSeq n f).dma = d.dma := rfl
@[simp] theorem Dev.modSeq_sec (d : Dev) (n : Nat) (f : Seq → Seq) : (d.modSeq n f).sec = d.sec := rfl
@[simp] theorem Dev.modSeq_rcv (d : Dev) (n : Nat) (f : Seq → Seq) : (d.modSeq n f).rcv = d.rcv := rfl
@[simp] theorem Dev.modSeq_pwr (d : Dev) (n : Nat) (f : Seq → Seq) : (d.modSeq n f).pwr = d.pwr := rfl
@[simp] theorem Dev.modSeq_out (d : Dev) (n : Nat) (f : Seq → Seq) : (d.modSeq n f).out = d.out := rfl
@[simp] theorem Dev.modSeq_free (d : Dev) (n : Nat) (f : Seq → Seq) : (d.modSeq n f).free = d.free := rfl

@[simp] theorem Dev.modTenon_regs (d : Dev) (i : Nat) (f : Tenon → Tenon) : (d.modTenon i f).regs = d.regs := rfl
@[simp] theorem Dev.modTenon_links (d : Dev) (i : Nat) (f : Tenon → Tenon) : (d.modTenon i f).links = d.links := rfl
@[simp] theorem Dev.modTenon_trn (d : Dev) (i : Nat) (f : Tenon → Tenon) : (d.modTenon i f).trn = d.trn := rfl
@[simp] theorem Dev.modTenon_tsh (d : Dev) (i : Nat) (f : Tenon → Tenon) : (d.modTenon i f).tsh = d.tsh := rfl
@[simp] theorem Dev.modTenon_waitq (d : Dev) (i : Nat) (f : Tenon → Tenon) : (d.modTenon i f).waitq = d.waitq := rfl
@[simp] theorem Dev.modTenon_dir (d : Dev) (i : Nat) (f : Tenon → Tenon) : (d.modTenon i f).dir = d.dir := rfl
@[simp] theorem Dev.modTenon_bnk (d : Dev) (i : Nat) (f : Tenon → Tenon) : (d.modTenon i f).bnk = d.bnk := rfl
@[simp] theorem Dev.modTenon_pgm (d : Dev) (i : Nat) (f : Tenon → Tenon) : (d.modTenon i f).pgm = d.pgm := rfl
@[simp] theorem Dev.modTenon_plc (d : Dev) (i : Nat) (f : Tenon → Tenon) : (d.modTenon i f).plc = d.plc := rfl
@[simp] theorem Dev.modTenon_cmp (d : Dev) (i : Nat) (f : Tenon → Tenon) : (d.modTenon i f).cmp = d.cmp := rfl
@[simp] theorem Dev.modTenon_shp (d : Dev) (i : Nat) (f : Tenon → Tenon) : (d.modTenon i f).shp = d.shp := rfl
@[simp] theorem Dev.modTenon_dma (d : Dev) (i : Nat) (f : Tenon → Tenon) : (d.modTenon i f).dma = d.dma := rfl
@[simp] theorem Dev.modTenon_sec (d : Dev) (i : Nat) (f : Tenon → Tenon) : (d.modTenon i f).sec = d.sec := rfl
@[simp] theorem Dev.modTenon_rcv (d : Dev) (i : Nat) (f : Tenon → Tenon) : (d.modTenon i f).rcv = d.rcv := rfl
@[simp] theorem Dev.modTenon_pwr (d : Dev) (i : Nat) (f : Tenon → Tenon) : (d.modTenon i f).pwr = d.pwr := rfl
@[simp] theorem Dev.modTenon_out (d : Dev) (i : Nat) (f : Tenon → Tenon) : (d.modTenon i f).out = d.out := rfl
@[simp] theorem Dev.modTenon_free (d : Dev) (i : Nat) (f : Tenon → Tenon) : (d.modTenon i f).free = d.free := rfl

@[simp] theorem Dev.setPower_regs (d : Dev) (p : PState) : (d.setPower p).regs = d.regs := rfl
@[simp] theorem Dev.setPower_links (d : Dev) (p : PState) : (d.setPower p).links = d.links := rfl
@[simp] theorem Dev.setPower_trn (d : Dev) (p : PState) : (d.setPower p).trn = d.trn := rfl
@[simp] theorem Dev.setPower_tsh (d : Dev) (p : PState) : (d.setPower p).tsh = d.tsh := rfl
@[simp] theorem Dev.setPower_waitq (d : Dev) (p : PState) : (d.setPower p).waitq = d.waitq := rfl
@[simp] theorem Dev.setPower_dir (d : Dev) (p : PState) : (d.setPower p).dir = d.dir := rfl
@[simp] theorem Dev.setPower_atn (d : Dev) (p : PState) : (d.setPower p).atn = d.atn := rfl
@[simp] theorem Dev.setPower_bnk (d : Dev) (p : PState) : (d.setPower p).bnk = d.bnk := rfl
@[simp] theorem Dev.setPower_pgm (d : Dev) (p : PState) : (d.setPower p).pgm = d.pgm := rfl
@[simp] theorem Dev.setPower_plc (d : Dev) (p : PState) : (d.setPower p).plc = d.plc := rfl
@[simp] theorem Dev.setPower_cmp (d : Dev) (p : PState) : (d.setPower p).cmp = d.cmp := rfl
@[simp] theorem Dev.setPower_shp (d : Dev) (p : PState) : (d.setPower p).shp = d.shp := rfl
@[simp] theorem Dev.setPower_dma (d : Dev) (p : PState) : (d.setPower p).dma = d.dma := rfl
@[simp] theorem Dev.setPower_sec (d : Dev) (p : PState) : (d.setPower p).sec = d.sec := rfl
@[simp] theorem Dev.setPower_rcv (d : Dev) (p : PState) : (d.setPower p).rcv = d.rcv := rfl
@[simp] theorem Dev.setPower_out (d : Dev) (p : PState) : (d.setPower p).out = d.out := rfl
@[simp] theorem Dev.setPower_free (d : Dev) (p : PState) : (d.setPower p).free = d.free := rfl

@[simp] theorem Dev.pareaWrite_regs (d : Dev) (f a : Nat) (bs : Bytes) : (d.pareaWrite f a bs).regs = d.regs := rfl
@[simp] theorem Dev.pareaWrite_links (d : Dev) (f a : Nat) (bs : Bytes) : (d.pareaWrite f a bs).links = d.links := rfl
@[simp] theorem Dev.pareaWrite_trn (d : Dev) (f a : Nat) (bs : Bytes) : (d.pareaWrite f a bs).trn = d.trn := rfl
@[simp] theorem Dev.pareaWrite_tsh (d : Dev) (f a : Nat) (bs : Bytes) : (d.pareaWrite f a bs).tsh = d.tsh := rfl
@[simp] theorem Dev.pareaWrite_waitq (d : Dev) (f a : Nat) (bs : Bytes) : (d.pareaWrite f a bs).waitq = d.waitq := rfl
@[simp] theorem Dev.pareaWrite_dir (d : Dev) (f a : Nat) (bs : Bytes) : (d.pareaWrite f a bs).dir = d.dir := rfl
@[simp] theorem Dev.pareaWrite_atn (d : Dev) (f a : Nat) (bs : Bytes) : (d.pareaWrite f a bs).atn = d.atn := rfl
@[simp] theorem Dev.pareaWrite_bnk (d : Dev) (f a : Nat) (bs : Bytes) : (d.pareaWrite f a bs).bnk = d.bnk := rfl
@[simp] theorem Dev.pareaWrite_pgm (d : Dev) (f a : Nat) (bs : Bytes) : (d.pareaWrite f a bs).pgm = d.pgm := rfl
@[simp] theorem Dev.pareaWrite_plc (d : Dev) (f a : Nat) (bs : Bytes) : (d.pareaWrite f a bs).plc = d.plc := rfl
@[simp] theorem Dev.pareaWrite_cmp (d : Dev) (f a : Nat) (bs : Bytes) : (d.pareaWrite f a bs).cmp = d.cmp := rfl
@[simp] theorem Dev.pareaWrite_shp (d : Dev) (f a : Nat) (bs : Bytes) : (d.pareaWrite f a bs).shp = d.shp := rfl
@[simp] theorem Dev.pareaWrite_sec (d : Dev) (f a : Nat) (bs : Bytes) : (d.pareaWrite f a bs).sec = d.sec := rfl
@[simp] theorem Dev.pareaWrite_rcv (d : Dev) (f a : Nat) (bs : Bytes) : (d.pareaWrite f a bs).rcv = d.rcv := rfl
@[simp] theorem Dev.pareaWrite_pwr (d : Dev) (f a : Nat) (bs : Bytes) : (d.pareaWrite f a bs).pwr = d.pwr := rfl
@[simp] theorem Dev.pareaWrite_out (d : Dev) (f a : Nat) (bs : Bytes) : (d.pareaWrite f a bs).out = d.out := rfl
@[simp] theorem Dev.pareaWrite_free (d : Dev) (f a : Nat) (bs : Bytes) : (d.pareaWrite f a bs).free = d.free := rfl

@[simp] theorem Dev.dirClear_regs (d : Dev) (p : DirEnt → Bool) : (d.dirClear p).regs = d.regs := rfl
@[simp] theorem Dev.dirClear_links (d : Dev) (p : DirEnt → Bool) : (d.dirClear p).links = d.links := rfl
@[simp] theorem Dev.dirClear_trn (d : Dev) (p : DirEnt → Bool) : (d.dirClear p).trn = d.trn := rfl
@[simp] theorem Dev.dirClear_tsh (d : Dev) (p : DirEnt → Bool) : (d.dirClear p).tsh = d.tsh := rfl
@[simp] theorem Dev.dirClear_waitq (d : Dev) (p : DirEnt → Bool) : (d.dirClear p).waitq = d.waitq := rfl
@[simp] theorem Dev.dirClear_atn (d : Dev) (p : DirEnt → Bool) : (d.dirClear p).atn = d.atn := rfl
@[simp] theorem Dev.dirClear_bnk (d : Dev) (p : DirEnt → Bool) : (d.dirClear p).bnk = d.bnk := rfl
@[simp] theorem Dev.dirClear_pgm (d : Dev) (p : DirEnt → Bool) : (d.dirClear p).pgm = d.pgm := rfl
@[simp] theorem Dev.dirClear_plc (d : Dev) (p : DirEnt → Bool) : (d.dirClear p).plc = d.plc := rfl
@[simp] theorem Dev.dirClear_cmp (d : Dev) (p : DirEnt → Bool) : (d.dirClear p).cmp = d.cmp := rfl
@[simp] theorem Dev.dirClear_shp (d : Dev) (p : DirEnt → Bool) : (d.dirClear p).shp = d.shp := rfl
@[simp] theorem Dev.dirClear_dma (d : Dev) (p : DirEnt → Bool) : (d.dirClear p).dma = d.dma := rfl
@[simp] theorem Dev.dirClear_sec (d : Dev) (p : DirEnt → Bool) : (d.dirClear p).sec = d.sec := rfl
@[simp] theorem Dev.dirClear_rcv (d : Dev) (p : DirEnt → Bool) : (d.dirClear p).rcv = d.rcv := rfl
@[simp] theorem Dev.dirClear_pwr (d : Dev) (p : DirEnt → Bool) : (d.dirClear p).pwr = d.pwr := rfl
@[simp] theorem Dev.dirClear_out (d : Dev) (p : DirEnt → Bool) : (d.dirClear p).out = d.out := rfl
@[simp] theorem Dev.dirClear_free (d : Dev) (p : DirEnt → Bool) : (d.dirClear p).free = d.free := rfl

@[simp] theorem Dev.dropXfer_regs (d : Dev) (w : XWhat) : (d.dropXfer w).regs = d.regs := rfl
@[simp] theorem Dev.dropXfer_links (d : Dev) (w : XWhat) : (d.dropXfer w).links = d.links := rfl
@[simp] theorem Dev.dropXfer_trn (d : Dev) (w : XWhat) : (d.dropXfer w).trn = d.trn := rfl
@[simp] theorem Dev.dropXfer_tsh (d : Dev) (w : XWhat) : (d.dropXfer w).tsh = d.tsh := rfl
@[simp] theorem Dev.dropXfer_waitq (d : Dev) (w : XWhat) : (d.dropXfer w).waitq = d.waitq := rfl
@[simp] theorem Dev.dropXfer_dir (d : Dev) (w : XWhat) : (d.dropXfer w).dir = d.dir := rfl
@[simp] theorem Dev.dropXfer_atn (d : Dev) (w : XWhat) : (d.dropXfer w).atn = d.atn := rfl
@[simp] theorem Dev.dropXfer_bnk (d : Dev) (w : XWhat) : (d.dropXfer w).bnk = d.bnk := rfl
@[simp] theorem Dev.dropXfer_pgm (d : Dev) (w : XWhat) : (d.dropXfer w).pgm = d.pgm := rfl
@[simp] theorem Dev.dropXfer_plc (d : Dev) (w : XWhat) : (d.dropXfer w).plc = d.plc := rfl
@[simp] theorem Dev.dropXfer_cmp (d : Dev) (w : XWhat) : (d.dropXfer w).cmp = d.cmp := rfl
@[simp] theorem Dev.dropXfer_shp (d : Dev) (w : XWhat) : (d.dropXfer w).shp = d.shp := rfl
@[simp] theorem Dev.dropXfer_sec (d : Dev) (w : XWhat) : (d.dropXfer w).sec = d.sec := rfl
@[simp] theorem Dev.dropXfer_rcv (d : Dev) (w : XWhat) : (d.dropXfer w).rcv = d.rcv := rfl
@[simp] theorem Dev.dropXfer_pwr (d : Dev) (w : XWhat) : (d.dropXfer w).pwr = d.pwr := rfl
@[simp] theorem Dev.dropXfer_out (d : Dev) (w : XWhat) : (d.dropXfer w).out = d.out := rfl
@[simp] theorem Dev.dropXfer_free (d : Dev) (w : XWhat) : (d.dropXfer w).free = d.free := rfl

@[simp] theorem Dev.dropSends_regs (d : Dev) (p : Nat × SendReq × Bool → Bool) : (d.dropSends p).regs = d.regs := rfl
@[simp] theorem Dev.dropSends_links (d : Dev) (p : Nat × SendReq × Bool → Bool) : (d.dropSends p).links = d.links := rfl
@[simp] theorem Dev.dropSends_tsh (d : Dev) (p : Nat × SendReq × Bool → Bool) : (d.dropSends p).tsh = d.tsh := rfl
@[simp] theorem Dev.dropSends_waitq (d : Dev) (p : Nat × SendReq × Bool → Bool) : (d.dropSends p).waitq = d.waitq := rfl
@[simp] theorem Dev.dropSends_dir (d : Dev) (p : Nat × SendReq × Bool → Bool) : (d.dropSends p).dir = d.dir := rfl
@[simp] theorem Dev.dropSends_atn (d : Dev) (p : Nat × SendReq × Bool → Bool) : (d.dropSends p).atn = d.atn := rfl
@[simp] theorem Dev.dropSends_bnk (d : Dev) (p : Nat × SendReq × Bool → Bool) : (d.dropSends p).bnk = d.bnk := rfl
@[simp] theorem Dev.dropSends_pgm (d : Dev) (p : Nat × SendReq × Bool → Bool) : (d.dropSends p).pgm = d.pgm := rfl
@[simp] theorem Dev.dropSends_plc (d : Dev) (p : Nat × SendReq × Bool → Bool) : (d.dropSends p).plc = d.plc := rfl
@[simp] theorem Dev.dropSends_cmp (d : Dev) (p : Nat × SendReq × Bool → Bool) : (d.dropSends p).cmp = d.cmp := rfl
@[simp] theorem Dev.dropSends_shp (d : Dev) (p : Nat × SendReq × Bool → Bool) : (d.dropSends p).shp = d.shp := rfl
@[simp] theorem Dev.dropSends_dma (d : Dev) (p : Nat × SendReq × Bool → Bool) : (d.dropSends p).dma = d.dma := rfl
@[simp] theorem Dev.dropSends_sec (d : Dev) (p : Nat × SendReq × Bool → Bool) : (d.dropSends p).sec = d.sec := rfl
@[simp] theorem Dev.dropSends_rcv (d : Dev) (p : Nat × SendReq × Bool → Bool) : (d.dropSends p).rcv = d.rcv := rfl
@[simp] theorem Dev.dropSends_pwr (d : Dev) (p : Nat × SendReq × Bool → Bool) : (d.dropSends p).pwr = d.pwr := rfl
@[simp] theorem Dev.dropSends_out (d : Dev) (p : Nat × SendReq × Bool → Bool) : (d.dropSends p).out = d.out := rfl
@[simp] theorem Dev.dropSends_free (d : Dev) (p : Nat × SendReq × Bool → Bool) : (d.dropSends p).free = d.free := rfl

/-! ### What they write -/

@[simp] theorem Dev.reg_setReg_self (d : Dev) (k v : Nat) : (d.setReg k v).reg k = v := by simp [Dev.reg, Dev.setReg]
theorem Dev.reg_setReg_ne (d : Dev) (k j v : Nat) (h : j ≠ k) : (d.setReg k v).reg j = d.reg j := by
  simp [Dev.reg, Dev.setReg, mgetD_nset_ne _ _ _ _ h]
theorem Dev.reg_bump_self (d : Dev) (k w n : Nat) : (d.bump k w n).reg k = min (d.reg k + n) (2 ^ w - 1) := by simp [Dev.bump]
theorem Dev.reg_bump_ne (d : Dev) (k j w n : Nat) (h : j ≠ k) : (d.bump k w n).reg j = d.reg j := by simp [Dev.bump, Dev.reg_setReg_ne _ _ _ _ h]
@[simp] theorem Dev.emit_out (d : Dev) (o : Output) : (d.emit o).out = d.out ++ [o] := rfl
@[simp] theorem Dev.fn_setFn_self (d : Dev) (f : Nat) (x : Fn) : (d.setFn f x).fn f = x := by simp [Dev.fn, Dev.setFn]
theorem Dev.fn_setFn_ne (d : Dev) (f g : Nat) (x : Fn) (h : g ≠ f) : (d.setFn f x).fn g = d.fn g := by
  simp [Dev.fn, Dev.setFn, mgetD_mset_ne _ _ _ _ _ h]
@[simp] theorem Dev.chan_setChan_self (d : Dev) (n : Nat) (c : Chan) : (d.setChan n c).chan n = c := by simp [Dev.chan, Dev.setChan]
@[simp] theorem Dev.setQp_qps (d : Dev) (n : Nat) (q : Qp) : (d.setQp n q).trn.qps = mset d.trn.qps n q := rfl
@[simp] theorem Dev.setPower_state (d : Dev) (p : PState) : (d.setPower p).pwr.state = p := rfl

/-! ### Register fields set in a list -/

@[simp] theorem Dev.setRegs_links (d : Dev) (l : List (Nat × Nat)) : (d.setRegs l).links = d.links := by
  induction l generalizing d with
  | nil => rfl
  | cons e r ih => exact ih _
@[simp] theorem Dev.setRegs_trn (d : Dev) (l : List (Nat × Nat)) : (d.setRegs l).trn = d.trn := by
  induction l generalizing d with
  | nil => rfl
  | cons e r ih => exact ih _
@[simp] theorem Dev.setRegs_tsh (d : Dev) (l : List (Nat × Nat)) : (d.setRegs l).tsh = d.tsh := by
  induction l generalizing d with
  | nil => rfl
  | cons e r ih => exact ih _
@[simp] theorem Dev.setRegs_waitq (d : Dev) (l : List (Nat × Nat)) : (d.setRegs l).waitq = d.waitq := by
  induction l generalizing d with
  | nil => rfl
  | cons e r ih => exact ih _
@[simp] theorem Dev.setRegs_dir (d : Dev) (l : List (Nat × Nat)) : (d.setRegs l).dir = d.dir := by
  induction l generalizing d with
  | nil => rfl
  | cons e r ih => exact ih _
@[simp] theorem Dev.setRegs_atn (d : Dev) (l : List (Nat × Nat)) : (d.setRegs l).atn = d.atn := by
  induction l generalizing d with
  | nil => rfl
  | cons e r ih => exact ih _
@[simp] theorem Dev.setRegs_bnk (d : Dev) (l : List (Nat × Nat)) : (d.setRegs l).bnk = d.bnk := by
  induction l generalizing d with
  | nil => rfl
  | cons e r ih => exact ih _
@[simp] theorem Dev.setRegs_pgm (d : Dev) (l : List (Nat × Nat)) : (d.setRegs l).pgm = d.pgm := by
  induction l generalizing d with
  | nil => rfl
  | cons e r ih => exact ih _
@[simp] theorem Dev.setRegs_plc (d : Dev) (l : List (Nat × Nat)) : (d.setRegs l).plc = d.plc := by
  induction l generalizing d with
  | nil => rfl
  | cons e r ih => exact ih _
@[simp] theorem Dev.setRegs_cmp (d : Dev) (l : List (Nat × Nat)) : (d.setRegs l).cmp = d.cmp := by
  induction l generalizing d with
  | nil => rfl
  | cons e r ih => exact ih _
@[simp] theorem Dev.setRegs_shp (d : Dev) (l : List (Nat × Nat)) : (d.setRegs l).shp = d.shp := by
  induction l generalizing d with
  | nil => rfl
  | cons e r ih => exact ih _
@[simp] theorem Dev.setRegs_dma (d : Dev) (l : List (Nat × Nat)) : (d.setRegs l).dma = d.dma := by
  induction l generalizing d with
  | nil => rfl
  | cons e r ih => exact ih _
@[simp] theorem Dev.setRegs_sec (d : Dev) (l : List (Nat × Nat)) : (d.setRegs l).sec = d.sec := by
  induction l generalizing d with
  | nil => rfl
  | cons e r ih => exact ih _
@[simp] theorem Dev.setRegs_rcv (d : Dev) (l : List (Nat × Nat)) : (d.setRegs l).rcv = d.rcv := by
  induction l generalizing d with
  | nil => rfl
  | cons e r ih => exact ih _
@[simp] theorem Dev.setRegs_pwr (d : Dev) (l : List (Nat × Nat)) : (d.setRegs l).pwr = d.pwr := by
  induction l generalizing d with
  | nil => rfl
  | cons e r ih => exact ih _
@[simp] theorem Dev.setRegs_out (d : Dev) (l : List (Nat × Nat)) : (d.setRegs l).out = d.out := by
  induction l generalizing d with
  | nil => rfl
  | cons e r ih => exact ih _
@[simp] theorem Dev.setRegs_free (d : Dev) (l : List (Nat × Nat)) : (d.setRegs l).free = d.free := by
  induction l generalizing d with
  | nil => rfl
  | cons e r ih => exact ih _

/-- A field that a list does not name keeps its value. -/
theorem Dev.reg_setRegs_out (d : Dev) (l : List (Nat × Nat)) (k : Nat) (h : ∀ e ∈ l, e.1 ≠ k) : (d.setRegs l).reg k = d.reg k := by
  induction l generalizing d with
  | nil => rfl
  | cons e r ih =>
    have h1 := h e (by simp)
    rw [show d.setRegs (e :: r) = (d.setReg e.1 e.2).setRegs r from rfl, ih _ (fun x hx => h x (by simp [hx])), Dev.reg_setReg_ne _ _ _ _ (Ne.symm h1)]

/-! ### Queue entries and completions: they change register counters, functions, outputs and what is in flight -/

@[simp] theorem Dev.chCount_links (d : Dev) (c : Option Nat) (n : Nat) : (d.chCount c n).links = d.links := by
  cases c <;> simp [Dev.chCount]
@[simp] theorem Dev.chCount_trn (d : Dev) (c : Option Nat) (n : Nat) : (d.chCount c n).trn = d.trn := by
  cases c <;> simp [Dev.chCount]
@[simp] theorem Dev.chCount_tsh (d : Dev) (c : Option Nat) (n : Nat) : (d.chCount c n).tsh = d.tsh := by
  cases c <;> simp [Dev.chCount]
@[simp] theorem Dev.chCount_waitq (d : Dev) (c : Option Nat) (n : Nat) : (d.chCount c n).waitq = d.waitq := by
  cases c <;> simp [Dev.chCount]
@[simp] theorem Dev.chCount_dir (d : Dev) (c : Option Nat) (n : Nat) : (d.chCount c n).dir = d.dir := by
  cases c <;> simp [Dev.chCount]
@[simp] theorem Dev.chCount_atn (d : Dev) (c : Option Nat) (n : Nat) : (d.chCount c n).atn = d.atn := by
  cases c <;> simp [Dev.chCount]
@[simp] theorem Dev.chCount_bnk (d : Dev) (c : Option Nat) (n : Nat) : (d.chCount c n).bnk = d.bnk := by
  cases c <;> simp [Dev.chCount]
@[simp] theorem Dev.chCount_pgm (d : Dev) (c : Option Nat) (n : Nat) : (d.chCount c n).pgm = d.pgm := by
  cases c <;> simp [Dev.chCount]
@[simp] theorem Dev.chCount_plc (d : Dev) (c : Option Nat) (n : Nat) : (d.chCount c n).plc = d.plc := by
  cases c <;> simp [Dev.chCount]
@[simp] theorem Dev.chCount_cmp (d : Dev) (c : Option Nat) (n : Nat) : (d.chCount c n).cmp = d.cmp := by
  cases c <;> simp [Dev.chCount]
@[simp] theorem Dev.chCount_shp (d : Dev) (c : Option Nat) (n : Nat) : (d.chCount c n).shp = d.shp := by
  cases c <;> simp [Dev.chCount]
@[simp] theorem Dev.chCount_dma (d : Dev) (c : Option Nat) (n : Nat) : (d.chCount c n).dma = d.dma := by
  cases c <;> simp [Dev.chCount]
@[simp] theorem Dev.chCount_sec (d : Dev) (c : Option Nat) (n : Nat) : (d.chCount c n).sec = d.sec := by
  cases c <;> simp [Dev.chCount]
@[simp] theorem Dev.chCount_rcv (d : Dev) (c : Option Nat) (n : Nat) : (d.chCount c n).rcv = d.rcv := by
  cases c <;> simp [Dev.chCount]
@[simp] theorem Dev.chCount_pwr (d : Dev) (c : Option Nat) (n : Nat) : (d.chCount c n).pwr = d.pwr := by
  cases c <;> simp [Dev.chCount]
@[simp] theorem Dev.chCount_out (d : Dev) (c : Option Nat) (n : Nat) : (d.chCount c n).out = d.out := by
  cases c <;> simp [Dev.chCount]
@[simp] theorem Dev.chCount_free (d : Dev) (c : Option Nat) (n : Nat) : (d.chCount c n).free = d.free := by
  cases c <;> simp [Dev.chCount]

@[simp] theorem Dev.sendOut_links (d : Dev) (o : Output) : (d.sendOut o).links = d.links := by
  unfold Dev.sendOut; split <;> simp
@[simp] theorem Dev.sendOut_trn (d : Dev) (o : Output) : (d.sendOut o).trn = d.trn := by
  unfold Dev.sendOut; split <;> simp
@[simp] theorem Dev.sendOut_tsh (d : Dev) (o : Output) : (d.sendOut o).tsh = d.tsh := by
  unfold Dev.sendOut; split <;> simp
@[simp] theorem Dev.sendOut_waitq (d : Dev) (o : Output) : (d.sendOut o).waitq = d.waitq := by
  unfold Dev.sendOut; split <;> simp
@[simp] theorem Dev.sendOut_dir (d : Dev) (o : Output) : (d.sendOut o).dir = d.dir := by
  unfold Dev.sendOut; split <;> simp
@[simp] theorem Dev.sendOut_atn (d : Dev) (o : Output) : (d.sendOut o).atn = d.atn := by
  unfold Dev.sendOut; split <;> simp
@[simp] theorem Dev.sendOut_bnk (d : Dev) (o : Output) : (d.sendOut o).bnk = d.bnk := by
  unfold Dev.sendOut; split <;> simp
@[simp] theorem Dev.sendOut_pgm (d : Dev) (o : Output) : (d.sendOut o).pgm = d.pgm := by
  unfold Dev.sendOut; split <;> simp
@[simp] theorem Dev.sendOut_plc (d : Dev) (o : Output) : (d.sendOut o).plc = d.plc := by
  unfold Dev.sendOut; split <;> simp
@[simp] theorem Dev.sendOut_cmp (d : Dev) (o : Output) : (d.sendOut o).cmp = d.cmp := by
  unfold Dev.sendOut; split <;> simp
@[simp] theorem Dev.sendOut_shp (d : Dev) (o : Output) : (d.sendOut o).shp = d.shp := by
  unfold Dev.sendOut; split <;> simp
@[simp] theorem Dev.sendOut_dma (d : Dev) (o : Output) : (d.sendOut o).dma = d.dma := by
  unfold Dev.sendOut; split <;> simp
@[simp] theorem Dev.sendOut_sec (d : Dev) (o : Output) : (d.sendOut o).sec = d.sec := by
  unfold Dev.sendOut; split <;> simp
@[simp] theorem Dev.sendOut_rcv (d : Dev) (o : Output) : (d.sendOut o).rcv = d.rcv := by
  unfold Dev.sendOut; split <;> simp
@[simp] theorem Dev.sendOut_pwr (d : Dev) (o : Output) : (d.sendOut o).pwr = d.pwr := by
  unfold Dev.sendOut; split <;> simp
@[simp] theorem Dev.sendOut_free (d : Dev) (o : Output) : (d.sendOut o).free = d.free := by
  unfold Dev.sendOut; split <;> simp

@[simp] theorem Dev.nodeOut_links (d : Dev) (o : Output) : (d.nodeOut o).links = d.links := by
  unfold Dev.nodeOut; split <;> simp
@[simp] theorem Dev.nodeOut_trn (d : Dev) (o : Output) : (d.nodeOut o).trn = d.trn := by
  unfold Dev.nodeOut; split <;> simp
@[simp] theorem Dev.nodeOut_tsh (d : Dev) (o : Output) : (d.nodeOut o).tsh = d.tsh := by
  unfold Dev.nodeOut; split <;> simp
@[simp] theorem Dev.nodeOut_waitq (d : Dev) (o : Output) : (d.nodeOut o).waitq = d.waitq := by
  unfold Dev.nodeOut; split <;> simp
@[simp] theorem Dev.nodeOut_dir (d : Dev) (o : Output) : (d.nodeOut o).dir = d.dir := by
  unfold Dev.nodeOut; split <;> simp
@[simp] theorem Dev.nodeOut_atn (d : Dev) (o : Output) : (d.nodeOut o).atn = d.atn := by
  unfold Dev.nodeOut; split <;> simp
@[simp] theorem Dev.nodeOut_bnk (d : Dev) (o : Output) : (d.nodeOut o).bnk = d.bnk := by
  unfold Dev.nodeOut; split <;> simp
@[simp] theorem Dev.nodeOut_pgm (d : Dev) (o : Output) : (d.nodeOut o).pgm = d.pgm := by
  unfold Dev.nodeOut; split <;> simp
@[simp] theorem Dev.nodeOut_plc (d : Dev) (o : Output) : (d.nodeOut o).plc = d.plc := by
  unfold Dev.nodeOut; split <;> simp
@[simp] theorem Dev.nodeOut_cmp (d : Dev) (o : Output) : (d.nodeOut o).cmp = d.cmp := by
  unfold Dev.nodeOut; split <;> simp
@[simp] theorem Dev.nodeOut_shp (d : Dev) (o : Output) : (d.nodeOut o).shp = d.shp := by
  unfold Dev.nodeOut; split <;> simp
@[simp] theorem Dev.nodeOut_sec (d : Dev) (o : Output) : (d.nodeOut o).sec = d.sec := by
  unfold Dev.nodeOut; split <;> simp
@[simp] theorem Dev.nodeOut_rcv (d : Dev) (o : Output) : (d.nodeOut o).rcv = d.rcv := by
  unfold Dev.nodeOut; split <;> simp
@[simp] theorem Dev.nodeOut_pwr (d : Dev) (o : Output) : (d.nodeOut o).pwr = d.pwr := by
  unfold Dev.nodeOut; split <;> simp
@[simp] theorem Dev.nodeOut_free (d : Dev) (o : Output) : (d.nodeOut o).free = d.free := by
  unfold Dev.nodeOut; split <;> simp

@[simp] theorem Dev.nodeWrite_links (d : Dev) (f a : Nat) (b : Bytes) : (d.nodeWrite f a b).links = d.links := by
  simp [Dev.nodeWrite]
@[simp] theorem Dev.nodeWrite_trn (d : Dev) (f a : Nat) (b : Bytes) : (d.nodeWrite f a b).trn = d.trn := by
  simp [Dev.nodeWrite]
@[simp] theorem Dev.nodeWrite_tsh (d : Dev) (f a : Nat) (b : Bytes) : (d.nodeWrite f a b).tsh = d.tsh := by
  simp [Dev.nodeWrite]
@[simp] theorem Dev.nodeWrite_waitq (d : Dev) (f a : Nat) (b : Bytes) : (d.nodeWrite f a b).waitq = d.waitq := by
  simp [Dev.nodeWrite]
@[simp] theorem Dev.nodeWrite_dir (d : Dev) (f a : Nat) (b : Bytes) : (d.nodeWrite f a b).dir = d.dir := by
  simp [Dev.nodeWrite]
@[simp] theorem Dev.nodeWrite_atn (d : Dev) (f a : Nat) (b : Bytes) : (d.nodeWrite f a b).atn = d.atn := by
  simp [Dev.nodeWrite]
@[simp] theorem Dev.nodeWrite_bnk (d : Dev) (f a : Nat) (b : Bytes) : (d.nodeWrite f a b).bnk = d.bnk := by
  simp [Dev.nodeWrite]
@[simp] theorem Dev.nodeWrite_pgm (d : Dev) (f a : Nat) (b : Bytes) : (d.nodeWrite f a b).pgm = d.pgm := by
  simp [Dev.nodeWrite]
@[simp] theorem Dev.nodeWrite_plc (d : Dev) (f a : Nat) (b : Bytes) : (d.nodeWrite f a b).plc = d.plc := by
  simp [Dev.nodeWrite]
@[simp] theorem Dev.nodeWrite_cmp (d : Dev) (f a : Nat) (b : Bytes) : (d.nodeWrite f a b).cmp = d.cmp := by
  simp [Dev.nodeWrite]
@[simp] theorem Dev.nodeWrite_shp (d : Dev) (f a : Nat) (b : Bytes) : (d.nodeWrite f a b).shp = d.shp := by
  simp [Dev.nodeWrite]
@[simp] theorem Dev.nodeWrite_sec (d : Dev) (f a : Nat) (b : Bytes) : (d.nodeWrite f a b).sec = d.sec := by
  simp [Dev.nodeWrite]
@[simp] theorem Dev.nodeWrite_rcv (d : Dev) (f a : Nat) (b : Bytes) : (d.nodeWrite f a b).rcv = d.rcv := by
  simp [Dev.nodeWrite]
@[simp] theorem Dev.nodeWrite_pwr (d : Dev) (f a : Nat) (b : Bytes) : (d.nodeWrite f a b).pwr = d.pwr := by
  simp [Dev.nodeWrite]
@[simp] theorem Dev.nodeWrite_free (d : Dev) (f a : Nat) (b : Bytes) : (d.nodeWrite f a b).free = d.free := by
  simp [Dev.nodeWrite]

@[simp] theorem Dev.sendVec_links (d : Dev) (f v : Nat) : (d.sendVec f v).links = d.links := by
  unfold Dev.sendVec; dsimp only; split <;> simp
@[simp] theorem Dev.sendVec_trn (d : Dev) (f v : Nat) : (d.sendVec f v).trn = d.trn := by
  unfold Dev.sendVec; dsimp only; split <;> simp
@[simp] theorem Dev.sendVec_tsh (d : Dev) (f v : Nat) : (d.sendVec f v).tsh = d.tsh := by
  unfold Dev.sendVec; dsimp only; split <;> simp
@[simp] theorem Dev.sendVec_waitq (d : Dev) (f v : Nat) : (d.sendVec f v).waitq = d.waitq := by
  unfold Dev.sendVec; dsimp only; split <;> simp
@[simp] theorem Dev.sendVec_dir (d : Dev) (f v : Nat) : (d.sendVec f v).dir = d.dir := by
  unfold Dev.sendVec; dsimp only; split <;> simp
@[simp] theorem Dev.sendVec_atn (d : Dev) (f v : Nat) : (d.sendVec f v).atn = d.atn := by
  unfold Dev.sendVec; dsimp only; split <;> simp
@[simp] theorem Dev.sendVec_bnk (d : Dev) (f v : Nat) : (d.sendVec f v).bnk = d.bnk := by
  unfold Dev.sendVec; dsimp only; split <;> simp
@[simp] theorem Dev.sendVec_pgm (d : Dev) (f v : Nat) : (d.sendVec f v).pgm = d.pgm := by
  unfold Dev.sendVec; dsimp only; split <;> simp
@[simp] theorem Dev.sendVec_plc (d : Dev) (f v : Nat) : (d.sendVec f v).plc = d.plc := by
  unfold Dev.sendVec; dsimp only; split <;> simp
@[simp] theorem Dev.sendVec_cmp (d : Dev) (f v : Nat) : (d.sendVec f v).cmp = d.cmp := by
  unfold Dev.sendVec; dsimp only; split <;> simp
@[simp] theorem Dev.sendVec_shp (d : Dev) (f v : Nat) : (d.sendVec f v).shp = d.shp := by
  unfold Dev.sendVec; dsimp only; split <;> simp
@[simp] theorem Dev.sendVec_sec (d : Dev) (f v : Nat) : (d.sendVec f v).sec = d.sec := by
  unfold Dev.sendVec; dsimp only; split <;> simp
@[simp] theorem Dev.sendVec_rcv (d : Dev) (f v : Nat) : (d.sendVec f v).rcv = d.rcv := by
  unfold Dev.sendVec; dsimp only; split <;> simp
@[simp] theorem Dev.sendVec_pwr (d : Dev) (f v : Nat) : (d.sendVec f v).pwr = d.pwr := by
  unfold Dev.sendVec; dsimp only; split <;> simp
@[simp] theorem Dev.sendVec_free (d : Dev) (f v : Nat) : (d.sendVec f v).free = d.free := by
  unfold Dev.sendVec; dsimp only; split <;> simp

@[simp] theorem Dev.acqWrite_links (d : Dev) (f e : Nat) : (d.acqWrite f e).links = d.links := by
  unfold Dev.acqWrite; dsimp only; repeat' split
  all_goals simp
@[simp] theorem Dev.acqWrite_trn (d : Dev) (f e : Nat) : (d.acqWrite f e).trn = d.trn := by
  unfold Dev.acqWrite; dsimp only; repeat' split
  all_goals simp
@[simp] theorem Dev.acqWrite_tsh (d : Dev) (f e : Nat) : (d.acqWrite f e).tsh = d.tsh := by
  unfold Dev.acqWrite; dsimp only; repeat' split
  all_goals simp
@[simp] theorem Dev.acqWrite_waitq (d : Dev) (f e : Nat) : (d.acqWrite f e).waitq = d.waitq := by
  unfold Dev.acqWrite; dsimp only; repeat' split
  all_goals simp
@[simp] theorem Dev.acqWrite_dir (d : Dev) (f e : Nat) : (d.acqWrite f e).dir = d.dir := by
  unfold Dev.acqWrite; dsimp only; repeat' split
  all_goals simp
@[simp] theorem Dev.acqWrite_atn (d : Dev) (f e : Nat) : (d.acqWrite f e).atn = d.atn := by
  unfold Dev.acqWrite; dsimp only; repeat' split
  all_goals simp
@[simp] theorem Dev.acqWrite_bnk (d : Dev) (f e : Nat) : (d.acqWrite f e).bnk = d.bnk := by
  unfold Dev.acqWrite; dsimp only; repeat' split
  all_goals simp
@[simp] theorem Dev.acqWrite_pgm (d : Dev) (f e : Nat) : (d.acqWrite f e).pgm = d.pgm := by
  unfold Dev.acqWrite; dsimp only; repeat' split
  all_goals simp
@[simp] theorem Dev.acqWrite_plc (d : Dev) (f e : Nat) : (d.acqWrite f e).plc = d.plc := by
  unfold Dev.acqWrite; dsimp only; repeat' split
  all_goals simp
@[simp] theorem Dev.acqWrite_cmp (d : Dev) (f e : Nat) : (d.acqWrite f e).cmp = d.cmp := by
  unfold Dev.acqWrite; dsimp only; repeat' split
  all_goals simp
@[simp] theorem Dev.acqWrite_shp (d : Dev) (f e : Nat) : (d.acqWrite f e).shp = d.shp := by
  unfold Dev.acqWrite; dsimp only; repeat' split
  all_goals simp
@[simp] theorem Dev.acqWrite_sec (d : Dev) (f e : Nat) : (d.acqWrite f e).sec = d.sec := by
  unfold Dev.acqWrite; dsimp only; repeat' split
  all_goals simp
@[simp] theorem Dev.acqWrite_rcv (d : Dev) (f e : Nat) : (d.acqWrite f e).rcv = d.rcv := by
  unfold Dev.acqWrite; dsimp only; repeat' split
  all_goals simp
@[simp] theorem Dev.acqWrite_pwr (d : Dev) (f e : Nat) : (d.acqWrite f e).pwr = d.pwr := by
  unfold Dev.acqWrite; dsimp only; repeat' split
  all_goals simp
@[simp] theorem Dev.acqWrite_free (d : Dev) (f e : Nat) : (d.acqWrite f e).free = d.free := by
  unfold Dev.acqWrite; dsimp only; repeat' split
  all_goals simp

@[simp] theorem Dev.cqWrite_links (d : Dev) (f c e : Nat) (b : Bool) : (d.cqWrite f c e b).links = d.links := by
  unfold Dev.cqWrite; dsimp only; repeat' split
  all_goals simp
@[simp] theorem Dev.cqWrite_trn (d : Dev) (f c e : Nat) (b : Bool) : (d.cqWrite f c e b).trn = d.trn := by
  unfold Dev.cqWrite; dsimp only; repeat' split
  all_goals simp
@[simp] theorem Dev.cqWrite_tsh (d : Dev) (f c e : Nat) (b : Bool) : (d.cqWrite f c e b).tsh = d.tsh := by
  unfold Dev.cqWrite; dsimp only; repeat' split
  all_goals simp
@[simp] theorem Dev.cqWrite_waitq (d : Dev) (f c e : Nat) (b : Bool) : (d.cqWrite f c e b).waitq = d.waitq := by
  unfold Dev.cqWrite; dsimp only; repeat' split
  all_goals simp
@[simp] theorem Dev.cqWrite_dir (d : Dev) (f c e : Nat) (b : Bool) : (d.cqWrite f c e b).dir = d.dir := by
  unfold Dev.cqWrite; dsimp only; repeat' split
  all_goals simp
@[simp] theorem Dev.cqWrite_atn (d : Dev) (f c e : Nat) (b : Bool) : (d.cqWrite f c e b).atn = d.atn := by
  unfold Dev.cqWrite; dsimp only; repeat' split
  all_goals simp
@[simp] theorem Dev.cqWrite_bnk (d : Dev) (f c e : Nat) (b : Bool) : (d.cqWrite f c e b).bnk = d.bnk := by
  unfold Dev.cqWrite; dsimp only; repeat' split
  all_goals simp
@[simp] theorem Dev.cqWrite_pgm (d : Dev) (f c e : Nat) (b : Bool) : (d.cqWrite f c e b).pgm = d.pgm := by
  unfold Dev.cqWrite; dsimp only; repeat' split
  all_goals simp
@[simp] theorem Dev.cqWrite_plc (d : Dev) (f c e : Nat) (b : Bool) : (d.cqWrite f c e b).plc = d.plc := by
  unfold Dev.cqWrite; dsimp only; repeat' split
  all_goals simp
@[simp] theorem Dev.cqWrite_cmp (d : Dev) (f c e : Nat) (b : Bool) : (d.cqWrite f c e b).cmp = d.cmp := by
  unfold Dev.cqWrite; dsimp only; repeat' split
  all_goals simp
@[simp] theorem Dev.cqWrite_shp (d : Dev) (f c e : Nat) (b : Bool) : (d.cqWrite f c e b).shp = d.shp := by
  unfold Dev.cqWrite; dsimp only; repeat' split
  all_goals simp
@[simp] theorem Dev.cqWrite_sec (d : Dev) (f c e : Nat) (b : Bool) : (d.cqWrite f c e b).sec = d.sec := by
  unfold Dev.cqWrite; dsimp only; repeat' split
  all_goals simp
@[simp] theorem Dev.cqWrite_rcv (d : Dev) (f c e : Nat) (b : Bool) : (d.cqWrite f c e b).rcv = d.rcv := by
  unfold Dev.cqWrite; dsimp only; repeat' split
  all_goals simp
@[simp] theorem Dev.cqWrite_pwr (d : Dev) (f c e : Nat) (b : Bool) : (d.cqWrite f c e b).pwr = d.pwr := by
  unfold Dev.cqWrite; dsimp only; repeat' split
  all_goals simp
@[simp] theorem Dev.cqWrite_free (d : Dev) (f c e : Nat) (b : Bool) : (d.cqWrite f c e b).free = d.free := by
  unfold Dev.cqWrite; dsimp only; repeat' split
  all_goals simp

@[simp] theorem Dev.postEvent_links (d : Dev) (f t a x : Nat) : (d.postEvent f t a x).links = d.links := by
  unfold Dev.postEvent; dsimp only; repeat' split
  all_goals simp
@[simp] theorem Dev.postEvent_trn (d : Dev) (f t a x : Nat) : (d.postEvent f t a x).trn = d.trn := by
  unfold Dev.postEvent; dsimp only; repeat' split
  all_goals simp
@[simp] theorem Dev.postEvent_tsh (d : Dev) (f t a x : Nat) : (d.postEvent f t a x).tsh = d.tsh := by
  unfold Dev.postEvent; dsimp only; repeat' split
  all_goals simp
@[simp] theorem Dev.postEvent_waitq (d : Dev) (f t a x : Nat) : (d.postEvent f t a x).waitq = d.waitq := by
  unfold Dev.postEvent; dsimp only; repeat' split
  all_goals simp
@[simp] theorem Dev.postEvent_dir (d : Dev) (f t a x : Nat) : (d.postEvent f t a x).dir = d.dir := by
  unfold Dev.postEvent; dsimp only; repeat' split
  all_goals simp
@[simp] theorem Dev.postEvent_atn (d : Dev) (f t a x : Nat) : (d.postEvent f t a x).atn = d.atn := by
  unfold Dev.postEvent; dsimp only; repeat' split
  all_goals simp
@[simp] theorem Dev.postEvent_bnk (d : Dev) (f t a x : Nat) : (d.postEvent f t a x).bnk = d.bnk := by
  unfold Dev.postEvent; dsimp only; repeat' split
  all_goals simp
@[simp] theorem Dev.postEvent_pgm (d : Dev) (f t a x : Nat) : (d.postEvent f t a x).pgm = d.pgm := by
  unfold Dev.postEvent; dsimp only; repeat' split
  all_goals simp
@[simp] theorem Dev.postEvent_plc (d : Dev) (f t a x : Nat) : (d.postEvent f t a x).plc = d.plc := by
  unfold Dev.postEvent; dsimp only; repeat' split
  all_goals simp
@[simp] theorem Dev.postEvent_cmp (d : Dev) (f t a x : Nat) : (d.postEvent f t a x).cmp = d.cmp := by
  unfold Dev.postEvent; dsimp only; repeat' split
  all_goals simp
@[simp] theorem Dev.postEvent_shp (d : Dev) (f t a x : Nat) : (d.postEvent f t a x).shp = d.shp := by
  unfold Dev.postEvent; dsimp only; repeat' split
  all_goals simp
@[simp] theorem Dev.postEvent_sec (d : Dev) (f t a x : Nat) : (d.postEvent f t a x).sec = d.sec := by
  unfold Dev.postEvent; dsimp only; repeat' split
  all_goals simp
@[simp] theorem Dev.postEvent_rcv (d : Dev) (f t a x : Nat) : (d.postEvent f t a x).rcv = d.rcv := by
  unfold Dev.postEvent; dsimp only; repeat' split
  all_goals simp
@[simp] theorem Dev.postEvent_pwr (d : Dev) (f t a x : Nat) : (d.postEvent f t a x).pwr = d.pwr := by
  unfold Dev.postEvent; dsimp only; repeat' split
  all_goals simp
@[simp] theorem Dev.postEvent_free (d : Dev) (f t a x : Nat) : (d.postEvent f t a x).free = d.free := by
  unfold Dev.postEvent; dsimp only; repeat' split
  all_goals simp

@[simp] theorem Dev.mgmtDone_links (d : Dev) (o s : Nat) (b : Bytes) : (d.mgmtDone o s b).links = d.links := by
  unfold Dev.mgmtDone; dsimp only; split
  · simp
  · split <;> simp
@[simp] theorem Dev.mgmtDone_trn (d : Dev) (o s : Nat) (b : Bytes) : (d.mgmtDone o s b).trn = d.trn := by
  unfold Dev.mgmtDone; dsimp only; split
  · simp
  · split <;> simp
@[simp] theorem Dev.mgmtDone_tsh (d : Dev) (o s : Nat) (b : Bytes) : (d.mgmtDone o s b).tsh = d.tsh := by
  unfold Dev.mgmtDone; dsimp only; split
  · simp
  · split <;> simp
@[simp] theorem Dev.mgmtDone_waitq (d : Dev) (o s : Nat) (b : Bytes) : (d.mgmtDone o s b).waitq = d.waitq := by
  unfold Dev.mgmtDone; dsimp only; split
  · simp
  · split <;> simp
@[simp] theorem Dev.mgmtDone_dir (d : Dev) (o s : Nat) (b : Bytes) : (d.mgmtDone o s b).dir = d.dir := by
  unfold Dev.mgmtDone; dsimp only; split
  · simp
  · split <;> simp
@[simp] theorem Dev.mgmtDone_atn (d : Dev) (o s : Nat) (b : Bytes) : (d.mgmtDone o s b).atn = d.atn := by
  unfold Dev.mgmtDone; dsimp only; split
  · simp
  · split <;> simp
@[simp] theorem Dev.mgmtDone_bnk (d : Dev) (o s : Nat) (b : Bytes) : (d.mgmtDone o s b).bnk = d.bnk := by
  unfold Dev.mgmtDone; dsimp only; split
  · simp
  · split <;> simp
@[simp] theorem Dev.mgmtDone_pgm (d : Dev) (o s : Nat) (b : Bytes) : (d.mgmtDone o s b).pgm = d.pgm := by
  unfold Dev.mgmtDone; dsimp only; split
  · simp
  · split <;> simp
@[simp] theorem Dev.mgmtDone_plc (d : Dev) (o s : Nat) (b : Bytes) : (d.mgmtDone o s b).plc = d.plc := by
  unfold Dev.mgmtDone; dsimp only; split
  · simp
  · split <;> simp
@[simp] theorem Dev.mgmtDone_cmp (d : Dev) (o s : Nat) (b : Bytes) : (d.mgmtDone o s b).cmp = d.cmp := by
  unfold Dev.mgmtDone; dsimp only; split
  · simp
  · split <;> simp
@[simp] theorem Dev.mgmtDone_shp (d : Dev) (o s : Nat) (b : Bytes) : (d.mgmtDone o s b).shp = d.shp := by
  unfold Dev.mgmtDone; dsimp only; split
  · simp
  · split <;> simp
@[simp] theorem Dev.mgmtDone_sec (d : Dev) (o s : Nat) (b : Bytes) : (d.mgmtDone o s b).sec = d.sec := by
  unfold Dev.mgmtDone; dsimp only; split
  · simp
  · split <;> simp
@[simp] theorem Dev.mgmtDone_rcv (d : Dev) (o s : Nat) (b : Bytes) : (d.mgmtDone o s b).rcv = d.rcv := by
  unfold Dev.mgmtDone; dsimp only; split
  · simp
  · split <;> simp
@[simp] theorem Dev.mgmtDone_free (d : Dev) (o s : Nat) (b : Bytes) : (d.mgmtDone o s b).free = d.free := by
  unfold Dev.mgmtDone; dsimp only; split
  · simp
  · split <;> simp

/-! ### Commands that answer a next state -/

/-- The effect of a command in another form. -/
theorem went_of {c : Instr} {s : State} {d e : Dev} (h : exec c s = .next (s.went d)) (he : e = d) : exec c s = .next (s.went e) := by
  subst he; exact h

@[simp] theorem State.went_dev (s : State) (d : Dev) : (s.went d).dev = if s.dev.portHeld d then s.dev else d.after s.qb := by
  by_cases h : s.dev.portHeld d = true <;> simp only [State.went, h, if_true, if_false, Bool.false_eq_true]
@[simp] theorem State.went_qb (s : State) (d : Dev) : (s.went d).qb = s.qb := by
  by_cases h : s.dev.portHeld d = true <;> simp only [State.went, h, if_true, if_false, Bool.false_eq_true]
@[simp] theorem State.went_nor (s : State) (d : Dev) : (s.went d).nor = s.nor := by
  by_cases h : s.dev.portHeld d = true <;> simp only [State.went, h, if_true, if_false, Bool.false_eq_true]
@[simp] theorem State.went_mram (s : State) (d : Dev) : (s.went d).mram = s.mram := by
  by_cases h : s.dev.portHeld d = true <;> simp only [State.went, h, if_true, if_false, Bool.false_eq_true]
@[simp] theorem State.went_phys (s : State) (d : Dev) : (s.went d).phys = s.phys := by
  by_cases h : s.dev.portHeld d = true <;> simp only [State.went, h, if_true, if_false, Bool.false_eq_true]
@[simp] theorem State.wentQ_dev (s : State) (qb : QBuf) (d : Dev) : (s.wentQ qb d).dev = if s.dev.portHeld d then s.dev else d.after qb := by
  by_cases h : s.dev.portHeld d = true <;> simp only [State.wentQ, h, if_true, if_false, Bool.false_eq_true]
@[simp] theorem State.wentQ_qb (s : State) (qb : QBuf) (d : Dev) : (s.wentQ qb d).qb = if s.dev.portHeld d then s.qb else qb := by
  by_cases h : s.dev.portHeld d = true <;> simp only [State.wentQ, h, if_true, if_false, Bool.false_eq_true]

/-! What a full chip reset leaves of the physical side. -/

@[simp] theorem Phys.lost_pwrok (p : Phys) : p.lost.pwrok = p.pwrok := rfl
@[simp] theorem Phys.lost_perst (p : Phys) : p.lost.perst = p.perst := rfl
@[simp] theorem Phys.lost_nodeRst (p : Phys) : p.lost.nodeRst = p.nodeRst := rfl
@[simp] theorem Phys.lost_pwrcyc (p : Phys) : p.lost.pwrcyc = p.pwrcyc := rfl
@[simp] theorem Phys.lost_ir (p : Phys) : p.lost.ir = p.ir := rfl
@[simp] theorem Phys.lost_jmode (p : Phys) : p.lost.jmode = p.jmode := rfl
@[simp] theorem Phys.lost_bsr (p : Phys) : p.lost.bsr = p.bsr := rfl
@[simp] theorem Phys.lost_i3cDyn (p : Phys) : p.lost.i3cDyn = none := rfl
@[simp] theorem Phys.lost_dies (p : Phys) : p.lost.dies = [] := rfl
@[simp] theorem Phys.lost_cls (p : Phys) : p.lost.cls = [] := rfl
@[simp] theorem Phys.lost_mainPk (p : Phys) : p.lost.mainPk = none := rfl

/-- A command that changes the device alone answers the state after its effect. -/
theorem State.run_eq (s : State) (f : Dev → Dev) : s.run f = .next (s.went (f s.dev)) := by
  by_cases h : s.dev.portHeld (f s.dev) = true <;> simp only [State.run, State.went, h, if_true, if_false, Bool.false_eq_true]

/-- The same for one that may write the query buffer. -/
theorem State.runQ_eq (s : State) (f : QBuf → Dev → QBuf × Dev) : s.runQ f = .next (s.wentQ (f s.qb s.dev).1 (f s.qb s.dev).2) := by
  by_cases h : s.dev.portHeld (f s.qb s.dev).2 = true <;> simp only [State.runQ, State.wentQ, h, if_true, if_false, Bool.false_eq_true]

/-- A query buffer that stays. -/
@[simp] theorem State.wentQ_same (s : State) (d : Dev) : s.wentQ s.qb d = s.went d := rfl

/-- A command that is the one its envelope asks for. -/
theorem Dev.asks_pos {d : Dev} {i : Instr} (h : d.asked i = true) (f : Dev → Dev) : Dev.asks i f d = f d := if_pos h

/-- A journal whose queue has room holds no command (R377). -/
theorem State.went_free (s : State) (d : Dev) (h : s.dev.rcv.jq.length < 64) : s.went d = { s with dev := d.after s.qb } := by
  unfold State.went Dev.portHeld
  rw [if_neg]
  simp only [Bool.and_eq_true, decide_eq_true_eq]; omega

/-- Blocks that an update does not name are the same. -/
theorem Dev.onlyIn_refl (bs : List Blk) (d : Dev) : d.onlyIn bs d := by intro b _; cases b <;> rfl

theorem Dev.onlyIn_trans {a b : List Blk} {d e f : Dev} (h : d.onlyIn a e) (k : e.onlyIn b f) : d.onlyIn (a ++ b) f := by
  intro x hx
  simp only [List.mem_append, not_or] at hx
  have h1 := h x hx.1
  have h2 := k x hx.2
  cases x <;> exact h2.trans h1

end Sys2Proof.Machine
end

