-- ==== Sys2Proof/WellFormed.lean ====
section
/-! DEFINITION. Which commands can arrive at all: every operand within the range that its field, table or block has. The meanings
take any operands; these are the checks that a command from the outside passes by its form. -/

namespace Sys2Proof

/-- The check that a command fails. -/
inductive Ill where
  | access | link | flit | stack | bank | cluster | function | queue | channel | stream | aperture
  | qpn | msn | class_ | keyIndex | tenant | part | node | run | epoch | slot | tile | region | entryIndex | unit
  | programSlot | tableSlot | length | record | instruction
  deriving DecidableEq, Repr

/-- The first check that fails, in order. -/
def firstIll : List (Bool × Ill) → Option Ill
  | [] => none
  | (ok, e) :: r => if ok then firstIll r else some e

/-- The tile addresses of column faults have 33 bits (R334). -/
def faultsOk (fs : List ColFault) : Bool := fs.all (fun f => decide (f.tile < 2 ^ 33))

/-- Fields of a page-run's identity (R167). -/
def RunId.ok (r : RunId) : Bool :=
  decide (r.ten < 2 ^ 12 ∧ r.seq < 2 ^ 48 ∧ r.layer < 2 ^ 10 ∧ r.hgrp < 2 ^ 6 ∧ r.page < 2 ^ 32)

/-- Fields of QP_CREATE (Table 10.7). -/
def QpArgs.ok (a : QpArgs) : Bool :=
  decide (a.ten < 2 ^ 12 ∧ a.part < 2 ^ 4 ∧ a.remote < 2 ^ 16 ∧ a.rqpn < 2 ^ 20 ∧ a.type < 4 ∧ a.txclass < 16 ∧ a.pmaxc < 8 ∧
    a.paths.length ≤ 16 ∧ a.pmask < 2 ^ 16 ∧ a.cwin < 2 ^ 16 ∧ a.swin < 2 ^ 16 ∧ a.rbase < 2 ^ 64 ∧ a.rakidx < 2 ^ 24 ∧
    a.raktag < 2 ^ 16 ∧ a.cq < 2 ^ 16 ∧ a.ckey < 2 ^ 16 ∧ a.ridge < 2 ^ 16)

/-- Where an access lands: BAR2 and BAR4 belong to one of 17 functions (R299, R305). -/
def RegAcc.fnOk (a : RegAcc) : Bool := match a.win with
  | .bar0 => true
  | .bar2 f _ | .bar4 f _ => decide (f < 17)

/-- An access to a register is 32 or 64 bits wide, and its value no wider (R12). -/
def RegAcc.widthOk (a : RegAcc) : Bool := decide (a.width = 64 ∨ (a.width = 32 ∧ a.val.toNat < 2 ^ 32))

/-- The unit numbers of a stack, die, bank group and bank (Table 1.1). -/
def bankOk (stack die group bank : Nat) : Bool := decide (stack < 8 ∧ die < 16 ∧ group < 32 ∧ bank < 4)

/-- The form of each command, checked. -/
def Instr.ill : Instr → Option Ill
  | .registerWrite a => firstIll [(a.widthOk, .access), (a.fnOk, .function)]
  | .w1cRegisterWrite a _ => firstIll [(a.widthOk, .access), (a.fnOk, .function)]
  | .rcRegisterRead w _ n => firstIll [(decide (n = 32 ∨ n = 64), .access), ((RegAcc.mk w 0 32 0).fnOk, .function)]
  | .flitReceive l f _ => firstIll [(decide (l < 32), .link), (decide (f.length = 256), .flit)]
  | .linkLoss l => firstIll [(decide (l < 32), .link)]
  | .linkTrainingComplete l _ => firstIll [(decide (l < 32), .link)]
  | .retrain l => firstIll [(decide (l < 32), .link)]
  | .packetIngress l _ _ => firstIll [(decide (l < 32), .link)]
  | .qpContextFetchDone q im => firstIll [(decide (q < 2 ^ 20), .qpn), (decide (im.length = 128), .length)]
  | .qpContextEvict q => firstIll [(decide (q < 2 ^ 20), .qpn)]
  | .accessKeyFetchDone i => firstIll [(decide (i < 2 ^ 24), .keyIndex)]
  | .submitHandOn q => firstIll [(decide (q < 2 ^ 20), .qpn)]
  | .write q m => firstIll [(decide (q < 2 ^ 20), .qpn), (decide (m < 2 ^ 24), .msn)]
  | .writeImm q m => firstIll [(decide (q < 2 ^ 20), .qpn), (decide (m < 2 ^ 24), .msn)]
  | .writeImmCompletion c => firstIll [(decide (c < 4096), .queue)]
  | .read q m => firstIll [(decide (q < 2 ^ 20), .qpn), (decide (m < 2 ^ 24), .msn)]
  | .atomic q m => firstIll [(decide (q < 2 ^ 20), .qpn), (decide (m < 2 ^ 24), .msn)]
  | .credit q => firstIll [(decide (q < 2 ^ 20), .qpn)]
  | .resync q => firstIll [(decide (q < 2 ^ 20), .qpn)]
  | .partialMsg q m => firstIll [(decide (q < 2 ^ 20), .qpn), (decide (m < 2 ^ 24), .msn)]
  | .tenon => none
  | .leafBlockReadDone a _ => firstIll [(decide (a < 2 ^ 33), .tile)]
  | .clusterWorkOrder fs => firstIll [(faultsOk fs, .tile)]
  | .frameOrder st fs => firstIll [(decide (st < 8), .stack), (faultsOk fs, .tile)]
  | .slotBoundary st d g b _ fs => firstIll [(bankOk st d g b, .bank), (faultsOk fs, .tile)]
  | .refreshDue st d g b => firstIll [(bankOk st d g b, .bank)]
  | .activityWindow st => firstIll [(decide (st < 8), .stack)]
  | .regulatorLevelChange st d _ => firstIll [(bankOk st d 0 0, .bank)]
  | .clusterLevelChange c _ => firstIll [(decide (c < 24), .cluster)]
  | .stackMerge st t => firstIll [(decide (st < 8), .stack), (decide (t < 65536), .entryIndex)]
  | .faultReport => none
  | .tenonMerge ⟨t, fs⟩ => firstIll [(decide (t < 65536), .entryIndex), (faultsOk fs, .tile)]
  | .egressEnqueue l => firstIll [(decide (l < 32), .link)]
  | .schedulerPick l => firstIll [(decide (l < 32), .link)]
  | .policerRefill l => firstIll [(decide (l < 32), .link)]
  | .append sl fs => firstIll [(decide (sl < 2 ^ 22), .slot), (faultsOk fs, .tile)]
  | .trim sl => firstIll [(decide (sl < 2 ^ 22), .slot)]
  | .keep sl fs => firstIll [(decide (sl < 2 ^ 22), .slot), (faultsOk fs, .tile)]
  | .fork sl fs => firstIll [(decide (sl < 2 ^ 22), .slot), (faultsOk fs, .tile)]
  | .editPublish sl => firstIll [(decide (sl < 2 ^ 22), .slot)]
  | .openSeq => none
  | .closeSeq sl => firstIll [(decide (sl < 2 ^ 22), .slot)]
  | .offer fs => firstIll [(faultsOk fs, .tile)]
  | .accept => none
  | .commit => none
  | .claimed => none
  | .claim => none
  | .decline => none
  | .release => none
  | .mirrorEdit => none
  | .mirrorAck => none
  | .shadow => none
  | .openVersion => none
  | .closeVersion => none
  | .openDraft => none
  | .poolWrite fs => firstIll [(faultsOk fs, .tile)]
  | .discard => none
  | .publish fs => firstIll [(faultsOk fs, .tile)]
  | .poolPublishSwap x => firstIll [(decide (x < 4096), .entryIndex)]
  | .gather fs => firstIll [(faultsOk fs, .tile)]
  | .draftAbort => none
  | .tnowAdvance => none
  | .tnowRebase => none
  | .pnowAdvance => none
  | .promotion i fs => firstIll [(i.ok, .run), (faultsOk fs, .tile)]
  | .demotion i fs => firstIll [(i.ok, .run), (faultsOk fs, .tile)]
  | .lending i fs => firstIll [(i.ok, .run), (faultsOk fs, .tile)]
  | .spill i ⟨fs, b⟩ => firstIll [(i.ok, .run), (faultsOk fs, .tile), (decide (b.getD 6 = 6 ∨ b = some 7), .unit)]
  | .stageBack i _ => firstIll [(i.ok, .run)]
  | .returnRun i fs => firstIll [(i.ok, .run), (faultsOk fs, .tile)]
  | .tileReread i fs => firstIll [(i.ok, .run), (faultsOk fs, .tile)]
  | .sqEntry f q _ _ => firstIll [(decide (f < 17), .function), (decide (q < 4096), .queue)]
  | .sqTailDoorbell f q _ => firstIll [(decide (f < 17), .function), (decide (q < 4096), .queue)]
  | .cqHeadDoorbell f c _ => firstIll [(decide (f < 17), .function), (decide (c < 4096), .queue)]
  | .channelTailDoorbell f c _ => firstIll [(decide (f < 17), .function), (decide (c < 64), .channel)]
  | .channelDescriptor c _ => firstIll [(decide (c < 64), .channel)]
  | .busError c _ _ => firstIll [(decide (c < 64), .channel)]
  | .restart ⟨c, _⟩ => firstIll [(decide (c < 64), .channel)]
  | .skip ⟨c, _⟩ => firstIll [(decide (c < 64), .channel)]
  | .adminSqTailDoorbell f _ => firstIll [(decide (f < 17), .function)]
  | .adminCqHeadDoorbell f _ => firstIll [(decide (f < 17), .function)]
  | .eqHeadDoorbell f _ => firstIll [(decide (f < 17), .function)]
  | .createCq f _ => firstIll [(decide (f < 17), .function)]
  | .deleteCq f _ => firstIll [(decide (f < 17), .function)]
  | .createSq f _ => firstIll [(decide (f < 17), .function)]
  | .deleteSq f _ => firstIll [(decide (f < 17), .function)]
  | .setChannel f _ => firstIll [(decide (f < 17), .function)]
  | .setSpillArea f _ => firstIll [(decide (f < 17), .function)]
  | .setQpTable f _ => firstIll [(decide (f < 17), .function)]
  | .mgmt f _ _ => firstIll [(decide (f < 17), .function)]
  | .functionEnable ⟨f, _⟩ => firstIll [(decide (f < 17), .function)]
  | .functionRelease ⟨f, _⟩ => firstIll [(decide (f < 17), .function)]
  | .functionLevelReset f => firstIll [(decide (f < 17), .function)]
  | .tdiError f => firstIll [(decide (f < 17), .function)]
  | .stopInterface f => firstIll [(decide (f < 17), .function)]
  | .pcieLinkLoss => none
  | .ideCheckFailure st ⟨c, _⟩ => firstIll [(decide (st < 256), .stream), (decide (c.getD 0 < 64), .channel)]
  | .queryApertureWrite f a bs _ =>
    firstIll [(decide (f < 17), .function), (decide (a + bs.length ≤ 2 ^ 64 ∧ bs.length ≤ 4096), .aperture)]
  | .partialApertureWrite f a bs _ =>
    firstIll [(decide (f < 17), .function), (decide (a + bs.length ≤ 2 ^ 64 ∧ bs.length ≤ 4096), .aperture)]
  | .plcQcmdGo => none
  | .shpQcmdGo => none
  | .dirQcmdGo => none
  | .jnlRdCmdGo => none
  | .rcvRecRelease i => firstIll [(decide (i < 256), .record)]
  | .wake => none
  | .contextReset k t _ => firstIll [(decide (k < 8 ∧ t < 2 ^ 24), .unit)]
  | .engineReset e _ => firstIll [(decide (e < 2 ^ 16), .unit)]
  | .partitionReset p _ => firstIll [(decide (p < 16), .part)]
  | .computeOnlyChipReset _ _ => none
  | .fullChipReset _ => none
  | .powerCycle => none
  | .reset l k t _ _ _ => firstIll [(decide (l < 8 ∧ k < 8 ∧ t < 2 ^ 24), .unit)]
  | .uncorrectableArrayError e _ t => firstIll [(decide (e < 2 ^ 16), .unit), (decide (t < 65536), .entryIndex)]
  | .handshakeProtocolError e _ => firstIll [(decide (e < 2 ^ 16), .unit)]
  | .managementCoreException _ => none
  | .journalCommitDone _ => none
  | .norStatusPoll _ _ => none
  | .perstRelease _ => none
  | .nodeRstRelease _ => none
  | .powerLoss => none
  | .dormant => none
  | .linkPartnerLpiExit l => firstIll [(decide (l < 32), .link)]
  | .wakeHoldExpiry ls => firstIll [(ls.all (fun l => decide (l < 32)), .link)]
  | .teardownResidueClear => none
  | .zeroFill _ => none
  | .admitTenant t p g ct w => firstIll [(decide (t < 4096), .tenant), (decide (p < 16), .part), (decide (g < 2 ^ 16), .epoch),
      (decide (ct.length = 1568 ∧ w.length = 40), .length)]
  | .removeTenant t => firstIll [(decide (t < 4096), .tenant)]
  | .setFabricKey ct w => firstIll [(decide (ct.length = 1568 ∧ w.length = 40), .length)]
  | .setConnKey sl t _ _ w => firstIll [(decide (sl < 4096), .keyIndex), (decide (t < 4096), .tenant), (decide (w.length = 40), .length)]
  | .getReport n t _ => firstIll [(decide (n.length = 64), .length), (decide (t < 4096), .tenant)]
  | .getCert => none
  | .setPlacement t q ts ps => firstIll [(decide (t < 4096), .tenant), (decide (q < 2 ^ 32 ∧ ts < 256 ∧ ps < 256), .length)]
  | .setMirror t ⟨n, fs⟩ => firstIll [(decide (t < 4096), .tenant), (decide (n.getD 0 < 4096), .node), (faultsOk fs, .tile)]
  | .reconcile i c p => firstIll [(i.ok, .run), (decide (c < 2 ^ 32), .length), (decide (p < 4096), .node)]
  | .adoptHome i e => firstIll [(i.ok, .run), (decide (e < 2 ^ 32), .epoch)]
  | .discardPending i => firstIll [(i.ok, .run)]
  | .promote t n => firstIll [(decide (t < 4096), .tenant), (decide (n < 4096), .node)]
  | .fillSpare t m n => firstIll [(decide (t < 4096), .tenant), (decide (m < 4096 ∧ n < 4096), .node)]
  | .cancelFill t => firstIll [(decide (t < 4096), .tenant)]
  | .createRegion i p => firstIll [(decide (i < 1024), .region), (decide (p.ten < 4096), .tenant), (decide (p.part < 16), .part)]
  | .deleteRegion i => firstIll [(decide (i < 1024), .region)]
  | .closeReaders i => firstIll [(decide (i < 1024), .region)]
  | .abortOwner n => firstIll [(decide (n < 4096), .node)]
  | .dirPut _ => none
  | .dirRemove i => firstIll [(decide (i < 65536), .entryIndex)]
  | .dirFind _ _ => none
  | .dirRead i => firstIll [(decide (i < 65536), .entryIndex)]
  | .qpCreate a => firstIll [(decide (a.qpn < 2 ^ 20), .qpn), (a.ok, .length)]
  | .qpModify q ps pm cw sw c px => firstIll [(decide (q < 2 ^ 20), .qpn), (decide (c < 16), .class_),
      (decide (ps.length ≤ 16 ∧ pm < 2 ^ 16 ∧ cw < 2 ^ 16 ∧ sw < 2 ^ 16 ∧ px < 8), .length)]
  | .qpDestroy q => firstIll [(decide (q < 2 ^ 20), .qpn)]
  | .qpClear q => firstIll [(decide (q < 2 ^ 20), .qpn)]
  | .keyCreate i _ => firstIll [(decide (i < 2 ^ 24), .keyIndex)]
  | .keyDestroy i => firstIll [(decide (i < 2 ^ 24), .keyIndex)]
  | .setRidge i a o cs => firstIll [(decide (i < 2 ^ 16), .entryIndex), (decide (a < 2 ^ 20 ∧ o < 2 ^ 20 ∧ cs.all (· < 2 ^ 20)), .qpn)]
  | .cancelRidge i t => firstIll [(decide (i < 2 ^ 16), .entryIndex), (decide (t.getD 0 < 2 ^ 32), .length)]
  | .setFence e _ ms => firstIll [(decide (e < 2 ^ 32), .epoch), (ms.all (· < 4096), .node)]
  | .unfence e => firstIll [(decide (e < 2 ^ 32), .epoch)]
  | .setPolicer i t c _ _ _ _ => firstIll [(decide (i < 512), .entryIndex), (decide (t < 4096), .tenant), (decide (c < 16), .class_)]
  | .clearPolicer i => firstIll [(decide (i < 512), .entryIndex)]
  | .setTenantQuantum t _ => firstIll [(decide (t < 4096), .tenant)]
  | .loadProgram im => firstIll [(decide (im.length < 2 ^ 16), .length)]
  | .unloadProgram sl => firstIll [(decide (sl < 64), .programSlot)]
  | .loadTable im => firstIll [(decide (im.length < 2 ^ 16), .length)]
  | .unloadTable sl => firstIll [(decide (sl < 8), .tableSlot)]
  | .setProjection t f n q dc lc r => firstIll [(decide (t < 4096), .tenant), (decide (f < 1024 ∧ n < 1024), .entryIndex),
      (decide (q ≤ 1024 ∧ dc < 8 ∧ lc < 8), .length), (decide (r < 1024), .region)]
  | .clearProjection t f n => firstIll [(decide (t < 4096), .tenant), (decide (f < 1024 ∧ n < 1024), .entryIndex)]
  | .imageWrite o bs => firstIll [(decide (o + bs.length ≤ 2 ^ 32), .length)]
  | .imageCommit => none
  | .i3cStatus => none
  | .journalBounds => none
  | .journalRead j => firstIll [(decide (j < 2 ^ 64), .entryIndex)]
  | .identity => none
  | .i3cWake => none
  | .chipReset _ _ => none
  | .extest => none
  | .idcode => none
  | .samplePreload _ => none
  | .clamp => none
  | .highz => none
  | .bypass c => firstIll [(decide (c.toNat ∉ [0, 1, 2, 4, 5]), .instruction)]
  | .pwrokRise _ => none
  | .perstAssert => none
  | .nodeRstAssert => none
  | .pcieLinkUp sp w => firstIll [(decide (sp < 16 ∧ w ≤ 16), .link)]
  | .lockInterface f => firstIll [(decide (f < 17), .function)]
  | .startInterface f => firstIll [(decide (f < 17), .function)]
  | .spdmRequest _ => none
  | .ideKm st f _ => firstIll [(decide (st < 256), .stream), (decide (f < 17), .function)]
  | .dynamicAddress a => firstIll [(decide (a < 128), .unit)]
  | .dmaReadCompletion c _ => firstIll [(decide (c < 64), .channel)]

/-- A command whose form passes every check. -/
def Instr.WellFormed (i : Instr) : Prop := i.ill = none

end Sys2Proof
end

