-- ==== Sys2Proof/Tests/Slice0.lean ====
section
/-! SUPPORT. Tests. `meets_<Statement>` shows, for each statement with hypotheses, states and operands that meet them; `ill_<check>` a command
that each check of WellFormed refuses; `test_<what>` one command or operation against a value that the manual, or a standard it names, gives. -/

open Sys2Proof Sys2Proof.Machine

namespace Sys2Proof.Slice0Tests

set_option Elab.async false

/-! ### States -/

def by8 (l : List Nat) : Bytes := l.map (BitVec.ofNat 8)

/-- A tenant admitted in partition 0 at generation 3. -/
def ten5 : Tenant := ⟨1, 0, 3, [], 1000, 7, 0, none, 0, 16⟩

/-- A queue of 16 entries with room, and a submission queue with entries waiting. -/
def cq16 : Cq := ⟨0x1000, 4, 0, 1, 0, 0, true, 0, true, 0⟩
def sq16 : Sq := ⟨0x2000, 4, 0, 0, 2, false, none, 0⟩

/-- An enabled function with one queue of each kind and an admin entry waiting. -/
def fnOn : Fn := { Fn.reset with enable := true, asqLog := 4, asqTail := 1, acqLog := 4, eqLog := 4, acq := cq16, eq := cq16, sqs := [(0, sq16)], cqs := [(0, cq16)],
                                 qapTen := 5, qapValid := true }

/-- A ready node: PCIe up, functions 0 and 1 enabled, tenant 5 admitted, 16 MiB of query buffer in partition 0, a channel of each state. -/
def rdy : Dev := { Dev.reset with
  pwr := { Pwr.reset with state := .ready }
  dma := { Dma.reset with linkup := true, fns := [(0, fnOn), (1, fnOn)], ides := [(2, ⟨1, true⟩)]
                          chans := [(0, { Chan.reset with state := 1, log2 := 4, tail := 1 }),
                                    (1, { Chan.reset with state := 2, job := some ⟨0, 0, 0, 0, []⟩ }), (2, { Chan.reset with state := 3, job := some ⟨0, 0, 0, 0, []⟩ })] }
  rcv := { Rcv.reset with jstate := 1 }
  sec := { Sec.reset with tenants := [(5, ten5)], identity := true } }.setRegs
  [(rk 0x01000100 16, 16), (rk 0x01000100 48, 16), (rk 0x01000108 16, 16), (rk 0x01000108 48, 16), (rk 0x00200040 16, 4096),
   (rk 0x01001000 0, 1), (rk 0x00E00000 16, 4)]

/-- A state around a device, with power on and the pins released. -/
def at_ (d : Dev) : State := { State.reset with dev := d, phys := { Phys.reset with pwrok := true, perst := false, nodeRst := false } }

/-- A state with given pins. -/
def pins (d : Dev) (perst rst : Bool) : State := { at_ d with phys := { Phys.reset with pwrok := true, perst := perst, nodeRst := rst } }

/-- The ready node with another function 1. -/
def withFn (f : Fn) : Dev := rdy.setFn 1 f

/-- The ready node with another power state. -/
def inState (p : PState) : Dev := { rdy with pwr := { rdy.pwr with state := p } }

/-! ### What meets the hypotheses of each statement: registers and the host interface -/

theorem meets_RegisterWritesSetRwFields : rdy.bar0Open = true ∧ accOk 0x01400020 64 = true ∧ accOk 0x00A00104 32 = true ∧
    (withFn { fnOn with enable := false }).hears 1 false ∧ ((withFn { fnOn with enable := false }).fn 1).vecAcq < 256 ∧
    ((withFn { fnOn with enable := false }).fn 1).vecEq < 256 ∧ ((withFn { fnOn with enable := false }).fn 1).enable = false :=
  ⟨by decide +kernel, by decide +kernel, by decide +kernel, ⟨by decide +kernel, by decide +kernel⟩, by decide +kernel, by decide +kernel, by decide +kernel⟩

theorem meets_W1cClears : rdy.bar0Open = true ∧ rdy.hears 1 false ∧ (withFn { fnOn with tdi := 3 }).hears 1 true :=
  ⟨by decide +kernel, ⟨by decide +kernel, by decide +kernel⟩, by decide +kernel, by decide +kernel⟩

theorem meets_RcReadReturnsAndClears : rdy.pwr.state ≠ .starting ∧ 0x00400018 % 8 = 0 ∧ rcFields 0x00400018 ≠ [] ∧ 0x0040001C % 4 = 0 ∧
    rcFields (0x0040001C / 8 * 8) ≠ [] := by decide +kernel

theorem meets_Doorbells : rdy.hears 1 false ∧ mget (rdy.fn 1).sqs 0 = some sq16 ∧ mget (rdy.fn 1).cqs 0 = some cq16 ∧ (rdy.fn 1).enable = true ∧
    rdy.chOf 1 0 = some 0 ∧ (rdy.chan 0).state ≠ 0 :=
  ⟨⟨by decide +kernel, by decide +kernel⟩, by decide +kernel, by decide +kernel, by decide +kernel, by decide +kernel, by decide +kernel⟩

theorem meets_FunctionsStartAndEnd : (withFn { fnOn with enable := false }).hears 1 false ∧ (withFn { fnOn with enable := false }).awake = true ∧
    (∀ l ∈ [((withFn { fnOn with enable := false }).fn 1).asqLog, ((withFn { fnOn with enable := false }).fn 1).acqLog,
      ((withFn { fnOn with enable := false }).fn 1).eqLog], 4 ≤ l ∧ l ≤ 12) ∧ ((withFn { fnOn with enable := false }).fn 1).resetting = false ∧
    rdy.hears 16 false ∧ rdy.dma.linkup = true ∧ rdy.tdi 1 = 1 ∧ (withFn { fnOn with tdi := 2 }).tdi 1 = 2 ∧ (withFn { fnOn with tdi := 3 }).tdi 1 = 3 ∧
    (rdy.fn 1).enable = true :=
  ⟨⟨by decide +kernel, by decide +kernel⟩, by decide +kernel, by decide +kernel, by decide +kernel, ⟨by decide +kernel, by decide +kernel⟩, by decide +kernel, by decide +kernel, by decide +kernel, by decide +kernel, by decide +kernel⟩

theorem meets_TdispMoves : rdy.tdi 16 = 1 ∧ (withFn { fnOn with tdi := 2 }).tdi 1 = 2 ∧ (withFn { fnOn with tdi := 3 }).tdi 1 = 3 ∧
    (withFn { fnOn with tdi := 4 }).tdi 1 = 4 := by decide +kernel

/-- An admin entry: AOP, LOG2, ID, CQ, vector, count and a base. -/
def admin (aop log2 id cq vec cnt base : Nat) : W512 :=
  BitVec.ofNat 512 (pack [(0, 8, aop), (8, 8, log2), (16, 16, id), (32, 16, cq), (48, 8, vec), (56, 8, cnt), (64, 64, base)])

/-- An SQ entry of a kind, with the tenant's generation and a descriptor (Table 12.3). -/
def sqe (kind : Nat) (desc : Nat) : BitVec 2048 := BitVec.ofNat 2048 (pack [(0, 512, desc), (1536, 4, kind), (1552, 16, 3)])

theorem meets_SubmissionAndAdminEntries_entry : rdy.adminReady 1 = true ∧ rdy.adminReady 0 = true ∧ rdy.awake = true ∧ wf (admin 1 4 1 0 0 1 4096) 192 320 = 0 ∧
    aBase (admin 1 4 1 0 0 1 4096) % 4096 = 0 := by decide +kernel

theorem meets_SubmissionAndAdminEntries_createCq : aAop (admin 1 4 1 0 31 1 4096) = 1 ∧ aId (admin 1 4 1 0 31 1 4096) < rdy.cqCount 1 ∧
    aVec (admin 1 4 1 0 31 1 4096) < 32 ∧ 1 ≤ aCnt (admin 1 4 1 0 31 1 4096) ∧ 4 ≤ aLog2 (admin 1 4 1 0 31 1 4096) ∧ aLog2 (admin 1 16 1 0 31 1 4096) ≤ 16 ∧
    mget (rdy.fn 1).cqs (aId (admin 1 4 1 0 31 1 4096)) = none := by decide +kernel

theorem meets_SubmissionAndAdminEntries_queues :
    let d := withFn { fnOn with sqs := [] }
    aAop (admin 2 0 0 0 0 0 0) = 2 ∧ (mget (d.fn 1).cqs 0).isSome = true ∧ (∀ q ∈ (d.fn 1).sqs, q.2.cq ≠ 0) ∧
    (∀ c ∈ (d.setReg (rk 0x01001000 0) 0).dma.chans, ¬ ((d.setReg (rk 0x01001000 0) 0).chOwner c.1 = 1 ∧ c.2.state ≠ 0 ∧ c.2.cq = 0)) ∧
    aAop (admin 3 4 1 0 0 0 4096) = 3 ∧ aId (admin 3 4 1 0 0 0 4096) < rdy.sqCount 1 ∧ mget (rdy.fn 1).sqs 1 = none ∧
    (mget (rdy.fn 1).cqs (aCq (admin 3 4 1 0 0 0 4096))).isSome = true ∧
    aAop (admin 4 0 0 0 0 0 0) = 4 ∧ mget (rdy.fn 1).sqs 0 = some sq16 ∧ sq16.outst = 0 ∧
    aAop (admin 5 4 0 0 0 0 4096) = 5 ∧ rdy.chOf 1 0 = some 0 ∧ (rdy.chan 0).state < 2 ∧ (rdy.chan 0).job = none ∧
    aAop (admin 6 0 0 0 0 0 4096) = 6 ∧ rdy.spillUsed 0 = [] ∧ aAop (admin 7 0 0 0 0 0 0x100000) = 7 ∧
    aBase (admin 7 0 0 0 0 0 0x100000) % 2 ^ 20 = 0 ∧ (∀ q ∈ rdy.trn.qps, q.2.cached = true) := by decide +kernel

/-- The same where SQ 0 of function 0 has nothing waiting, so that the turn falls to function 1's. -/
def sqTurn1 : Dev := rdy.setFn 0 { fnOn with sqs := [] }

theorem meets_SubmissionAndAdminEntries_sq : mget (sqTurn1.fn 1).sqs 0 = some sq16 ∧ sqTurn1.sqReady 1 sq16 (sqe 2 5) = true ∧ sqKind (sqe 2 5) ≠ 3 ∧
    sqTurn1.sqTurnOk 1 0 = true ∧ sqTurn1.nodeUp = true ∧
    (((sqTurn1.sqTurned 1 0).chCount (sqTurn1.classChan 0) 256).sqTake 1 0 sq16).2.sqConds ⟨[], []⟩ 1 (sqe 2 5) = [] := by decide +kernel

/-- A channel descriptor that moves 64 bytes from the host into the query buffer. -/
def cdesc : W512 := BitVec.ofNat 512 (pack [(2, 2, 1), (32, 12, 5), (48, 16, 3), (64, 32, 64)])

theorem meets_AperturesAndChannels_apertures : rdy.pwr.state = .ready ∧ rdy.bar4 1 false = true ∧ (rdy.fn 1).qapValid = true ∧
    rdy.admitted (rdy.fn 1).qapTen 0 = true ∧ 0xFFFFC0 + 64 ≤ rdy.shareSize 0 := by decide +kernel

theorem meets_AperturesAndChannels_channels : rdy.fnLive (rdy.chOwner 0) = true ∧ (rdy.chan 0).state = 1 ∧ (rdy.chan 0).head ≠ (rdy.chan 0).tail ∧
    mget (rdy.fn 1).cqs (rdy.chan 0).cq = some cq16 ∧ cq16.free ≠ 0 ∧ rdy.chOwner 0 = 1 ∧ rdy.keyOk (cdTen cdesc) (cdKeygen cdesc) = true ∧
    rdy.admitted (cdTen cdesc) 0 = true ∧ rdy.cdOk 1 (rdy.chan 0) cdesc = true ∧ (rdy.chan 2).state = 3 ∧ (rdy.chan 2).job = some ⟨0, 0, 0, 0, []⟩ ∧
    (rdy.chan 1).state = 2 ∧ (rdy.chan 1).job = some ⟨0, 0, 0, 0, []⟩ ∧ (rdy.chan 1).abandoned = [] ∧ cdSsp (0 : W512) = 0 ∧ rdy.dma.linkup = true ∧
    rdy.isStopped (5 * 4096) = false ∧ rdy.isStopped (5 * 4096 + 1) = false ∧ rdy.ctxHeld 3 0 = false ∧ rdy.fnOpen (rdy.chOwner 2) = true := by decide +kernel

theorem meets_BusErrorsHaltAndSkip : rdy.chOwner 1 < 17 ∧ (rdy.chan 1).state = 2 ∧ (rdy.chan 1).job = some ⟨0, 0, 0, 0, []⟩ ∧ (rdy.chan 2).state = 3 ∧
    (rdy.chan 2).job = some ⟨0, 0, 0, 0, []⟩ ∧ (∀ e ∈ rdy.rcv.jq, wf e.data 144 16 ≠ 5 * 4096 + 2) ∧ mget rdy.dma.ides 2 = some ⟨1, true⟩ ∧ rdy.barOpen (rdy.chOwner 2) false = true := by decide +kernel

/-! ### Pins, power and the sideband -/

theorem meets_PinsResetTheNode : (at_ rdy).phys.pwrok = true := rfl

theorem meets_StartUpRuns : ((pins rdy true false).phys.pwrok = true ∧ (pins rdy true false).phys.perst = true ∧ (pins rdy true false).phys.nodeRst = false) ∧
    (pins rdy false true).phys.nodeRst = true ∧ (pins rdy true true).phys.perst = true ∧ selector [] = none := by decide +kernel

/-- The answers of the sideband have room for every byte; a code that BYPASS takes. -/
theorem meets_BoundaryScan : (3 : Byte).toNat ∉ [0, 1, 2, 4, 5] ∧ (0xFF : Byte).toNat ∉ [0, 1, 2, 4, 5] := by decide

/-- A journal entry of zeros that waits. -/
def jent : JEnt := ⟨0, []⟩
def waiting : Dev := { rdy with rcv := { rdy.rcv with jq := [jent] } }

theorem meets_SidebandAnswers : (at_ rdy).i3cUp = true ∧ rdy.bar0Open = true ∧ rdy.rcv.jstate = 1 ∧ rdy.rcv.jq = [] ∧ waiting.rcv.jstate = 1 ∧
    waiting.rcv.jq ≠ [] ∧ none ∉ waiting.rcv.jreads ∧ waiting.bar0Open = true ∧ (0 : BitVec 16) ≠ 0xA55A := by decide +kernel

theorem meets_PowerStates : (at_ rdy).phys.perst = false ∧ rdy.pwr.state = .ready ∧ rdy.rcv.run = none ∧ (∀ m ∈ rdy.pwr.inflight, m.opc = 0x0502) ∧
    rdy.pwr.waits = [] ∧ rdy.pwr.norOp = [] ∧ rdy.sec.td = none ∧ rdy.asked .dormant = true ∧ (inState .dormant).pwr.state = .dormant ∧ (inState .waking).pwr.state = .waking ∧
    mget ({ inState .dormant with links := [(4, { Link.reset 1 0 0 with state := 3 })] } : Dev).links 4 = some { Link.reset 1 0 0 with state := 3 } := by
  decide +kernel

/-! ### Resets, faults and the journal -/

/-- The parts of a start-up that answer, with a journal device of 64 KiB. -/
def env0 : StartEnv := ⟨true, .present 65536, true, none, true⟩

theorem meets_ResetsComplete : rdy.pwr.state = .ready ∧ rdy.ready = true ∧ rdy.asked (.reset 1 3 63 true true env0) = true ∧
    rdy.resetCase 1 3 63 = 0 ∧ rdy.resetCase 2 0 (3 * 4096) = 0 ∧
    rdy.resetCase 3 0 0 = 0 ∧ rdy.resetCase 4 0 0 = 0 ∧ rdy.resetCase 5 0 0 = 0 ∧ rdy.resetCase 6 0 0 = 0 := by decide +kernel

theorem meets_StoppingFaults : rdy.pwr.state ≠ .starting ∧ rdy.pwr.state ≠ .failed ∧ engineExists (2 * 4096) = true ∧ engineExists (3 * 4096 + 7) = true := by
  decide +kernel

theorem meets_CommitsReleasesAndPolls : waiting.rcv.jstate = 1 ∧ waiting.rcv.jq ≠ [] ∧ rdy.bar0Open = true ∧
    mget ({ rdy with rcv := { rdy.rcv with recs := [(0, ⟨true, 0, 1⟩)] } } : Dev).rcv.recs 0 = some ⟨true, 0, 1⟩ ∧
    ({ rdy with pwr := { rdy.pwr with norOp := [.erase 0, .program 0 [1]] } } : Dev).pwr.norOp = [.erase 0, .program 0 [1]] := by decide +kernel

/-! ### Links and transport -/

/-- An UP link with its map entry, and one in another state. -/
def lnk (st : Nat) : Link := { Link.reset 1 7 4 with state := st, pkind := 1, pend := 7, plink := 4 }

/-- A QP at endpoint 1 with credit for four packets and four submits, its return paths on link 2. -/
def qp0 : Qp := { (default : Qp) with state := 1, ten := 5, remote := 1, rqpn := 9, paths := List.replicate 16 2, pmask := 1, cached := true,
                                      rxcl := 4, rxsl := 4, txcl := 4, txsl := 4 }

/-- A key for writes, reads and atomics in the first 4 KiB of the query buffer. -/
def key0 : AKey := ⟨0, 7, 0, 5, 0, false, 0, 0, 4096, true⟩

/-- The ready node with UP link 2, a training link 3, a failed link 4, QP 9 and key 1. -/
def net : Dev := { rdy with
  links := [(2, lnk 2), (3, lnk 1), (4, lnk 4)]
  trn := { Trn.reset with qps := [(9, qp0)], keys := [(1, key0)] } }

def withQp (q : Qp) : Dev := { net with trn := { net.trn with qps := [(9, q)] } }

/-- A packet header with its header CRC: OP, sub-kind, MSN, payload and further fields (Table 10.4). -/
def hdr (op subk msn : Nat) (pay : Bytes) (more : List (Nat × Nat × Nat)) : W512 :=
  let h := pack ([(0, 4, op), (4, 4, subk), (16, 16, 1), (64, 20, 9), (84, 20, 9), (104, 12, 5), (128, 16, 3), (192, 24, msn), (216, 13, pay.length),
    (288, 32, pay.length), (448, 32, crc32c pay)] ++ more)
  BitVec.ofNat 512 (h ||| crc32c (leBytes 60 h) <<< 480)

def pay8 : Bytes := [1, 2, 3, 4, 5, 6, 7, 8]
/-- A WRITE of eight bytes, a CREDIT, and a WRITE whose header CRC is wrong. -/
def wr : W512 := hdr 0 0 0 pay8 [(232, 24, 1)]
def cr : W512 := hdr 8 0 0 pay8 []
def bad : W512 := wr ^^^ 2 ^ 511

/-- A flit with its CRC: FSEQ, ACK and NAK bits, type. -/
def flit (h : Nat) : Bytes :=
  let b := leBytes 6 h ++ List.replicate 242 0
  b ++ leBytes 8 (crc64 0 b)

theorem meets_FlitsAreTakenOrRefused_link : net.isStopped (6 * 4096 + 2) = false ∧ mget net.links 2 = some (lnk 2) ∧ (lnk 2).state = 2 ∧ (lnk 2).nak = false := by
  decide +kernel

theorem meets_FlitsAreTakenOrRefused_idle : (flit (1 <<< 26)).length = 256 ∧
    leAt (flit (1 <<< 26)) 248 8 = crc64 0 ((flit (1 <<< 26)).take 248) ∧ fld (leAt (flit (1 <<< 26)) 0 6) 36 12 = 0 ∧
    fld (leAt (flit (1 <<< 26)) 0 6) 26 2 = 1 := by decide +kernel

/-- Link 2 after a flit that acknowledges nothing, and with flits that a NAK sends again: the first replay of one, and the eighth. -/
def pumped : Dev := (((net.bump (rk 0x00C08028 0) 32 0).bump (rk 0x00C08028 32) 32 0).setLink 2 (lnk 2)).pump 2 512
def again (n : Nat) : Link := { lnk 2 with replay := [(0, List.replicate 256 0, n)] }

theorem meets_FlitsAreTakenOrRefused_data : (flit 0).length = 256 ∧
    leAt (flit 0) 248 8 = crc64 0 ((flit 0).take 248) ∧ fld (leAt (flit 0) 0 6) 36 12 = 0 ∧
    fld (leAt (flit 0) 0 6) 26 2 = 0 ∧ fld (leAt (flit 0) 0 6) 25 1 = 0 ∧ (mget pumped.links 2).map Link.rxany = some false ∧ fld (leAt (flit 0) 0 6) 0 12 = 0 := by
  decide +kernel

/-- Link 2 with its receive buffer full, and the node while a compute-only chip reset runs: links keep their flits then. -/
def fullL : Link := { lnk 2 with rxbuf := List.replicate (242 * Config.rxFlits) 0 }
def resets (r : ResetRun) : Dev := { net with rcv := { net.rcv with run := some r } }

theorem meets_FlitsAreTakenOrRefused_room : net.chipReset = false ∧ (resets ⟨4, 0, 0, 0⟩).chipReset = true ∧
    (resets ⟨4, 0, 0, 0⟩).isStopped (6 * 4096 + 2) = false ∧ fld (leAt (flit (2 <<< 26)) 0 6) 26 2 = 2 := by decide +kernel

theorem meets_FlitsAreTakenOrRefused_full : (fun y : Link => { y with rxlast := 0, rxany := true, nak := false }) fullL = { fullL with rxany := true } ∧
    ({ fullL with rxany := true } : Link).rxFull = true ∧ fullL.state = 2 ∧ fullL.replay = [] ∧ fullL.txbuf = [] :=
  ⟨rfl, by simp [Link.rxFull, fullL, lnk, Link.reset, sumN], rfl, rfl, rfl⟩

theorem meets_FlitsAreTakenOrRefused_nak : fld (leAt (flit (1 <<< 25)) 0 6) 25 1 = 1 ∧ (flit (1 <<< 25)).length = 256 ∧
    leAt (flit (1 <<< 25)) 248 8 = crc64 0 ((flit (1 <<< 25)).take 248) ∧ fld (leAt (flit (1 <<< 25)) 0 6) 26 2 = 0 ∧
    (!(again 0).replay.isEmpty) = true ∧ (∀ e ∈ (again 0).replay, e.2.2 + 1 < 8) ∧ ∃ e ∈ (again 7).replay, 8 ≤ e.2.2 + 1 := by
  decide +kernel

theorem meets_LinksTrainAndRetrain : mget net.links 3 = some (lnk 1) ∧ (lnk 1).state = 1 ∧ net.isStopped (6 * 4096 + 3) = false ∧
    identOk (lnk 1) (net.reg (rk 0x00E00000 32)) ⟨1, 7, 4, 0, false, 0, 0⟩ = true ∧ identOk (lnk 1) (net.reg (rk 0x00E00000 32)) ⟨0, 7, 4, 0, false, 0, 0⟩ = false ∧
    (lnk 1).retried = false ∧ ({ lnk 1 with retried := true } : Link).retried = true ∧ mget net.links 4 = some (lnk 4) ∧ (lnk 4).mkind ≠ 0 ∧
    (lnk 4).state = 4 ∧ mget net.links 2 = some (lnk 2) := by decide +kernel

/-- The packets as the oldest that link 2 assembled. -/
def arrives (q : Qp) (h : W512) (pay : Bytes) : Dev := { withQp q with links := mset net.links 2 { lnk 2 with rxpkts := [(h, pay)] } }

theorem meets_PacketsPassTheirChecks_packet : (arrives qp0 wr pay8).partHeld qp0.part = false ∧ (resets ⟨3, 0, qp0.part, 0⟩).partHeld qp0.part = true ∧ (arrives qp0 wr pay8).isStopped (7 * 4096) = false ∧
    mget (arrives qp0 wr pay8).links 2 = some { lnk 2 with rxpkts := [(wr, pay8)] } ∧ mget (arrives qp0 wr pay8).trn.qps (hDqp wr) = some qp0 ∧
    hDqp cr = 9 ∧ hDqp bad = 9 := by decide +kernel

theorem meets_PacketsPassTheirChecks_write : chk1 net ⟨2, wr, pay8⟩ = true ∧ qp0.cached = true ∧ chk2 qp0 wr = true ∧ chk3 net qp0 ⟨2, wr, pay8⟩ = some (pay8, qp0) ∧
    chk4 ⟨2, wr, pay8⟩ = true ∧ chk7 net wr = true ∧ hCtl wr = false ∧ readFits { qp0 with used := 1 } wr pay8 = true ∧
    chk5 (net.setQp 9 { qp0 with used := 1 }) { qp0 with used := 1 } wr = true ∧ mget net.trn.keys (hAkidx wr) = some key0 ∧ key0.cached = true ∧
    chk8 net { qp0 with used := 1 } wr = true ∧ chk6 { qp0 with used := 1, pktTaken := 1 } wr pay8 (some key0) = true := by decide +kernel

theorem meets_PacketsPassTheirChecks_credit : chk1 net ⟨2, cr, pay8⟩ = true ∧ chk2 qp0 cr = true ∧ chk3 net qp0 ⟨2, cr, pay8⟩ = some (pay8, qp0) ∧
    chk4 ⟨2, cr, pay8⟩ = true ∧ chk7 net cr = true ∧ hCtl cr = true := by decide +kernel

theorem meets_PacketsPassTheirChecks_other : (arrives qp0 wr pay8).isStopped (7 * 4096) = false ∧ (wr, pay8) ≠ (cr, pay8) := by decide +kernel

theorem meets_PacketsPassTheirChecks_bad : chk1 net ⟨2, bad, pay8⟩ = false ∧ crc32c (leBytes 60 (bad.toNat % 2 ^ 480)) ≠ wf bad 480 32 := by decide +kernel

/-- A context that is not cached and whose fetch runs; node channels; and the fetch on one of them. -/
def cold : Qp := { qp0 with cached := false, fetching := true }
def nodeChans (d : Dev) : Dev := { d with dma := { d.dma with chans := (List.range 4).map (fun i => (60 + i, { Chan.reset with state := 1 })) } }.setRegs
  ((List.range 4).map (fun i => (rk (0x01001F00 + 0x40 * i) 0, 17)))
def fetching : Dev := let d := nodeChans (withQp cold); { d with dma := { d.dma with xfers := [⟨.ctx 9, some 60, true, 0⟩] } }

theorem meets_PacketsPassTheirChecks_parks : chk1 (arrives cold wr pay8) ⟨2, wr, pay8⟩ = true ∧ cold.cached = false ∧ (arrives cold wr pay8).parkRoom cold wr = true ∧
    ({ arrives cold wr pay8 with trn := { (arrives cold wr pay8).trn with parked := List.replicate 1984 (9, ⟨2, wr, pay8⟩) } } : Dev).parkRoom cold wr = false := by
  decide +kernel

theorem meets_ContextsKeysAndSubmits_evict :
    ({ withQp { qp0 with rxcl := 0 } with dma := { net.dma with fns := [(0, { fnOn with qpt := some 0x100000 })] } } : Dev).evictPick = some 9 := by
  decide +kernel

theorem meets_ContextsKeysAndSubmits_fetch : fetching.isStopped (7 * 4096) = false ∧ mget fetching.trn.qps 9 = some cold ∧ cold.cached = false ∧
    cold.fetching = true ∧ fetching.inFlight (.ctx 9) = true ∧ fetching.cachedQps < 16384 ∧ fetching.ingress + pktOut cold ≤ 4032 := by decide +kernel

theorem meets_ContextsKeysAndSubmits_image : ((qptLoad fetching.sec.nrk 9 (qptStore fetching.sec.nrk 9 0 (qpBits cold))).map
    (fun e => decide (e.1 = 0) && qpBitsOk e.2)) = some true ∧ qptLoad fetching.sec.nrk 9 [] = none := by decide +kernel

theorem meets_ContextsKeysAndSubmits_key : ∃ w ∈ ({ net with trn := { net.trn with keyWait := [(1, true, ⟨2, wr, pay8⟩)] } } : Dev).trn.keyWait, w.1 = 1 := by
  decide +kernel

/-- A complete SUBMIT of a tenon, and one of an OFFER with a coded payload; and their QPs. -/
def sub : Msg := ⟨0, hdr 6 0 0 pay8 [], [], [(0, 8)], [(0, pay8)], false, false⟩
def qpSub : Qp := { qp0 with msgs := [sub] }
def payC : Bytes := leBytes 32 (pack [(231, 1, 1)]) ++ List.replicate 32 0
def subC : Msg := ⟨0, hdr 6 4 0 payC [], [], [(0, 64)], [(0, payC)], false, false⟩

theorem meets_ContextsKeysAndSubmits_submit : (withQp qpSub).isStopped (7 * 4096) = false ∧ (withQp qpSub).awake = true ∧ mget (withQp qpSub).trn.qps 9 = some qpSub ∧
    (withQp qpSub).partHeld qpSub.part = false ∧ qpSub.msgs.find? (fun m => decide (hOp m.hdr = 6) && !m.done) = some sub ∧ sub.complete = true ∧
    qpSub.prior sub.msn = true ∧ (mkWork 9 qpSub sub).kind ≠ 4 ∧ (mkWork 9 { qp0 with type := 1 } subC).kind = 4 ∧
    codedBody ((mkWork 9 { qp0 with type := 1 } subC).desc.toNat % 2 ^ 256) = true ∧ net.linkRoom (stageUnits (mkWork 9 { qp0 with type := 1 } subC).extra.length) = true := by
  decide +kernel

/-- A WRITE whose packet waits, and complete READ and ATOMIC messages. -/
def msgW : Msg := ⟨0, wr, [⟨2, wr, pay8⟩], [(0, 8)], [], false, false⟩
def msgWI : Msg := ⟨0, hdr 1 0 0 pay8 [], [⟨2, hdr 1 0 0 pay8 [], pay8⟩], [(0, 8)], [], false, false⟩
def msgR : Msg := ⟨0, hdr 2 0 0 (List.replicate 16 1) [], [], [(0, 16)], [(0, List.replicate 16 1)], false, false⟩
def msgA : Msg := ⟨0, hdr 4 0 0 (List.replicate 24 1) [], [], [(0, 24)], [(0, List.replicate 24 1)], false, false⟩
def qpW : Qp := { qp0 with msgs := [msgW] }
def qpR : Qp := { qp0 with msgs := [msgR] }
def qpA : Qp := { qp0 with msgs := [msgA] }

theorem meets_MemoryMessages : (withQp qpW).partHeld qpW.part = false ∧ (withQp qpR).partHeld qpR.part = false ∧ (withQp qpA).partHeld qpA.part = false ∧ mget (withQp qpW).trn.qps 9 = some qpW ∧ qpW.msg 0 = some msgW ∧ msgW.done = false ∧ hOp msgW.hdr = 0 ∧ msgW.pkts ≠ [] ∧
    hOp msgWI.hdr = 1 ∧ msgWI.pkts ≠ [] ∧
    mget (withQp qpR).trn.qps 9 = some qpR ∧ qpR.msg 0 = some msgR ∧ msgR.complete = true ∧ qpR.prior 0 = true ∧ net.trn.fenced = false ∧ hOp msgR.hdr = 2 ∧
    mget (withQp qpA).trn.qps 9 = some qpA ∧ qpA.msg 0 = some msgA ∧ msgA.complete = true ∧ qpA.prior 0 = true ∧ hOp msgA.hdr = 4 ∧
    (withQp qpA).isStopped (7 * 4096) = false := by decide +kernel

/-- Completions that wait for a CQ of function 1, and for one that does not exist. -/
def imm : Dev := { net with trn := { net.trn with immWait := [⟨0, 9, 1, 8, 1⟩, ⟨99, 9, 1, 8, 1⟩] } }
def immOn : Dev := imm.setReg (rk 0x01000108 32) 16

theorem meets_MemoryMessages_imm : imm.trn.immWait.find? (fun w => decide (w.cq = 0)) = some ⟨0, 9, 1, 8, 1⟩ ∧ imm.cqHome 0 = some (0, 0) ∧
    mget (imm.fn 0).cqs 0 = some cq16 ∧ cq16.free ≠ 0 ∧ imm.trn.immWait.find? (fun w => decide (w.cq = 99)) = some ⟨99, 9, 1, 8, 1⟩ ∧
    imm.cqHome 99 = none := by decide +kernel

/-- A QP with a CREDIT and a CONTROL that wait. -/
def ctlC : InPkt := ⟨2, cr, pay8⟩
def ctlR : InPkt := ⟨2, hdr 9 0 0 pay8 [], pay8⟩
def qpCtl : Qp := { qp0 with ctl := [ctlC, ctlR] }
def msgP : Msg := ⟨0, hdr 7 0 0 pay8 [], [], [(0, 8)], [(0, pay8)], false, false⟩
def intake : Qp := { qp0 with type := 2, ridge := 3, msgs := [msgP] }
def peer : Qp := { qp0 with type := 1, msgs := [msgP] }
def ridged : Dev := { withQp intake with trn := { (withQp intake).trn with ridges := [(3, ⟨9, 0, [1]⟩)] } }
def fwd : Fwd := ⟨9, .node, 0⟩

theorem meets_CreditsAndPartials_control : (withQp qpCtl).isStopped (7 * 4096) = false ∧ mget (withQp qpCtl).trn.qps 9 = some qpCtl ∧
    takeCtl qpCtl 8 = some (ctlC, { qpCtl with ctl := [ctlR] }) ∧ takeCtl qpCtl 9 = some (ctlR, { qpCtl with ctl := [ctlC] }) := by decide +kernel

/-- A merge of that tag that another node opened. -/
def merge1 : Merge := ⟨9, 3, hImm msgP.hdr, 0, some 9, [(2, pay8)]⟩
def merging : Dev := { ridged with trn := { ridged.trn with merges := [merge1] } }

theorem meets_CreditsAndPartials_intake : ridged.partHeld intake.part = false ∧ (withQp peer).partHeld peer.part = false ∧ ridged.isStopped (7 * 4096) = false ∧ mget ridged.trn.qps 9 = some intake ∧ intake.msg 0 = some msgP ∧ msgP.done = false ∧
    hOp msgP.hdr = 7 ∧ msgP.complete = true ∧ ridged.trn.fenced = false ∧ intake.type = 2 ∧ ridged.contributes intake.ridge (hSrc msgP.hdr) = true ∧
    ridged.mergeOf 9 (hImm msgP.hdr) = none ∧ merging.mergeOf 9 (hImm msgP.hdr) = some merge1 ∧
    ({ ridged with trn := { ridged.trn with ridges := [(3, ⟨9, 0, [2]⟩)] } } : Dev).contributes intake.ridge (hSrc msgP.hdr) = false := by decide +kernel

theorem meets_CreditsAndPartials_peer : mget (withQp peer).trn.qps 9 = some peer ∧ peer.msg 0 = some msgP ∧ peer.type ≠ 2 ∧ peer.prior 0 = true ∧
    ({ withQp peer with shp := { rdy.shp with fwds := [fwd] } } : Dev).shp.fwds.find?
      (fun w => decide (w.qpn = 9 ∧ wf w.desc 160 32 = hImm msgP.hdr)) = some fwd := by decide +kernel

/-- A packet that waits for an egress store, and one at the head of a subqueue. -/
def opkt : OutPkt := ⟨hdr 7 0 0 pay8 [], pay8, .none, false⟩
def queued : Dev := { net with waitq := [opkt] }
def sqd : SubQ := ⟨1, 5, [opkt], 4096, false, none⟩
def busyLnk : Link := { lnk 2 with subqs := [⟨0, 0, [opkt], 0, false, none⟩] }
def pol : Policer := ⟨5, 0, 10, 20, 5000, 6000⟩

theorem meets_SchedulerAndPolicer_enqueue : mget queued.links 2 = some (lnk 2) ∧ queued.waitq = [opkt] ∧ mget queued.trn.qps (wf opkt.hdr 84 20) = some qp0 ∧
    qp0.state = 1 ∧ pathOf { queued with waitq := [] } qp0 = some (0, 2) ∧ hasCredit qp0 opkt = true ∧ (lnk 2).fits (subKey opkt) (pktWire opkt) = true ∧
    wf opkt.hdr 12 1 = 0 ∧ qp0.txseq + 1 < 2 ^ 64 ∧ net.isStopped (6 * 4096 + 2) = false := by
  decide +kernel

theorem meets_SchedulerAndPolicer_refill : mget net.links 2 = some (lnk 2) ∧ (lnk 2).state = 2 ∧ (lnk 2).replay.length < 512 ∧
    (0, pol) ∈ ({ net with tsh := [(0, pol)] } : Dev).tsh := by decide +kernel

theorem meets_SchedulerAndPolicer_pick : busyLnk.state = 2 ∧ busyLnk.replay.length < 512 ∧
    (let m := net.markRed (net.joinAll busyLnk)
     let d := (net.bump (rk 0x00F01050 32) 32 m.1).setLink 2 m.2
     (d.pick m.2).map (fun e => (e.1, e.2.1, (e.2.2.sub (e.1, e.2.1)).map (·.pkts))) = some (0, 0, some [opkt]) ∧
     (mget d.trn.qps (wf opkt.hdr 84 20)).all (fun q => decide (q.state = 1)) = true) := by decide +kernel

/-! ### Attention -/

/-- A sequence of tenant 5 in slot 1, with one page of lane 0 in T1. -/
def geo0 : Geom := ⟨0, 0, 0, 0, 0, 0⟩
def ent0 : PageEnt := { (default : PageEnt) with loc := .t1 0 0 0 }
def slotA : LSlot := ⟨1, 16, true, [(0, ent0)], []⟩
def seq5 : Seq := { (default : Seq) with ten := 5, geo := geo0, origin := 1, lver := 1, lanes := [(0, ⟨slotA, { slotA with valid := false }, 0⟩)], cached := true }

/-- A tenon on one page with its query in the trailer, and one whose query lies in the query buffer. -/
def tnDesc : W512 := BitVec.ofNat 512 (pack [(0, 12, 5), (16, 48, 1), (119, 1, 1), (224, 16, 1), (280, 20, 128)])
def tnDescQ : W512 := BitVec.ofNat 512 (pack [(0, 12, 5), (16, 48, 1), (224, 16, 1), (280, 20, 128)])
def tnWork : Work := ⟨0, .node, 0, 3, tnDesc, List.replicate 128 0⟩
def tnWorkQ : Work := ⟨0, .node, 0, 3, tnDescQ, []⟩

def atnD (q : List Work) : Dev := { net with atn := { Atn.reset with queue := q }, pgm := { Pgm.reset with seqs := [(1, seq5)] } }

theorem meets_TenonsAreAdmitted : (atnD [tnWork]).isStopped (9 * 4096) = false ∧ (atnD [tnWork]).freeTidx = some 0 ∧
    (atnD []).rqpAway tnWork.src (parseTn tnDesc).rqp = false ∧ (atnD []).rqpOk tnWork.src false (parseTn tnDesc).rqp (parseTn tnDesc).ten (parseTn tnDesc).part = true ∧
    ((atnD []).tenonConds ⟨[], []⟩ (parseTn tnDesc) tnWork).1 = [] ∧
    firstCond false ((atnD []).tenonConds ⟨[], []⟩ (parseTn tnDescQ) tnWorkQ).1 = some (.keyRevoked, 0) ∧
    ((atnD []).openSeq 1 5 0).isSome = true ∧ (((atnD []).takeArbor 1 false [1]).bind (fun d => (d.takePin 1).bind (fun p =>
      (mget p.2.pgm.seqs 1).map (fun _ => ())))).isSome = true ∧ hSlot (parseTn tnDesc).seq = 1 := by decide +kernel

theorem meets_GranuleTags_tenon : (parseTn tnDescQ).qinl = false ∧ 0 < (parseTn tnDescQ).qlen ∧
    64 * (parseTn tnDescQ).qoff + (parseTn tnDescQ).qlen ≤ (atnD [tnWorkQ]).shareSize (parseTn tnDescQ).part ∧
    (atnD [tnWorkQ]).qAddr (parseTn tnDescQ) / 64 ≤ 1 ∧ 1 ≤ ((atnD [tnWorkQ]).qAddr (parseTn tnDescQ) + (parseTn tnDescQ).qlen - 1) / 64 ∧
    (at_ (atnD [tnWorkQ])).qb.tags = [] ∧ (atnD [tnWorkQ]).rqpAway .node (parseTn tnDescQ).rqp = false ∧ (atnD [tnWorkQ]).rqpOk .node false (parseTn tnDescQ).rqp 5 0 = true := by decide +kernel

/-- An admitted tenon in the table in a phase, with its worked page. -/
def wpage : WPage := ⟨0, ent0, none, 0, 16⟩
def tnE (p : TPhase) : Tenon := { newTenon tnWork (parseTn tnDesc) true none with phase := p, slot := 1, pages := [wpage], query := List.replicate 128 0 }
def tabled (e : Tenon) : Dev := { atnD [] with atn := { Atn.reset with table := [(0, e)] } }

theorem meets_BlocksResumeWalks : (tabled (tnE (.leafWait [7]))).atn.table.filter (fun e => match e.2.phase with
      | .leafWait l => l.contains 7
      | _ => false) ≠ [] ∧ (tabled (tnE (.leafWait [7]))).isStopped (9 * 4096) = false ∧
    (tabled (tnE (.leafWait [7]))).blkFault [] 7 = none := by decide +kernel

/-- A frame order of stack 0 for one position, and an append order; a cluster order; and a page whose first row is written in its tiles. -/
def ford : FOrder := { (default : FOrder) with tidx := 0, hi := 1, slast := true }
def aord : FOrder := { (default : FOrder) with opc := 1, slot := 1, hi := 1 }
def written (d : Dev) : Dev := (List.range (geo0.w / 64)).foldl (fun d i =>
  d.putTile (rowTile geo0 ent0.loc 0 0 i) (frameLoc 0 0 (tileNo geo0 0 0 i)) 5 ent0.ver (List.replicate 64 0)) d
def stk (o : FOrder) (d : Dev) : Dev := { d with bnk := { d.bnk with stks := [(0, { Stack.empty with trained := true, ctxs := [0], orders := [o], keys := [(5, 3)] })] } }
def ordered : Dev := stk ford (written (tabled (tnE .working)))
def appends : Dev := stk aord (tabled (tnE .working))
def clOrd : Dev := { tabled (tnE .working) with atn := { (tabled (tnE .working)).atn with clQ := [⟨0, 0⟩] } }

theorem meets_WorkOrdersAreWorked : ordered.isStopped (3 * 4096) = false ∧ ordered.admitCtxs 0 = ordered ∧
    ordered.nextOrder 0 (ordered.stack 0) [] (ordered.stack 0).orders = some ford ∧ ford.opc = 0 ∧ orderOk ford.bits = true ∧
    mget ordered.atn.table ford.tidx = some (tnE .working) ∧ mget ordered.pgm.seqs (tnE .working).slot = some seq5 ∧
    (tnE .working).pages.find? (fun p => decide (p.page = (tnE .working).tn.pfirst + ford.pidx)) = some wpage ∧
    ordered.orderBar (tnE .working) (seq5.runId 0 0 0) ford.pidx = none ∧
    ordered.orderBar { tnE .working with keygen := 2 } (seq5.runId 0 0 0) ford.pidx = some (.keyRevoked, 0) := by decide +kernel

def openedO : Dev := (ordered.touchFor 0 (tnE .working) (seq5.runId 0 0 0)).eccAll (frameFaults [] seq5.geo (.t1 0 0 0))
theorem meets_WorkOrdersAreWorked_tiles : (∀ x ∈ engineRows seq5.geo.heads (orderRows (tnE .working).tn 0 1),
    (openedO.unitPage [] seq5 (seq5.runId 0 0 0) { ent0 with loc := .t1 0 0 0 } (tnE .working) (engUnit 0 0 x.1) x.2).toOption.isSome = true) ∧
    (∀ h, h < (tnE .working).tn.tH → openedO.macOk [] seq5.geo (.t1 0 0 0) 5 ent0.ver 0 1 ((tnE .working).tn.kvf + h) = true) := by decide +kernel

theorem meets_WorkOrdersAreWorked_append : appends.isStopped (3 * 4096) = false ∧ appends.admitCtxs 0 = appends ∧
    appends.nextOrder 0 (appends.stack 0) [] (appends.stack 0).orders = some aord ∧ aord.opc = 1 ∧ orderOk aord.bits = true ∧
    mget appends.pgm.seqs aord.slot = some seq5 ∧ appends.keyEntry (appends.stack 0) (5, appends.gen 5) = some [(5, 3)] := by decide +kernel

theorem meets_WorkOrdersAreWorked_cluster : clOrd.atn.clQ = [⟨0, 0⟩] ∧ nextCluster clOrd Phys.reset 0 (fKib geo0.fcls) (tnE .working).query = some 0 ∧
    clOrd.orderBar (tnE .working) (seq5.runId 0 0 0) 0 = none ∧ clOrd.isStopped (9 * 4096) = false := by decide +kernel

/-- The same tenon where no row of the page is visible to it. -/
def tnE0 : Tenon := { tnE .working with pages := [⟨0, ent0, none, 0, 0⟩], clLeft := 1 }
def clOrd0 : Dev := { tabled tnE0 with atn := { (tabled tnE0).atn with clQ := [⟨0, 0⟩] } }
def clDone : Dev := ((((({ clOrd0 with atn := { clOrd0.atn with clQ := [], lastCl := 0 } }.touchFor 0 tnE0 (seq5.runId 0 0 0)).eccAll (frameFaults [] seq5.geo ent0.loc)).bump
  (rk 0x01200400 0) 64 1).claimPage seq5.geo ent0.loc 0 0 false (some 0)).scratchPut 0 0 tnE0.query).modTenon 0 (fun e => { e with clLeft := e.clLeft - 1 })

theorem meets_WorkOrdersAreWorked_rows : (clDone.unitPage [] seq5 (seq5.runId 0 0 0) ent0 tnE0 8192 (orderRows tnE0.tn 0 0)).toOption = some [] ∧
    (∀ h, h < tnE0.tn.tH → clDone.macOk [] seq5.geo ent0.loc 5 ent0.ver 0 0 (tnE0.tn.kvf + h) = true) := by decide +kernel

/-- A result of stack 0, and one of a cluster, for the tenon's one row. -/
def part0 : Partial := { (default : Partial) with o := List.replicate 64 0 }
def stackE : Tenon := { tnE .working with parts := [((3, 0), part0)] }
def fullE : Tenon := { tnE .working with stackDone := [(0, 0, part0)] }
/-- Two results of stack 0 whose merge overflows. -/
def big0 : Partial := { part0 with l := 0x7F7FFFFF }
def overE : Tenon := { tnE .working with parts := [((3, 0), big0), ((4, 0), big0)] }
def rep0 : Report := ⟨0, .integrity, 0, 3, 1, 0, 0, false, default⟩

theorem meets_MergesAndReports : stackE.phase = .working ∧ (tabled stackE).stackBusy 0 0 stackE = false ∧ (tabled stackE).isStopped (3 * 4096) = false ∧
    (match mergeRows (rowParts overE.parts 0 512) (List.range overE.tn.rows) with
      | .error x => decide (x = (63, 4))
      | .ok _ => false) = true ∧ (tabled overE).stackBusy 0 0 overE = false ∧
    stackE.parts.any (fun p => decide (p.1.1 / 512 = 0)) = true ∧
    (mergeRows (rowParts stackE.parts 0 512) (List.range stackE.tn.rows)).toOption.isSome = true ∧
    ({ tnE .ended with result := some (.shape, 0) } : Tenon).phase = .ended ∧ fullE.left = [] ∧ fullE.clLeft = 0 ∧ (tabled fullE).staging 0 = false ∧
    fullE.parts.any (fun p => decide (p.1.1 < 4096)) = false ∧ (tabled fullE).atn.reports.any (fun r => decide (r.tidx = 0)) = false ∧
    (tabled fullE).keyOk fullE.tn.ten fullE.keygen = true ∧
    ({ tabled (tnE .working) with atn := { (tabled (tnE .working)).atn with reports := [rep0] } } : Dev).nextReport = some rep0 := by decide +kernel

theorem meets_MergesAndReports_data : (mergeRows (fun r => rowStacks fullE.stackDone r ++ rowParts fullE.parts 8192 8216 r) (List.range fullE.tn.rows)).toOption.isSome = true ∧
    outFinite fullE.tn.ofmt ((tabled fullE).rowOut fullE 0 part0) = true ∧ (tabled fullE).walkLeaf [] fullE = none := by decide +kernel

/-- The tenon's page hangs on a leaf block in T0, whose first tile fails. -/
def leafE : Tenon := { fullE with pin := some 1 }
def leafD : Dev := { tabled leafE with pgm := { (tabled leafE).pgm with seqs := [(1, { seq5 with
  lanes := [(0, ⟨{ slotA with blocks := [((1, 0), 2 ^ 29)] }, { slotA with valid := false }, 0⟩)] })] } }

theorem meets_MergesAndReports_leaf : leafD.walkLeaf [⟨2 ^ 33, .uncorrectable⟩] leafE = some (0, 1, 2 ^ 33) ∧ leafD.keyOk 5 leafE.keygen = true ∧
    leafD.staging 0 = false ∧ leafD.isStopped (9 * 4096) = false := by decide +kernel

/-- Banks at a boundary: one with a due refresh, one with both kinds of claim, with and without the turn, one with nothing. -/
def claim0 : Claim := ⟨1, false⟩
def bankD (b : Bank) : Dev := { net with bnk := { Bnk.reset with banks := [(bankKey 0 0 0 0, b)] } }
def stroke0 : Stroke := ⟨0, .t1 0 0 0, false, false, false⟩
def both : Bank := { Bank.empty with strokes := [stroke0], ords := [⟨claim0, false, none⟩] }

theorem meets_BankArbitration : (0 < ({ Bank.empty with due := 1 } : Bank).due) ∧ both.strokes ≠ [] ∧ both.ords ≠ [] ∧ both.due = 0 ∧ both.turn = false ∧
    (bankD both).nextStroke Phys.reset 0 0 0 both = some stroke0 ∧ ({ both with turn := true } : Bank).turn = true ∧ Bank.empty.ords = [] ∧
    net.asleep = false := by decide +kernel

theorem meets_LevelsMoveByOne : dieEnter[0]? = some 85 ∧ clEnter[0]? = some 100 ∧ ¬ (105 : Int) < 105 ∧ dieEnter[3]? = some 105 ∧ dieLeave[0]? = some 83 ∧ rdy.rcv.jq.length < 64 := by decide +kernel

/-! ### Edits and sequences -/

/-- A TRIM of one lane to position 16, a KEEP, an APPEND without data and a FORK, on slot 1; a CLOSE and an OPEN. -/
def dowel (op : Nat) (more : List (Nat × Nat × Nat)) : Work :=
  ⟨1, .node, 0, 3, BitVec.ofNat 512 (pack ([(0, 12, 5), (16, 48, 1), (80, 2, op)] ++ more)), []⟩
def closeW : Work := ⟨2, .node, 0, 3, BitVec.ofNat 512 (pack [(0, 12, 5), (16, 48, 1), (64, 2, 1)]), []⟩
def openW : Work := ⟨2, .node, 0, 3, BitVec.ofNat 512 (pack [(0, 12, 5)]), []⟩
def withMirror (m : Nat) (d : Dev) : Dev := { d with sec := { d.sec with tenants := [(5, { ten5 with mirror := some m })] } }
def pgmD (q : List Work) : Dev := { atnD [] with pgm := { (atnD []).pgm with queue := q } }

theorem meets_EditsRunOrAreRefused : (pgmD []).isStopped (10 * 4096) = false ∧ (pgmD []).running 1 = none ∧ (pgmD []).ctxHeld 2 1 = false ∧
    (pgmD [dowel 1 [(96, 36, 16)]]).takeEdit 1 1 = some (dowel 1 [(96, 36, 16)], pgmD []) ∧
    (pgmD []).rqpAway .node 0 = false ∧ (pgmD []).rqpOk .node false 0 5 0 = true ∧ firstCond false ((pgmD []).editConds ⟨[], []⟩ (dowel 1 [(96, 36, 16)])).1 = none ∧
    (pgmD [dowel 0 []]).takeEdit 1 0 = some (dowel 0 [], pgmD []) ∧ (firstCond false ((pgmD []).editConds ⟨[], []⟩ (dowel 0 [])).1).isSome = true ∧
    (pgmD [dowel 2 []]).takeEdit 1 2 = some (dowel 2 [], pgmD []) ∧ (pgmD [dowel 3 []]).takeEdit 1 3 = some (dowel 3 [], pgmD []) ∧
    (pgmD [closeW]).takeEdit 1 4 = some (closeW, pgmD []) ∧ firstCond false ((pgmD []).closeConds closeW) = none := by decide +kernel

/-- Whether a request of slot 1 goes through every step to its publish. -/
def publishes (d : Dev) (w : Work) : Bool :=
  let c := if w.kind = 1 then d.editConds ⟨[], []⟩ w else (d.closeConds w, d)
  (firstCond false c.1).isNone && (c.2.running 1).isNone && ((c.2.editPins 1 w).bind (fun x => (mget x.2.2.pgm.seqs 1).map (fun q =>
    let src := if w.kind = 1 then x.2.2.forkSrc w.desc else none
    let needs := if w.kind = 1 then x.2.2.editNeeds q src w.desc else []
    let held := editShares q (x.2.2.editWalks q w) ++ editShares (src.getD q) (needs.map (fun n => (n.1, n.2.1)))
    let dh : Dev := { x.2.2 with pgm := { x.2.2.pgm with shares := held.foldl (fun m k => mmod m k (fun y => { y with holds := y.holds + 1 })) x.2.2.pgm.shares } }
    let pc := if w.kind = 1 then dh.pageConds (src.getD q) q src w.desc [] else ([], dh)
    let bs := editBlocks pc.2 q (pc.2.editWalks q w) ++ (match src with
      | none => []
      | some y => editBlocks pc.2 y (needs.map (fun n => (n.1, n.2.1))))
    let l := Dev.leafTouch [] bs.eraseDups (pc.2.eccAll [])
    (c.2.arborFault [] (1 :: w.srcSlot.toList)).isNone && (dh.shareFault [] held).isNone &&
    (firstCond false pc.1).isNone && needs.all (fun n => match (pc.2.resolve n.2.2.1).loc with
      | .t3 _ => false
      | _ => true) && l.1.isNone && (match Dev.prepare 1 q w [] ⟨[], []⟩ l.2 with
      | .error _ => false
      | .ok (p, _, d3) => p.src.isNone && !d3.appending 1 && (mget d3.pgm.seqs 1).all (fun y => slotsFree y p.lanes))))).getD false

theorem meets_EditsRunOrAreRefused_runs : publishes ((pgmD []).setRegs [(rk 0x01300020 0, 1)]) (dowel 1 [(96, 36, 16)]) = true ∧ (dowel 1 []).kind = 1 ∧
    publishes (pgmD []) closeW = true ∧ closeW.kind = 2 ∧ ((pgmD []).tenant 5).mirror = none ∧
    ((withMirror 7 (pgmD [])).tenant 5).mirror = some 7 ∧ (withMirror 7 (pgmD [])).transitSpent = false := by decide +kernel

theorem meets_OpensAndPublishes_open : (pgmD [openW]).pgm.queue = [openW] ∧ openW.op = 5 ∧ (pgmD []).trn.fenced = false ∧ (pgmD []).keyOk openW.ten openW.keygen = true ∧
    (pgmD []).admitted openW.ten 0 = true ∧ scOk openW.desc = true ∧ scOp openW.desc = 0 ∧ (openGeom openW.desc).isSome = true ∧
    (pgmD []).usage openW.ten ≤ ((pgmD []).tenant openW.ten).quota ∧ ((pgmD []).tenant openW.ten).quota ≠ 0 ∧ scRpages openW.desc = 0 ∧
    (pgmD []).ownSlot.isSome = true ∧ (pgmD []).rqpAway .node openW.rqp = false ∧
    (pgmD []).rqpOk .node false openW.rqp openW.ten 0 = true ∧ openW.extra = [] ∧
    ((pgmD []).setReg (rk 0x01300020 0) 1).blkRoom (ldBlocks 4 1) = true ∧ 0 * 1 * (fKib 0 + 1) ≤ (pgmD []).t1Open := by decide +kernel

/-- An edit that waits for a lane slot. -/
def slotEdit : Edit := { (default : Edit) with phase := .slot, prep := some { (default : Prep) with src := none } }

theorem meets_OpensAndPublishes_publish : ({ pgmD [] with pgm := { (pgmD []).pgm with seqs := [(1, { seq5 with edits := [slotEdit] })] } } : Dev).running 1 = some slotEdit ∧
    slotEdit.phase = .slot ∧ slotEdit.fenced (pgmD []) = false ∧ slotsFree { seq5 with edits := [slotEdit] } ({ (default : Prep) with src := none } : Prep).lanes = true := by decide +kernel

/-! ### Placement -/

/-- A sequence whose pages are half a KiB, in slot 1; page 0 is here, and a copy of page 1. -/
def geoP : Geom := ⟨0, 2, 0, 0, 0, 1⟩
def seqP : Seq := { seq5 with geo := geoP }
def runId (page : Nat) : RunId := ⟨5, 1, 0, 0, page⟩
def copy0 : Copy := ⟨geoP, { ent0 with loc := .t1 0 0 64 }, 1⟩
def runIn (page : Nat) (st : HState) (c : Option Copy) : Run := ⟨runId page, st, 7, 1, 0, 0, c, 0, 0, none, false, none⟩

/-- A placement message of node 7 (Table 7.8): KIND, page, epoch, and further fields. -/
def body (kind page epoch : Nat) (more : List (Nat × Nat × Nat)) : Nat :=
  pack ([(0, 4, kind), (4, 12, 5), (20, 48, 1), (84, 32, page), (116, 32, epoch), (148, 16, 3), (164, 12, 7)] ++ more)
def msg (b : Nat) (extra : Bytes) : Work := ⟨4, .qp 9, 0, 3, BitVec.ofNat 512 b, extra⟩

/-- The fields of an image: one position held, the geometry. -/
def imgF : List (Nat × Nat × Nat) := [(192, 5, 1), (205, 4, 2), (228, 3, 1)]

/-- The ready node with messages, run records and a sequence's edits; node 7 lies outside the tray but at QP 9. -/
def plcD (q : List Work) (runs : List Run) (edits : List Edit) : Dev :=
  ({ net with
      trn := { net.trn with qps := [(9, { qp0 with type := 1, remote := 7 })] }
      pgm := { Pgm.reset with seqs := [(1, { seqP with edits := edits })] }
      plc := { Plc.reset with queue := q, runs := runs, commits := [(runId 0, 2, 7)] } } : Dev).setRegs [(rk 0x00800008 0, 100000), (rk 0x01300020 0, 1)]

def offB : Nat := body 0 1 1 imgF
def offW : Work := msg offB (((plcD [] [] []).transitSend 5 (leBytes 32 offB) (List.replicate 128 0)).1)

theorem meets_HomeTransfer_offer : (plcD [offW] [] []).isStopped (11 * 4096) = false ∧ (plcD [] [] []).trn.fenced = false ∧
    (((plcD [offW] [] []).eccAll []).takePlace 0).isSome = true ∧ (plcD [] [] []).offerConds offB = [] ∧
    ((plcD [] [] []).lodge (pbRun offB) (pbPart offB) (pbGeom offB)).isSome = true ∧ ((plcD [] [] []).tenant 5).mirror = none := by decide +kernel

theorem meets_HomeTransfer_image : placeBad offW = false ∧ (((((plcD [offW] [] []).eccAll []).takePlace 0).bind (fun x =>
    (x.2.lodge (pbRun offB) (pbPart offB) (pbGeom offB)).bind (fun d1 => (d1.takeImage offB offW.extra).toOption.bind (fun r =>
      (r.2.2.2.allocT1 5 (pbGeom offB).fcls (copyDie (pbRun offB) (pbGeom offB))).map (fun _ => x.2.keyOk 5 (pbKeygen offB)))))) = some true) ∧
    ((withMirror 8 (plcD [] [] [])).tenant 5).mirror = some 8 := by decide +kernel

/-- The move edit that offers page 0. -/
def offEdit : Edit := { (default : Edit) with phase := .offer, move := some (.lend, runId 0, 7), pin := some 1 }
def accW : Work := msg (body 1 0 1 []) []
def comW : Work := msg (body 2 1 2 []) []
def cldW : Work := msg (body 3 0 2 []) []
def decW : Work := msg (body 5 0 1 [(176, 8, 6)]) []

theorem meets_HomeTransfer_answers :
    (plcD [accW] [runIn 0 .offered none] [offEdit]).takePlace 1 = some (accW, plcD [] [runIn 0 .offered none] [offEdit]) ∧ placeBad accW = false ∧
    (acceptGo accW (plcD [] [runIn 0 .offered none] [offEdit])).isSome = true ∧
    (plcD [comW] [runIn 1 .pending (some copy0)] []).takePlace 2 = some (comW, plcD [] [runIn 1 .pending (some copy0)] []) ∧ placeBad comW = false ∧
    (plcD [] [runIn 1 .pending (some copy0)] []).keyOk 5 (pbKeygen comW.body) = true ∧
    (plcD [] [runIn 1 .pending (some copy0)] []).run (pbRun comW.body) = some (runIn 1 .pending (some copy0)) ∧
    ((plcD [] [runIn 1 .pending (some copy0)] []).publishCopy (pbRun comW.body)).isSome = true ∧
    (plcD [cldW] [] []).takePlace 3 = some (cldW, plcD [] [] []) ∧ placeBad cldW = false ∧
    (pbRun cldW.body, pbEpoch cldW.body, pbFrom cldW.body) ∈ (plcD [] [] []).plc.commits ∧
    (plcD [decW] [runIn 0 .offered none] [offEdit]).takePlace 5 = some (decW, plcD [] [runIn 0 .offered none] [offEdit]) ∧ placeBad decW = false ∧
    (plcD [] [runIn 0 .offered none] [offEdit]).run (pbRun decW.body) = some (runIn 0 .offered none) ∧ (∀ i, i < 8 → (plcD [] [] []).tray i ≠ 7) := by
  decide +kernel

/-- Whether a publish of one page's new entry goes through at once, as `Dev.swaps` has it. -/
def swapsOk (d : Dev) (slot : Nat) (q : Seq) (lane : Nat) (id : RunId) (new : PageEnt) : Bool :=
  match Dev.newLane q lane (q.now lane).endp (mset (q.now lane).pages id.page new) [id.page] emptyPrep d with
  | .error _ => false
  | .ok (p, d1) => p.src.isNone && !d1.appending slot && (mget d1.pgm.seqs slot).all (fun q1 => slotsFree q1 p.lanes)

def offering : Dev := plcD [] [runIn 0 .offered none] [offEdit]

theorem meets_HomeTransfer_accept : offering.pageOf (runId 0) = some (1, { seqP with edits := [offEdit] }, 0, ent0) ∧
    offering.run (runId 0) = some (runIn 0 .offered none) ∧ offering.strokesOn ent0.loc = false ∧
    (offering.acceptMove (body 1 0 1 [])).map (fun x => offering.strokesOn x.2.2.2.1.loc) = some false ∧
    swapsOk offering 1 { seqP with edits := [offEdit] } 0 (runId 0) { ent0 with loc := .away 7, ver := 0, sblk := 0 } = true := by decide +kernel

def pended : Dev := plcD [] [runIn 1 .pending (some copy0)] []

theorem meets_HomeTransfer_commit : pended.keyOk 5 (pbKeygen comW.body) = true ∧ pended.ledgerOf (runId 1) = some (1, seqP) ∧ pended.editBusy 1 = false ∧
    swapsOk pended 1 seqP 0 (runId 1) copy0.ent = true ∧
    pended.plc.claims.find? (fun c => decide (c.id = runId 1 ∧ c.peer = 7)) = none := by decide +kernel

/-- CLAIM and RELEASE of node 7, and the records that each clause meets: HOME against HOME at a lower, an equal and a higher epoch, a
relinquished one, and copies. -/
def clmW (epoch state : Nat) : Work := msg (body 4 1 epoch [(184, 3, state)]) []
def relW : Work := msg (body 6 1 1 []) []
def claimed_ (r : Run) : Dev := plcD [] [r] []
def homeR : Run := runIn 1 .home none
def wasR : Run := { runIn 1 .pending (some copy0) with was := some (0, 7) }

theorem meets_ClaimsAreDecided :
    (plcD [clmW 1 0] [runIn 1 .pending (some copy0)] []).takePlace 4 = some (clmW 1 0, pended) ∧ placeBad (clmW 1 0) = false ∧
    pended.run (runId 1) = some (runIn 1 .pending (some copy0)) ∧ (pended.reply (clmW 1 0) 4 1 0 2).run (runId 1) = some (runIn 1 .pending (some copy0)) ∧
    claimRule .pending 1 (pbState (clmW 1 0).body) (pbEpoch (clmW 1 0).body) = (.relinquished, 1) ∧
    claimRule .home 1 (pbState (clmW 0 0).body) (pbEpoch (clmW 0 0).body) = (.home, 1) ∧
    claimRule .home 1 (pbState (clmW 1 0).body) (pbEpoch (clmW 1 0).body) = (.orphaned, 1) ∧
    claimRule .relinquished 1 (pbState (clmW 1 0).body) (pbEpoch (clmW 1 0).body) = (.relinquished, 1) ∧
    claimRule .home 1 (pbState (clmW 2 0).body) (pbEpoch (clmW 2 0).body) = (.relinquished, 2) ∧ (claimed_ homeR).pageOf (runId 1) = none ∧
    (plcD [relW] [runIn 1 .pending (some copy0)] []).takePlace 6 = some (relW, pended) ∧ placeBad relW = false ∧
    (plcD [relW] [homeR] []).takePlace 6 = some (relW, claimed_ homeR) ∧ (runIn 1 .pending (some copy0)).was = none ∧
    (plcD [relW] [wasR] []).takePlace 6 = some (relW, plcD [] [wasR] []) ∧ wasR.copy.isSome = true ∧ wasR.was = some (0, 7) := by
  decide +kernel

def shaB : Nat := body 9 2 1 imgF
def shaW : Work := msg shaB (((plcD [] [] []).transitSend 5 (leBytes 32 shaB) (List.replicate 128 0)).1)
def homeR0 : Run := runIn 0 .home none
def ackW : Work := msg (body 8 0 1 []) []
def owing : Dev := { plcD [ackW] [homeR0] [] with plc := { (plcD [ackW] [homeR0] []).plc with owed := [(runId 0, 7, true)] } }
/-- An edit that waits for the acknowledgement of its tenant's mirror. -/
def fwdEdit : Edit := { (default : Edit) with phase := .mirror, prep := some emptyPrep }
def fwding : Dev := withMirror 7 (plcD [] [] [fwdEdit])
def medW : Work := msg (body 7 0 1 []) (leBytes 64 (pack [(64, 2, 1)]) ++ leBytes 8 (2 ^ 63) ++ leBytes 8 (pack [(8, 4, 2), (31, 3, 1)]) ++ List.replicate 8 0 ++
  ((plcD [] [] []).transitSend 5 (leBytes 32 (body 7 0 1 [])) []).1)

theorem meets_MirrorMessages : (pbRun shaB).ten = 5 ∧ shapeOk (pbGeom shaB).shape = true ∧ fmtOk (pbGeom shaB).shape (pbGeom shaB).kvfmt = true ∧
    frameClass (pbGeom shaB).shape (pbGeom shaB).kvfmt (pbGeom shaB).heads = some (pbGeom shaB).fcls ∧ (plcD [] [] []).run (pbRun shaB) = none ∧
    (plcD [] [] []).keyOk 5 (pbKeygen shaB) = true ∧ (plcD [] [] []).usage 5 + (fKib 1 + 1) ≤ ((plcD [] [] []).tenant 5).quota ∧
    fKib 1 + 1 ≤ (plcD [] [] []).t1Open ∧ (plcD [] [] []).pwr.waits = [] ∧ ((plcD [shaW] [] []).takePlace 9).isSome = true ∧ placeBad ackW = false ∧
    (owing.takePlace 8).isSome = true ∧ owing.plc.owed.find? (fun o => decide (o.1 = runId 0 ∧ o.2.1 = 7)) = some (runId 0, 7, true) ∧
    owing.run (runId 0) = some homeR0 ∧ pbStatus ackW.body = 0 ∧ (plcD [] [] []).filling 5 7 = false := by decide +kernel

theorem meets_MirrorMessages_shadow : placeBad shaW = false ∧ (((plcD [] [] []).takeImage shaB shaW.extra).toOption.bind (fun r =>
    (r.2.2.2.allocT1 5 (pbGeom shaB).fcls (copyDie (pbRun shaB) (pbGeom shaB))).map (fun _ => ()))).isSome = true := by decide +kernel

theorem meets_MirrorMessages_edit : fwding.ledgerOf (runId 0) = some (1, { seqP with edits := [fwdEdit] }) ∧
    mget fwding.pgm.seqs 1 = some { seqP with edits := [fwdEdit] } ∧ fwdEdit.phase = .mirror ∧ (fwding.tenant 5).mirror = some 7 ∧
    fwding.plc.owed.find? (fun o => decide (o.1 = runId 0 ∧ o.2.1 = 7)) = none ∧ fwdEdit.prep = some emptyPrep ∧ fwding.appending 1 = false ∧
    slotsFree { seqP with edits := [fwdEdit] } emptyPrep.lanes = true ∧ emptyPrep.src = none := by decide +kernel

theorem meets_MirrorMessages_close : placeBad medW = false ∧ ((plcD [medW] [] []).takePlace 7).isSome = true ∧ 2 ^ 63 ≤ leAt medW.extra 64 8 ∧
    ((plcD [] [] []).transitTake 5 (leBytes 32 medW.body) (medW.extra.drop 88)).isSome = true ∧
    mirrorBad medW.extra (w512 medW.extra) ⟨0, 2, 0, 0, 0, 1⟩ = false ∧ leAt medW.extra 72 8 = pack [(8, 4, 2), (31, 3, 1)] := by decide +kernel

/-- The tally clocks below and at the largest value. -/
theorem meets_TallyClocks : 2 ^ ({ net with plc := { Plc.reset with touches := 1 } } : Dev).reg (rk 0x00800018 0) ≤ 1 ∧
    ({ net with plc := { Plc.reset with tnow := 0xFFFFFFFE } } : Dev).plc.tnow ≠ 0xFFFFFFFF ∧
    2 ^ ({ net with shp := { Shp.reset with touches := 1 } } : Dev).reg (rk 0x00900000 24) ≤ 1 ∧ net.isStopped (12 * 4096) = false := by decide +kernel

/-- Page 0 of the sequence in a tier, its record, and the tenant's tiers and peers; node 7 stands at tray position 1. -/
def ten5all : Tenant := { ten5 with tiers := 7, peers := 2 }
def seqT (l : Loc) : Seq := { seqP with lanes := [(0, ⟨{ slotA with pages := [(0, { ent0 with loc := l })] }, { slotA with valid := false }, 0⟩)] }
def tierD (slot : Nat) (l : Loc) (runs : List Run) (press0 press1 : Bool) : Dev :=
  ({ plcD [] runs [] with
      pgm := { Pgm.reset with seqs := [(slot, seqT l)] }
      plc := { Plc.reset with runs := runs, t0press := press0, t1press := press1 }
      sec := { rdy.sec with tenants := [(5, ten5all)] } } : Dev).setRegs [(rk 0x00800060 15, 1), (rk 0x00800060 16, 7), (rk 0x00800000 0, 1000), (rk 0x00800010 0, 10)]

def dueRun : Run := { runIn 0 .home none with due := true }

/-- The node with the page's sixteen rows written in its tiles. -/
def tiles (l : Loc) (d : Dev) : Dev := (List.range 16).foldl (fun d t => (List.range (geoP.w / 64)).foldl (fun d i =>
  d.putTile (rowTile geoP l t 0 i) (frameLoc 0 0 (tileNo geoP t 0 i)) 5 0 (List.replicate 64 0)) d) d

/-- Whether the page's rows read, and with `alloc` find a frame and publish, as `Dev.readsFor` and `Dev.refits` have it. -/
def readOf (d : Dev) (slot : Nat) (q : Seq) (e : PageEnt) : Option (List ((Nat × Nat) × Bytes) × Dev) :=
  (d.takeArbor slot true [slot]).bind (fun d1 => (d1.takePin slot).bind (fun x => ((x.2.moveGoes (runId 0)).moveRead [] slot q 0 (runId 0) e).toOption))
def refitOk (d : Dev) (slot : Nat) (q : Seq) (e : PageEnt) (alloc : Dev → Option (Frame × Dev)) : Bool :=
  ((readOf d slot q e).bind (fun r => (alloc r.2).map (fun x =>
    swapsOk (x.2.writeRowsAt q.geo (runId 0) x.1.loc x.1.ver r.1) slot q 0 (runId 0) (frameEnt x.1 e.first e.kscale e.vscale)))).getD false

def T1e : PageEnt := { ent0 with loc := .t1 0 0 0 }
def T0e : PageEnt := { ent0 with loc := .t0 0 }
def hot : Dev := tiles T1e.loc (tierD 1 T1e.loc [dueRun] false true)
def old0 : Dev := tiles T0e.loc (tierD 1 T0e.loc [homeR0] true false)

theorem meets_TierMoves_promotion : hot.isStopped (11 * 4096) = false ∧ hot.isStopped (4 * 4096) = false ∧ hot.awake = true ∧
    hot.pageOf (runId 0) = some (1, seqT T1e.loc, 0, T1e) ∧ hot.moveDue (runId 0) = true ∧ (hot.resolve T1e).loc.isT1 = true ∧
    hot.movable 1 (runId 0) (hot.resolve T1e) = true ∧ hot.lodging 1 = false ∧ fld (hot.tenant 5).tiers 0 1 ≠ 0 ∧ hot.t0Fits (fKib 1) = true ∧
    hot.shareHeld T1e = false ∧ hot.arborFree 1 = true ∧ refitOk (hot.notDue (runId 0)) 1 (seqT T1e.loc) T1e (fun d => d.allocT0 5 1) = true := by decide +kernel

theorem meets_TierMoves_demotion : old0.pageOf (runId 0) = some (1, seqT T0e.loc, 0, T0e) ∧ (old0.resolve T0e).loc.isT0 = true ∧
    old0.movable 1 (runId 0) (old0.resolve T0e) = true ∧ old0.plc.t0press = true ∧ old0.oldT0 (fun _ => true) = some (runId 0) ∧
    fKib 1 + 1 ≤ old0.t1Open ∧ old0.shareHeld T0e = false ∧ refitOk old0 1 (seqT T0e.loc) T0e (fun d => d.allocT1 5 1 1) = true := by decide +kernel

theorem meets_TierMoves_lending : hot.nextDown = some (runId 0) ∧ hot.trn.fenced = false ∧ hot.lendTo (runId 0) = [1] ∧ hot.run (runId 0) = some dueRun ∧ hot.transitSpent = false ∧
    dueRun.epoch ≠ 0xFFFFFFFF ∧ (readOf hot 1 (seqT T1e.loc) T1e).isSome = true := by decide +kernel

def lodged : Dev := tiles T1e.loc (tierD (2 ^ 19) T1e.loc [dueRun] false false)

theorem meets_TierMoves_return : lodged.lodging (2 ^ 19) = true ∧ lodged.pageOf (runId 0) = some (2 ^ 19, seqT T1e.loc, 0, T1e) ∧ dueRun.due = true ∧
    lodged.movable (2 ^ 19) (runId 0) T1e = true ∧ (lodged.peerQp 7).isSome = true ∧ lodged.arborFree (2 ^ 19) = true ∧ lodged.transitSpent = false ∧
    (lodged.notDue (runId 0)).run (runId 0) = some { dueRun with due := false } ∧
    (readOf (lodged.notDue (runId 0)) (2 ^ 19) (seqT T1e.loc) T1e).isSome = true := by decide +kernel

/-- The same page where no peer takes it, with a spill area and node channels: it is spilled; and a shadow in its place. -/
def spills (d : Dev) : Dev :=
  let d := nodeChans { d with sec := { d.sec with tenants := [(5, { ten5all with peers := 0 })] } }
  d.setFn 1 { fnOn with spill := some (0x200000, 16) }
def cold1 : Dev := spills hot
def shadow0 : Run := { runIn 0 .shadow (some ⟨geoP, T1e, 16⟩) with due := false }
def coldS : Dev := let d := spills (tiles T1e.loc (tierD 1 T1e.loc [shadow0] false true)); { d with pgm := { d.pgm with seqs := [] } }

theorem meets_TierMoves_spill : cold1.spillChan = some 63 ∧ cold1.nextDown = some (runId 0) ∧ cold1.canSpill (runId 0) = true ∧
    (cold1.run (runId 0)).bind Run.copy = none ∧ cold1.lendTo (runId 0) = [] ∧
    ((readOf cold1 1 (seqT T1e.loc) T1e).map (fun r => match r.2.spillOut (runId 0) geoP (imageRaw geoP 0 16 r.1) with
      | (none, _) => false
      | (some (u, ver), d2) => swapsOk d2 1 (seqT T1e.loc) 0 (runId 0) { T1e with loc := .t3 u, ver := ver, sblk := 0 })) = some true := by decide +kernel

theorem meets_TierMoves_shadow : coldS.run (runId 0) = some shadow0 ∧ coldS.spillChan = some 63 ∧ coldS.nextDown = some (runId 0) ∧ coldS.canSpill (runId 0) = true ∧
    (((coldS.eccAll []).claimPage geoP T1e.loc 0 16 false).rowsAt [] geoP (runId 0) 5 T1e 0 16).toOption.isSome = true := by decide +kernel

/-- The page in T3, with its image as the node wrote it, its read on a channel, and a tenon or, for a shadow, a forwarded edit that waits for it. -/
def T3e : PageEnt := { ent0 with loc := .t3 0 }
def geoQ : Geom := { geoP with kvfmt := 4 }
def seqQ : Seq := { seqT T3e.loc with geo := geoQ }
def imT : Bytes := let h := t3Head (runId 0) 0 3 16 0 0
  let c := gcmEncrypt (hot.tkey 5 "SPILL") (h.drop 20) h (List.replicate 16 0)
  h ++ c.1 ++ c.2
def backD (runs : List Run) : Dev :=
  let d := tierD 1 T3e.loc runs false false
  { d with dma := { d.dma with xfers := [⟨.stage (runId 0), some 60, true, 1⟩] }
           pgm := { d.pgm with seqs := [(1, seqQ)] }
           atn := { d.atn with table := [(0, tnE (.stageWait [runId 0]))] } }
def back : Dev := backD [homeR0]
def shadow3 : Run := { shadow0 with copy := some ⟨geoQ, T3e, 16⟩ }
def backS : Dev := let d := backD [shadow3]; { d with plc := { d.plc with queue := [medW] } }

/-- The same where the channel has counted the image's bytes. -/
def backC : Dev := back.chCount (back.xferChan (.stage (runId 0))) imT.length
def backSC : Dev := backS.chCount (backS.xferChan (.stage (runId 0))) imT.length

theorem meets_TierMoves_stageBack : back.dma.xfers.any (fun x => decide (x.what = .stage (runId 0)) && x.issued) = true ∧ back.active 5 = true ∧
    back.pageOf (runId 0) = some (1, seqQ, 0, T3e) ∧ (back.run (runId 0)).bind Run.copy = none ∧ (seqQ).edits = [] ∧
    backC.stageWants.contains (runId 0) = true ∧ backC.noT1 1 1 = false ∧
    ((backC.takeArbor 1 true [1]).bind (fun d0 => (((Dev.leafTouch [] (editBlocks d0 seqQ [(0, 0)]) d0).2).stageRows (runId 0) geoQ 0 16 0 imT).toOption.bind (fun r => (r.2.allocT1 5 1 1).map (fun x =>
      swapsOk ((x.2.dropXfer (.stage (runId 0))).writeRowsAt geoQ (runId 0) x.1.loc x.1.ver r.1) 1 (seqQ) 0 (runId 0) (frameEnt x.1 0 0 0))))) = some true := by
  decide +kernel

theorem meets_TierMoves_stageBackShadow : backS.run (runId 0) = some shadow3 ∧ backSC.shadowWanted (runId 0) = true ∧ T3e.failed = false ∧
    backS.active 5 = true ∧ backSC.noT1 1 (copyDie (runId 0) geoQ) = false ∧
    ((backSC.stageRows (runId 0) geoQ 0 16 0 imT).toOption.bind (fun r => (r.2.allocT1 5 1 (copyDie (runId 0) geoQ)).map (fun _ => ()))).isSome = true := by decide +kernel

/-- A suspect page-run held in a copy, whose tiles nothing has written: its rows fail their check. -/
def suspD : Dev := { plcD [] [runIn 1 .shadow (some copy0)] [] with plc := { (plcD [] [runIn 1 .shadow (some copy0)] []).plc with suspects := [(runId 1, 1)] } }

def hotS : Dev := { hot with plc := { hot.plc with suspects := [(runId 0, 1)] } }

theorem meets_TierMoves_reread : suspD.plc.suspects.find? (fun y => decide (y.1 = runId 1 ∧ y.2 < 16)) = some (runId 1, 1) ∧ suspD.quiet (runId 1) = true ∧
    (suspD.run (runId 1)).bind Run.copy = some copy0 ∧ copy0.ent.failed = false ∧ copy0.ent.loc.isT1 = true ∧
    hotS.plc.suspects.find? (fun y => decide (y.1 = runId 0 ∧ y.2 < 16)) = some (runId 0, 1) ∧ hotS.quiet (runId 0) = true ∧
    (hotS.run (runId 0)).bind Run.copy = none ∧ hotS.pageOf (runId 0) = some (1, seqT T1e.loc, 0, T1e) ∧ (hotS.resolve T1e).failed = false ∧
    (hotS.rowsAt [] geoP (runId 0) 5 T1e 0 1).toOption.isSome = true ∧ (suspD.rowsAt [] copy0.geo (runId 1) 5 copy0.ent 0 1).toOption.isNone = true ∧ (suspD.rowsAt [] copy0.geo (runId 1) 5 copy0.ent 0 0).toOption.isSome = true := by
  decide +kernel

theorem meets_QueriesAnswer : net.awake = true ∧ net.isStopped (11 * 4096) = false ∧ net.isStopped (8 * 4096) = false := by decide +kernel

/-! ### The pool -/

/-- A raw region of 4096 FP32-class elements for tenant 5, with version 1; a reader at slot 0; a draft at slot 0; a request, from the host
where a draft is concerned. -/
def rp0 : RegionProps := ⟨5, 0, 0, 0, 0, 4096, 64, false⟩
def ver1 : Version := ⟨1, [], rpRaw rp0, [], [], []⟩
def reg0 : Region := ⟨false, rp0, 1, [ver1]⟩
def dft (base : Nat) : Draft := ⟨0, 3, base, 0, 1, [], none⟩
def preq (op : Nat) (more : List (Nat × Nat × Nat)) : Work :=
  ⟨3, .host 1 0 0 true, 0, 3, BitVec.ofNat 512 (pack ([(0, 12, 5), (16, 4, op), (20, 10, 3)] ++ more)), if op = 3 then List.replicate 64 7 else []⟩
def plD (q : List Work) (x : Draft) : Dev := { net with shp := { Shp.reset with
  queue := q, regions := [(3, reg0)], readers := [(0, ⟨0, 3, 1, 0, 1⟩)], drafts := [(0, x)] } }.setRegs [(rk 0x00800008 0, 100000), (rk 0x00900000 0, 1)]

/-- Each request, taken from the queue, with a return QP and no condition. -/
abbrev plTaken (op : Nat) (more : List (Nat × Nat × Nat)) (x : Draft) : Prop :=
  (plD [preq op more] x).takePool op = some (preq op more, plD [] x) ∧
  (plD [] x).rqpAway (preq op more).src (plRqp (preq op more).desc) = false ∧
  (plD [] x).rqpOk (preq op more).src true (plRqp (preq op more).desc) (plTen (preq op more).desc) (plPart (preq op more).desc) = true ∧
  (plD [] x).poolConds ⟨[], []⟩ (preq op more) = [] ∧ mget (plD [] x).shp.regions (plRegion (preq op more).desc) = some reg0

theorem meets_PoolRequests_taken : plTaken 0 [] (dft 1) ∧ plTaken 1 [] (dft 1) ∧ plTaken 2 [] (dft 1) ∧ plTaken 4 [] (dft 1) ∧ plTaken 3 [] (dft 1) ∧
    plTaken 5 [] (dft 1) ∧ plTaken 5 [] (dft 2) ∧ plTaken 6 [(234, 1, 1)] (dft 1) :=
  ⟨by decide +kernel, by decide +kernel, by decide +kernel, by decide +kernel, by decide +kernel, by decide +kernel, by decide +kernel, by decide +kernel⟩

theorem meets_PoolRequests : (plD [] (dft 1)).isStopped (12 * 4096) = false ∧ (plD [] (dft 1)).isStopped (4 * 4096) = false ∧
    (plD [] (dft 1)).readerSlot = some 1 ∧ (plD [] (dft 1)).readerOf 0 3 = some (0, ⟨0, 3, 1, 0, 1⟩) ∧ (plD [] (dft 1)).draftSlot = some 1 ∧
    (plD [] (dft 1)).draftOf 0 3 = some (0, dft 1) ∧ (dft 1).base = reg0.current ∧ (dft 2).base ≠ reg0.current := by decide +kernel

/-- A WRITE of one line makes one draft unit; a PUBLISH of an empty draft needs no unit. -/
theorem meets_PoolRequests_units :
    ((plD [] (dft 1)).writeBase reg0 (reg0.ver 1) (dft 1) 0 1).toOption.map (fun r => (r.1, r.2.2, (Dev.newUnits 3 r.2.1 (plD [] (dft 1))).isSome,
      (Dev.newUnits 3 r.2.1 ((plD [] (dft 1)).bump (rk 0x00700018 0) 64 0)).isSome)) = some ([], 0, true, true) ∧
    Dev.useUnits [] 0 [] (plD [] (dft 1)) = ((none, []), plD [] (dft 1)) ∧
    ((plD [] (dft 1)).prepPlan rp0 ver1 (dft 1)).news = [] ∧ ((plD [] (dft 1)).prepPlan rp0 ver1 (dft 1)).reads = [] ∧
    (Dev.newUnits 3 [] (plD [] (dft 1))).isSome = true ∧ (plD [] (dft 1)).poolRoom 0 = true := by decide +kernel

/-- A prepared PUBLISH, a GATHER of one row, and a DRAFT_ABORT of node 7's function 1. -/
def prepd : Dev := plD [] { dft 1 with pub := some (preq 5 [], { ver1 with num := 2 }, []) }
def abortW : Work := ⟨5, .qp 9, 0, 3, BitVec.ofNat 512 (pack [(0, 12, 7), (12, 5, 1)]), []⟩

theorem meets_PoolRequests_events : (mget prepd.shp.drafts 0).bind Draft.pub = some (preq 5 [], { ver1 with num := 2 }, []) ∧ prepd.trn.fenced = false ∧
    mget prepd.shp.regions 3 = some reg0 ∧ reg0.versions.length < 16 ∧ prepd.poolRoom 0 = true ∧
    (gatherGo [] (preq 6 [(234, 1, 1)]) rp0 ver1 ((plD [] (dft 1)).gatherRows ⟨[], []⟩ (preq 6 [(234, 1, 1)])) [] (plD [] (dft 1))).2.1 = none ∧
    (plD [abortW] (dft 1)).shp.queue = [abortW] ∧ abortW.kind = 5 ∧ (plD [abortW] (dft 1)).trn.fenced = false := by decide +kernel

/-! ### Management -/

/-- Where no envelope is in flight every command is the one asked for; and the command that an envelope in flight asks for. -/
theorem asked_of_none (d : Dev) (i : Instr) (h : d.pwr.inflight = []) : d.asked i = true := by
  unfold Dev.asked Dev.inflight
  rw [h]
  cases argVals i <;> rfl

def asking : Dev := { rdy with pwr := { rdy.pwr with inflight := [⟨0x0102, 0, 1, 7, 4096, 64, 1, true, by8 [5, 0, 0, 0, 0, 0, 0, 0]⟩] } }

theorem meets_CommandsAreAsked : asking.asked (.removeTenant 5) = true ∧ asking.asked (.removeTenant 6) = false := by decide +kernel


/-- An envelope of GET_CERT from issuer 0, without arguments; a MGMT entry for it; one whose length is wrong. -/
def envH : Nat := pack [(0, 32, 0x544D474D), (32, 8, 1), (48, 16, 0x0106), (128, 64, 1), (224, 32, 1344), (256, 32, 64)]
def envB : Bytes := leBytes 64 envH ++ List.replicate 1280 0
def mgmtE (len : Nat) : W512 := BitVec.ofNat 512 (pack [(0, 8, 8), (64, 64, 4096), (128, 32, len), (160, 32, 7)])
def man : Dev := { net with pwr := { net.pwr with issuers := [(0, (63, []))] } }

theorem meets_EnvelopesAreTaken : man.adminReady 0 = true ∧ man.chipReset = false ∧ man.isStopped (14 * 4096) = false ∧ man.bar0Open = true ∧
    man.pwr.inflight.length < 64 ∧ argsOk 0x0106 [] = true ∧ argsOk 0x0102 (by8 [0, 16]) = false ∧ aAop (mgmtE 1344) = 8 ∧ wf (mgmtE 1344) 192 320 = 0 ∧ aBase (mgmtE 1344) % 4096 = 0 ∧ aAop (mgmtE 8) = 8 ∧ wf (mgmtE 8) 192 320 = 0 ∧
    aBase (mgmtE 8) % 4096 = 0 ∧ (man.adminTake 0).envForm (aLen (mgmtE 1344)) (leNat (sliceB envB 0 64)) = true ∧
    (man.adminTake 0).envForm (aLen (mgmtE 8)) (leNat (sliceB envB 0 64)) = false := by decide +kernel

/-- Arguments of QP_CREATE for an unencrypted tenant QP; a key entry of the query buffer for tenant 5. -/
def qargs (cq : Nat) : QpArgs := ⟨10, 0, false, 5, 0, 1, 9, 2, 4, List.replicate 16 2, 1, 1, 0, 0, 0, 0, cq, 0, 0, 0⟩
def keyE : BitVec 256 := BitVec.ofNat 256 (pack [(0, 1, 1), (4, 4, 7), (24, 12, 5), (192, 64, 4096)])
/-- The node trusts endpoints 0 to 7; its links are in the map; QP 11 is an error QP, QP 12 an intake; ridge 3 exists; QP 13 is a peer's at node 7. -/
def netM : Dev := ({ net with
  links := [(2, { lnk 2 with mkind := 1 })]
  trn := { net.trn with qps := [(9, qp0), (11, { qp0 with state := 2 }), (12, { qp0 with type := 2 }), (13, { qp0 with type := 1, remote := 7 })]
                        ridges := [(3, ⟨9, 0, [1]⟩)] } } : Dev).setRegs [(rk 0x00E00080 31, 1), (rk 0x00E00080 16, 7), (rk 0x01000108 32, 16)]

theorem meets_TransportAndFenceCommands : netM.ready = true ∧ netM.admitted 5 0 = true ∧ netM.qpOk (qargs 16) = true ∧ netM.cachedQps < 16384 ∧
    (qargs 16).enc = false ∧ mget netM.trn.qps 9 = some qp0 ∧ netM.qpTune (List.replicate 16 2) 1 255 255 15 4 = true ∧
    mget netM.trn.qps 11 = some { qp0 with state := 2 } ∧ netM.keyOkCreate 0 keyE = true ∧ netM.keyOkCreate 15 keyE = true ∧ 1 < 2 ^ netM.reg (rk 0x00E00000 16) ∧
    (mget netM.trn.keys 1).isSome = true ∧ netM.qpType 12 = some 2 ∧ netM.qpType 9 = some 0 ∧ (mget netM.trn.ridges 3).isSome = true ∧
    (∀ c ∈ List.range 64, c < 2 ^ 12) ∧ (List.range 64).Nodup := by decide +kernel

theorem meets_TransportAndFenceCommands_fence : netM.trn.epoch ≤ 2 ^ 32 - 1 ∧
    netM.rcv.jq.length < (({ netM with trn := { netM.trn with epoch := 2 ^ 32 - 1, map := ([4095, 0].mergeSort (· ≤ ·)).eraseDups } } : Dev).journal
      { type := 10, epoch := 2 ^ 32 - 1, sub := 2 } []).rcv.jq.length ∧
    netM.rcv.jq.length < (Dev.fenceSelf netM (({ netM with trn := { netM.trn with epoch := 1, map := ([].mergeSort (· ≤ ·)).eraseDups, fenced := true } } : Dev).journal
      { type := 10, epoch := 1, sub := 1 } [])).rcv.jq.length ∧ netM.trn.epoch < 1 ∧ netM.trn.epoch ≠ 0xFFFFFFFF := by decide +kernel

/-- A home entry of tenant 5 in the directory, written by the runtime, and its image. -/
def dkey : BitVec 112 := homeKey (runId 3)
def dimg : W512 := BitVec.ofNat 512 (pack [(0, 112, dkey.toNat), (128, 112, 2 ^ 112 - 1), (256, 8, 7), (288, 96, 9)])
def dir1 : Dev := ({ net with dir := [(0, ⟨true, dkey, BitVec.ofNat 112 (2 ^ 112 - 1), 7, 9, true⟩)] } : Dev).setReg (rk 0x00A00000 32) 10

theorem meets_EgressAndDirectoryCommands : net.ready = true ∧ net.active 5 = true ∧ (∀ e ∈ net.tsh, e.1 ≠ 0 → ¬ (e.2.ten = 5 ∧ e.2.cls = 15)) ∧
    net.isStopped (8 * 4096) = false ∧ keyTen (BitVec.ofNat 112 (wf dimg 0 112)) = 5 ∧ dirOk dimg = true ∧ dir1.mgmtRoom 0x0221 8 = true ∧
    dir1.rtHome < dir1.reg (rk 0x00A00000 32) ∧ dir1.dirFree (keyClass (BitVec.ofNat 112 (wf dimg 0 112))) = some 1 ∧
    (mget dir1.dir 0).map (fun e => e.runtime) = some true ∧ (mget dir1.dir 0).map (fun e => e.valid) = some true ∧ dir1.mgmtRoom 0x0223 24 = true ∧
    (dir1.search dkey (dirCursor none)).1.1.map Prod.fst = some 0 ∧ dir1.mgmtRoom 0x0224 64 = true := by decide +kernel

/-- Pool commands: a new raw region 4 for tenant 5; region 3 exists. -/
theorem meets_PoolAndPlacementCommands_pool : (plD [] (dft 1)).ready = true ∧ (plD [] (dft 1)).admitted rp0.ten rp0.part = true ∧ rpOk rp0 = true ∧
    mget (plD [] (dft 1)).shp.regions 4 = none ∧ mget (plD [] (dft 1)).shp.regions 1023 = none ∧ (plD [] (dft 1)).poolLimit ≠ 0 ∧
    ((plD [] (dft 1)).version1 4 rp0).map (fun r => (r.1.num, ((({ r.2 with shp := { r.2.shp with regions := mset r.2.shp.regions 4 ⟨false, rp0, 1, [r.1]⟩ } } : Dev).seals
      (fun _ u => decide (u.region = 4))).poolRoom 0)))
      = some (1, true) ∧ mget (plD [] (dft 1)).shp.regions 3 = some reg0 ∧ reg0.deleting = false := by decide +kernel

/-- The tray, a QP to node 7, a pending page-run with its copy here, and a shadow that came from node 7. -/
def plcM (runs : List Run) : Dev := { plcD [] runs [] with trn := { net.trn with qps := [(9, qp0), (13, { qp0 with type := 1, remote := 7 })] } }

theorem meets_PoolAndPlacementCommands_placement : (plcM []).ready = true ∧ (plcM []).active 5 = true ∧ fld 254 (plcM []).myPos 1 = 0 ∧ fld 2 (plcM []).myPos 1 = 0 ∧
    (∀ i, i < 8 → (plcM []).tray i ≠ 4095) ∧ MWait.setMirror 5 ∉ (plcM []).pwr.waits ∧ (plcM []).trn.fenced = false ∧ ((plcM []).peerQp 7).isSome = true ∧
    (plcM []).fillOf 5 = none ∧
    (({ plcM [] with pwr := { (plcM []).pwr with waits := [MWait.fillSpare ⟨5, 7, 1⟩] } } : Dev).fillOf 5).isSome = true := by decide +kernel

theorem meets_PoolAndPlacementCommands_cases :
    (plcM [runIn 1 .pending (some copy0)]).run (runId 1) = some (runIn 1 .pending (some copy0)) ∧ (runIn 1 .pending (some copy0)).hstate = .pending ∧
    (plcM [runIn 1 .pending (some copy0)]).holdsData (runId 1) = true ∧ (runIn 1 .pending (some copy0)).epoch < 2 ^ 32 - 1 ∧
    ((plcM [runIn 1 .pending (some copy0)]).adopt (runId 1) (2 ^ 32 - 1)).isSome = true ∧
    ((plcM [runIn 1 .pending (some copy0)]).discardRun (runId 1)).isSome = true ∧
    (plcM [runIn 1 .shadow (some copy0)]).shadowed 5 7 = [(1, geoP)] ∧ (plcM [runIn 1 .shadow (some copy0)]).mgmtRoom 0x0206 16 = true ∧
    1 ≤ (plcM [runIn 1 .shadow (some copy0)]).ownFree ∧ (Dev.promoteAll 5 [(1, geoP)] (plcM [runIn 1 .shadow (some copy0)])).isSome = true := by decide +kernel

/-- The shard of node 7 is complete; an ORPHANED page-run whose page the ledger of an own and of a lodged slot names. -/
def orph (slot : Nat) : Dev := let d := plcM [runIn 0 .orphaned none]; { d with pgm := { d.pgm with seqs := [(slot, seqP)] } }

theorem meets_PoolAndPlacementCommands_more :
    ({ plcM [runIn 1 .shadow (some copy0)] with plc := { (plcM [runIn 1 .shadow (some copy0)]).plc with full := [(5, 7)] } } : Dev).plc.full.contains (5, 7) = true ∧
    (plcM [runIn 1 .shadow (some copy0)]).worn 5 7 = none ∧ (orph 1).run (runId 0) = some (runIn 0 .orphaned none) ∧ (orph 1).holdsData (runId 0) = true ∧
    (orph 1).pageOf (runId 0) = some (1, seqP, 0, ent0) ∧ (orph 1).lodging 1 = false ∧ ((orph 1).entryAway (runId 0) (some 7) false).isSome = true ∧
    (orph (2 ^ 19)).pageOf (runId 0) = some (2 ^ 19, seqP, 0, ent0) ∧ (orph (2 ^ 19)).lodging (2 ^ 19) = true ∧
    ((orph (2 ^ 19)).entryAway (runId 0) none true).isSome = true ∧ ((plcM [runIn 1 .pending (some copy0)]).publishCopy (runId 1)).isSome = true ∧
    (plD [] (dft 1)).trn.fenced = false ∧ net.isStopped (12 * 4096) = false ∧ net.ready = true := by decide +kernel

/-- A wrapped key of zeros under tenant 5's WRAP key. -/
def wrapped0 : Bytes := leBytes 40 598436913866453578287849913088605766626290807551494578696102567409619553293161426455784295900360

theorem meets_TenantsComeAndGo : rdy.ready = true ∧ (rdy.tenant 6).gen = 1 ∧ (rdy.tenant 6).state = 0 ∧ (List.replicate 1568 (0 : Byte)).length = 1568 ∧
    wrapped0.length = 40 ∧ rdy.active 5 = true ∧ rdy.isStopped (13 * 4096) = false ∧ rdy.sec.td = none ∧ rdy.sec.tdWait = [] ∧ rdy.awake = true ∧
    ({ rdy with sec := { rdy.sec with td := some ⟨5, 5, 4⟩ } } : Dev).residue = 0 ∧ rdy.mgmtRoom 0x0106 (pad8 rdy.sec.cert).length = true := by decide +kernel

theorem meets_TenantsComeAndGo_key : unwrapKey (rdy.tkey 5 "WRAP") wrapped0 = some (List.replicate 32 0) := by decide +kernel

theorem meets_EvidenceIsAnswered : rdy.ready = true ∧ (List.replicate 64 (0 : Byte)).length = 64 ∧ rdy.active 5 = true ∧
    rdy.mgmtRoom 0x0105 (6264 + 80 * (rdy.repEntries none).length) = true ∧ rdy.mgmtRoom 0x0105 (6264 + 80 * (rdy.repEntries (some 5)).length) = true ∧
    rdy.mgmtRoom 0x0106 (pad8 rdy.sec.cert).length = true ∧ rdy.dma.linkup = true ∧ rdy.sec.identity = true ∧
    mget rdy.dma.ides 255 = none ∧ rdy.dma.ides.length < 17 ∧ (mget rdy.dma.ides 2).map Ide.fn = some 1 := by decide +kernel

/-- The shortest program image, for slot 63 of tenant 5; a table of two symbols for slot 7, one an exponent and one the escape. -/
def spIm : Bytes := leBytes 720 (pack [(0, 8, 1), (8, 6, 63), (20, 12, 5), (32, 6, 1)])
def tblIm : Bytes := leBytes 560 (pack [(0, 8, 1), (8, 3, 7), (16, 8, 1), (24, 9, 2), (136, 8, 2), (272, 16, 0x101)])
def loaded : Dev := { net with atn := { net.atn with progs := [(63, ⟨1, spIm, []⟩)] }, cmp := [(7, ⟨1, tblIm, [], 0⟩)] }

theorem meets_LoadsAndImages : net.ready = true ∧ spCheck spIm net.admitted = none ∧ fld (leAt spIm 0 16) 8 6 = 63 ∧ mget net.atn.progs 63 = none ∧
    tblCheck tblIm (fun slot ef => net.cmp.any (fun e => decide (e.1 ≠ slot ∧ e.2.state = 1 ∧ tblEfmt e.2.image = ef ∧
        fld (leAt e.2.image 0 16) 14 1 = 1))) = none ∧ fld (leAt tblIm 0 16) 8 3 = 7 ∧ mget net.cmp 7 = none ∧
    (mget loaded.atn.progs 63).map Prog.state = some 1 ∧ (mget loaded.cmp 7).map Tbl.state = some 1 ∧ net.pwr.norOp = [] := by decide +kernel

/-- A tensor region of the projection's layer, FP16 raw; a binding of layers 0 to 0 on it. -/
def projReg : Region := ⟨false, { rp0 with n := 2 ^ 20 }, 1, [ver1]⟩
def projD (ps : List Proj) : Dev := { net with shp := { Shp.reset with regions := [(3, projReg)], readers := [(0, ⟨0, 3, 1, 0, 31⟩)], projs := ps } }
def pr0 : Proj := ⟨5, 0, 0, 1, 0, 3, 3, 0, true⟩

theorem meets_LoadsAndImages_projection : (projD []).active 5 = true ∧ (projD []).projFits 5 0 1 0 3 3 = true ∧ (projD []).shp.projs = [] ∧
    (projD []).readerSlot = some 1 ∧ (mget (projD []).shp.regions 3).isSome = true ∧
    (projD [pr0]).shp.projs.find? (fun p => p.live && decide (p.ten = 5 ∧ p.first = 0 ∧ p.nlm1 = 0)) = some pr0 ∧ (mget (projD [pr0]).shp.readers pr0.reader).isSome = true := by
  decide +kernel

theorem meets_NotReadyTurnsCommandsAway : Dev.reset.ready = false := by decide +kernel

/-! ### The machine as a whole -/

/-- A node whose journal queue is full and whose ports' first entry waits; and the same after one more event of that port. -/
def crowd (n : Nat) : Dev := { rdy with rcv := { rdy.rcv with jq := List.replicate n jent } }

theorem meets_StepRunsFrontCommand : (at_ rdy).pending = [] ∧ (crowd 65).portHeld (crowd 66) = true ∧ (crowd 64).portHeld (crowd 65) = false ∧
    rdy.rcv.jq.length < 64 := by decide +kernel

theorem meets_LevelsStayLegal : State.reset.phys.levelsOk ∧ step State.reset = .next State.reset := by
  refine ⟨?_, rfl⟩
  unfold Phys.levelsOk; decide +kernel

theorem meets_MemoriesStayCanonical : State.reset.memoriesOk ∧ step State.reset = .next State.reset := by
  refine ⟨?_, rfl⟩
  unfold State.memoriesOk; decide +kernel

theorem meets_ScanModeFollowsNodeReset : State.reset.phys.scan = State.reset.phys ∧ step State.reset = .next State.reset := ⟨by decide +kernel, rfl⟩

theorem meets_OnlyBadRailsStop : Instr.tenon ≠ .pwrokRise false := by decide

theorem meets_MemoriesChangeOnlyByTheirCommands : ∃ t, exec (.bypass 0xFF) State.reset = .next t := ⟨_, rfl⟩

theorem meets_AfterACalmCommand : Dev.reset.calm := by
  refine ⟨by decide, by decide, ?_, ?_, rfl, rfl, ?_, by decide, by decide, fun _ => rfl, ?_, by decide, rfl, rfl, by decide⟩
  · intro w hw; simp [Dev.reset, Pgm.reset] at hw
  · intro w hw; simp [Dev.reset, Pwr.reset] at hw
  · intro w hw; simp [Dev.reset, Shp.reset] at hw
  · intro w hw; simp [Dev.reset, Atn.reset] at hw

theorem meets_GranuleTags_bytes : ([7] : Bytes) ≠ [] ∧ risingFrom none ([(0, (5, 3)), (1, (6, 1))] : NMap (Nat × Nat)) = true := by decide

theorem meets_TheFirstConditionIsReported : firstCond false [(.shape, 1), (.fenced, 0)] = some (.fenced, 0) ∧ firstCond true [] = none := by decide

theorem meets_EncryptedBytesDecrypt : ∃ tag : Bytes, tag ≠ (gcmEncrypt [] [] [] [1]).2 :=
  ⟨0 :: (gcmEncrypt [] [] [] [1]).2, fun h => by simpa using congrArg List.length h⟩

theorem meets_HandlesAndCodesReadBack : 2 ^ 22 - 1 < 2 ^ 22 ∧ 2 ^ 12 - 1 < 2 ^ 12 ∧ 2 ^ 14 - 1 < 2 ^ 14 := by decide

/-! ### Ill-formed commands: one for each check, and two that pass -/

theorem ill_access : (Instr.registerWrite ⟨.bar0, 0, 16, 0⟩).ill = some .access := by decide
theorem ill_link : (Instr.linkLoss 32).ill = some .link := by decide
theorem ill_flit : (Instr.flitReceive 0 [] ⟨true, 0, 0⟩).ill = some .flit := by decide
theorem ill_stack : (Instr.frameOrder 8 []).ill = some .stack := by decide
theorem ill_bank : (Instr.refreshDue 0 0 0 4).ill = some .bank := by decide
theorem ill_cluster : (Instr.clusterLevelChange 24 0).ill = some .cluster := by decide
theorem ill_function : (Instr.functionEnable ⟨17, false⟩).ill = some .function := by decide
theorem ill_queue : (Instr.writeImmCompletion 4096).ill = some .queue := by decide
theorem ill_channel : (Instr.skip ⟨64, none⟩).ill = some .channel := by decide
theorem ill_stream : (Instr.ideKm 256 0 []).ill = some .stream := by decide
theorem ill_aperture : (Instr.queryApertureWrite 1 (2 ^ 64) [0] false).ill = some .aperture := by decide
theorem ill_qpn : (Instr.qpClear (2 ^ 20)).ill = some .qpn := by decide
theorem ill_msn : (Instr.write 0 (2 ^ 24)).ill = some .msn := by decide
theorem ill_class : (Instr.qpModify 0 [] 0 0 0 16 0).ill = some .class_ := by decide
theorem ill_keyIndex : (Instr.keyDestroy (2 ^ 24)).ill = some .keyIndex := by decide
theorem ill_tenant : (Instr.removeTenant 4096).ill = some .tenant := by decide
theorem ill_part : (Instr.partitionReset 16 true).ill = some .part := by decide
theorem ill_node : (Instr.abortOwner 4096).ill = some .node := by decide
theorem ill_run : (Instr.discardPending ⟨4096, 0, 0, 0, 0⟩).ill = some .run := by decide
theorem ill_epoch : (Instr.unfence (2 ^ 32)).ill = some .epoch := by decide
theorem ill_slot : (Instr.trim (2 ^ 22)).ill = some .slot := by decide
theorem ill_tile : (Instr.offer [⟨2 ^ 33, .corrected⟩]).ill = some .tile := by decide
theorem ill_region : (Instr.deleteRegion 1024).ill = some .region := by decide
theorem ill_entryIndex : (Instr.dirRead 65536).ill = some .entryIndex := by decide
theorem ill_unit : (Instr.engineReset 65536 true).ill = some .unit := by decide
theorem ill_programSlot : (Instr.unloadProgram 64).ill = some .programSlot := by decide
theorem ill_tableSlot : (Instr.unloadTable 8).ill = some .tableSlot := by decide
theorem ill_length : (Instr.setFabricKey [] []).ill = some .length := by decide
theorem ill_record : (Instr.rcvRecRelease 256).ill = some .record := by decide
theorem ill_instruction : (Instr.bypass 0).ill = some .instruction := by decide
theorem wellFormed_last : (Instr.qpClear (2 ^ 20 - 1)).ill = none ∧ (Instr.rcvRecRelease 255).ill = none := by decide

/-! ### Values that the manual and the standards it names give -/

/-- What a command leaves. -/
def ran (c : Instr) (s : State) : Option State := match exec c s with
  | .next t => some t
  | _ => none

/-- FIPS 197, appendix C.3. -/
theorem test_aes256 : aesBlock (aesKeys (by8 (List.range 32))) (by8 ((List.range 16).map (17 * ·))) =
    by8 [0x8e, 0xa2, 0xb7, 0xca, 0x51, 0x67, 0x45, 0xbf, 0xea, 0xfc, 0x49, 0x90, 0x4b, 0x49, 0x60, 0x89] := by decide +kernel

/-- RFC 3394, section 4.6. -/
theorem test_key_unwrap : kwUnwrap (by8 (List.range 32))
    (beBytes 40 0x28C9F404C4B810F4CBCCB35CFB87F8263F5786E2D80ED326CBC7F0E71A99F43BFB988B9B7A02DD21) =
    some (by8 ((List.range 16).map (17 * ·) ++ List.range 16)) := by decide +kernel

/-- FIPS 202: SHAKE256 of nothing. -/
theorem test_shake256 : (shake256 64 []).take 8 = by8 [0x46, 0xb9, 0xdd, 0x2b, 0x0b, 0xa8, 0x8d, 0x13] := by decide +kernel

/-- RFC 3720, appendix B.4: 32 bytes of zeros. -/
theorem test_crc32c : crc32c (List.replicate 32 0) = 0x8A9136AA := by decide +kernel

/-- 00_scope.md: a driver that reads TOP_CAP0 gets 0x00A00C1820104008. -/
theorem test_top_cap0 : (ran (.rcRegisterRead .bar0 0x00000100 64) (at_ rdy)).bind (fun t => t.dev.out.getLast?) =
    some (.regValue 0x00A00C1820104008) := by decide +kernel

/-- 02_attention_contract.md: words 0 and 1 of the tenon of Table 1.5. -/
theorem test_tenon_fields : (let t := parseTn (BitVec.ofNat 512 (0x00400208_00F80029 <<< 64 ||| 0x000C1700_1C0732A1))
    (t.ten, t.part, t.seq, t.layer, t.hgrp, t.shape) = (0x2A1, 3, 0x000C17001C07, 41, 0, 8) ∧
    (t.kvf, t.kvn, t.gm1, t.qtm1, t.kvfmt, t.qfmt) = (0, 7, 3, 0, 2, 0) ∧ (t.ofmt, t.qinl, t.sprog) = (1, false, 0)) ∧
    (hSlot 0x000C17001C07, hNode 0x000C17001C07, hGen 0x000C17001C07) = (0x01C07, 0x05C, 3) := by decide +kernel

/-- Table 2.9: row 5 of nodes A and B, merged, and its BF16 elements. -/
theorem test_merge : mergePart ⟨0x40D00000, 0x439BC000, [0x422B0000, 0x3F810000], 2048⟩ ⟨0x41080000, 0x42C08000, [0xC1580000, 0x43960000], 2048⟩ =
    .ok ⟨0x41080000, 0x432E2000, [0xC0340000, 0x43962040], 4096⟩ := by rfl

/-- Table 3.5: the soft-capping program in slot 7; a score of 50.0 gives 35.468, and of −50.0 its negative. -/
def softCap : Bytes := leBytes 16 0x0000000500034701 ++ [0x000002F0, 0x00010330, 0x000B0343, 0x00006B4C, 0x000C6803].flatMap (leBytes 4) ++
  List.replicate 172 0 ++ leBytes 4 0x3CBD4680 ++ leBytes 4 0x422D1F97 ++ List.replicate 504 0
theorem test_score_program : spCheck softCap (fun _ _ => false) = none ∧
    ((spScore softCap 5 [0x42480000]).toOption.map (fun r => decide (0x420DDEB8 ≤ r ∧ r ≤ 0x420DDFBE))) = some true ∧
    ((spScore softCap 5 [0xC2480000]).toOption.map (fun r => decide (0xC20DDEB8 ≤ r ∧ r ≤ 0xC20DDFBE))) = some true := by decide +kernel

/-- 06_exponent_coding.md, Tables 6.5 and 6.6: slot 2's table, the coded block of 51 bytes and its 64 elements. -/
def slot2 : Bytes := leBytes 16 0x06175A01 ++ by8 ([0, 1, 1, 1, 1, 2] ++ List.replicate 10 0) ++
  [0x0007, 0x0008, 0x0006, 0x0009, 0x0005, 0x0101].flatMap (leBytes 2) ++ List.replicate 516 0
def block51 : Bytes := beBytes 51 0xE96206_4CFD42DC989E5310E591A2C8ED3CB260_396D02F4A7095B614E28D371B5F14E82_6AC30F5193D072E41B50AC6F2795834E
def elems64 : Bytes := beBytes 64 0x3BC13EB53852C73C_BA3F40B14DBB4639_34BE3AC0BD2B3F41_C33DB7393CC6B83A_3ECABC4330BF4539_B933C5383F42B63C_41BB3D48B2C43EAF_3A47B13DC03B34BE
theorem test_decode_block : tblCheck slot2 (fun _ _ => false) = none ∧
    (ecxDecBlock (fun i => if i = 2 then some slot2 else none) 3 block51).toOption = some (elems64.map BitVec.toNat, 51) := by decide +kernel
theorem test_encode_block : ecxEncBlock 3 (some (2, 0x17, tblCodes slot2)) (elems64.map BitVec.toNat) = block51 := by decide +kernel

/-- 09_directory_cam.md, Table 9.7: page 17's key, the range entry at 0x0040 and the node's entry at 0x1203, and three searches. -/
def page17 : RunId := ⟨0x2A1, 0x000C17001C07, 41, 0, 17⟩
def lent : NMap DirEnt := [(0x0040, ⟨true, homeKey { page17 with page := 0 }, 0xFFFFFFF03FFFFFFFFFFFFFFFFFFF, 0x40, 0x05E, true⟩),
                           (0x1203, ⟨true, homeKey page17, 0xFFFFFFFFFFFFFFFFFFFFFFFFFFFF, 0x80, 0x305C, false⟩)]
theorem test_directory : homeKey page17 = 0x00000004400A400305C00701CA84 ∧
    (let r := dirSearch lent (homeKey page17) 0; (dirCursor r.1, r.2) = (0x01801203, true)) ∧
    (let r := dirSearch lent (homeKey page17) 0x01801203; (dirCursor r.1, r.2) = (0x01400040, false)) ∧
    (dirSearch lent (homeKey page17) 0x01400040).1 = none ∧
    (let r := dirSearch lent (homeKey { page17 with page := 0 }) 0; dirCursor r.1 = 0x01400040 ∧ r.1.map (fun e => resHome e.2) = some 0x05E) := by decide +kernel

/-- 15_startup_power_pins.md: the header words of the SET_PLACEMENT envelope, which issuer 1 with right 1 signs; the node answers no
earlier refusal than the signature's. -/
def placeH : Nat := 0x02010101544D474D + 0x6E2190D40000005C * 2 ^ 64 + 0x138 * 2 ^ 128 + 0x0000058000000008 * 2 ^ 192 + 0x10 * 2 ^ 256
def node5C : Dev := ({ rdy with
  pwr := { rdy.pwr with node := 0x05C, issuers := [(1, (2, []))] }, sec := { rdy.sec with bootid := 0x6E2190D4 } } : Dev).setReg (cseqKey 1) 0x137
theorem test_envelope : node5C.envForm 1352 placeH = true ∧ (fld placeH 48 16, fld placeH 128 64, fld placeH 224 32, fld placeH 256 32) = (0x0201, 0x138, 1408, 16) ∧
    mgmtRight 0x0201 = some 1 := by decide +kernel

/-- R393: the arguments of that SET_PLACEMENT: tenant 0x2A1, a quota of 0x0300_0000 KiB, T3 alone, no peer. -/
theorem test_arguments : argBytes 0x0201 [0x2A1, 0x03000000, 4, 0] [] = by8 [0xA1, 0x02, 0, 0, 0, 0x03, 4, 0] := by decide +kernel

/-! ### Single commands -/

/-- R400: power rises with a rail out of regulation. -/
theorem test_bad_rails : exec (.pwrokRise false) State.reset = .fault .railsVoid := rfl

/-- R404: EXTEST selects its mode at once, and has it in force only while NODE_RST# is low; IDCODE puts 32 bits out. -/
theorem test_extest : (ran .extest (pins rdy false true)).map (fun t => t.phys.jmode) = some .extest ∧
    (ran .extest (pins rdy false false)).map (fun t => t.phys.jmode) ≠ some .extest := by decide +kernel

/-- Table 4.6 and Table 15.9: a die above 85 °C enters level 1, at 85 °C it stays; so a cluster at 100 °C. -/
theorem test_levels : (dieMeasure none 86).level = 1 ∧ (dieMeasure none 85).level = 0 ∧ (clMeasure none 101).level = 1 ∧ (clMeasure none 100).level = 0 ∧
    ((ran (.regulatorLevelChange 0 0 86) (at_ rdy)).bind (fun t => mget t.phys.dies 0)).map DieTherm.level = some 1 := by decide +kernel

/-- R394: a management command has no effect before the node is ready. -/
theorem test_not_ready : (ran .getCert State.reset).map (fun t => t.dev.out) = some [] := by decide +kernel

/-- R305: an SQ tail doorbell on a live queue. -/
theorem test_sq_doorbell : (ran (.sqTailDoorbell 1 0 ⟨5, false⟩) (at_ rdy)).bind (fun t => (mget (t.dev.fn 1).sqs 0).map Sq.tail) = some 5 := by decide +kernel

/-- A WRITE of a message whose payload is in: the eight bytes lie at the place of the query buffer that its header names, with the tenant's tag. -/
theorem test_write : (ran (.write 9 0) (at_ (withQp qpW))).map (fun t => (t.qb.read 0 8, mget t.qb.tags 0)) = some (pay8, some (5, 3)) := by decide +kernel

/-- R254: a flit that the FEC could not mend asks for a replay. -/
theorem test_flit : (ran (.flitReceive 2 (flit 0) ⟨false, 0, 1⟩) (at_ net)).bind (fun t => (mget t.dev.links 2).map Link.nak) = some true := by decide +kernel

/-- SET_PLACEMENT and REMOVE_TENANT on tenant 5. -/
theorem test_tenant : ((ran (.setPlacement 5 100 4 0) (at_ rdy)).bind (fun t => mget t.dev.sec.tenants 5)).map (fun x => (x.quota, x.tiers, x.peers)) = some (100, 4, 0) ∧
    ((ran (.removeTenant 5) (at_ rdy)).bind (fun t => mget t.dev.sec.tenants 5)).map (fun x => (x.state, x.gen)) = some (2, 4) := by decide +kernel

/-- A step takes the command at the front and leaves the rest. -/
theorem test_step : (match step { at_ rdy with pending := [.clamp, .idcode] } with
    | .next t => t.pending
    | _ => []) = [.idcode] := by decide +kernel

end Sys2Proof.Slice0Tests
end

section
/-! SUPPORT. The order of R14: `firstCond` finds a condition of least rank. -/

namespace Sys2Proof.Machine

@[simp] theorem firstCond_nil (x : Bool) : firstCond x [] = none := rfl

theorem firstCond_cons_none {x : Bool} {r : List (St × Nat)} (h : firstCond x r = none) (c : St × Nat) :
    firstCond x (c :: r) = some c := by
  simp [firstCond, h]

theorem firstCond_cons_some {x : Bool} {r : List (St × Nat)} {e : St × Nat} (h : firstCond x r = some e) (c : St × Nat) :
    firstCond x (c :: r) = some (if stRank x c.1 ≤ stRank x e.1 then c else e) := by
  simp only [firstCond, h]
  split <;> rfl

theorem firstCond_eq_none_iff (x : Bool) (l : List (St × Nat)) : firstCond x l = none ↔ l = [] := by
  cases l with
  | nil => simp
  | cons c r =>
    cases h : firstCond x r with
    | none => simp [firstCond_cons_none h]
    | some e => simp [firstCond_cons_some h]

/-- The condition kept is one of those given, and none of them comes before it. -/
theorem firstCond_least {x : Bool} {l : List (St × Nat)} {c : St × Nat} (h : firstCond x l = some c) :
    c ∈ l ∧ ∀ e ∈ l, stRank x c.1 ≤ stRank x e.1 := by
  induction l generalizing c with
  | nil => cases h
  | cons a r ih =>
    rw [List.forall_mem_cons]
    cases hr : firstCond x r with
    | none =>
      obtain rfl : a = c := by simpa [firstCond_cons_none hr] using h
      obtain rfl : r = [] := (firstCond_eq_none_iff x r).mp hr
      simp
    | some b =>
      obtain ⟨hmem, hle⟩ := ih hr
      rw [firstCond_cons_some hr, Option.some.injEq] at h
      by_cases hab : stRank x a.1 ≤ stRank x b.1
      · obtain rfl : a = c := by simpa [hab] using h
        exact ⟨by simp, Nat.le_refl _, fun e he => Nat.le_trans hab (hle e he)⟩
      · obtain rfl : b = c := by simpa [hab] using h
        exact ⟨by simp [hmem], by omega, hle⟩

end Sys2Proof.Machine
end

section
/-! The condition reported (R14). -/

namespace Sys2Proof.Machine

/-- Settles O56: by induction on the conditions, the one that `firstCond` keeps is among them and none comes before it; the two orders
are the list of R14 with its fourth and with its twelfth place. -/
theorem theFirstConditionIsReported : Obligations.TheFirstConditionIsReported :=
  ⟨firstCond_eq_none_iff, fun _ _ _ => firstCond_least, by decide, by decide⟩

end Sys2Proof.Machine
end

section
/-! SUPPORT. Lists of register fields set at once, and what a read of BAR0 does (R12, Table 0.10). -/

namespace Sys2Proof.Machine

/-- A field whose entries in the list all carry one value takes it. -/
theorem Dev.reg_setRegs_mem (d : Dev) (l : List (Nat × Nat)) (k v : Nat) (hk : ∃ e ∈ l, e.1 = k) (hv : ∀ e ∈ l, e.1 = k → e.2 = v) :
    (d.setRegs l).reg k = v := by
  induction l generalizing d with
  | nil => simp at hk
  | cons e r ih =>
    change ((d.setReg e.1 e.2).setRegs r).reg k = v
    by_cases hr : ∃ x ∈ r, x.1 = k
    · exact ih _ hr (fun x hx => hv x (by simp [hx]))
    · have hek : e.1 = k := by simpa [hr] using hk
      rw [Dev.reg_setRegs_out _ _ _ (fun x hx hxk => hr ⟨x, hx, hxk⟩), hek, Dev.reg_setReg_self]
      exact hv e (by simp) hek

theorem Dev.setRegs_onlyIn (d : Dev) (l : List (Nat × Nat)) : d.onlyIn [.regs] (d.setRegs l) := by
  intro b hb
  cases b <;> simp_all [Blk.same]

theorem Dev.emit_onlyIn (d : Dev) (o : Output) : d.onlyIn [.out] (d.emit o) := by
  intro b hb
  cases b <;> simp_all [Blk.same, Dev.emit]

@[simp] theorem Dev.emit_reg (d : Dev) (o : Output) (k : Nat) : (d.emit o).reg k = d.reg k := rfl

theorem exec_rcRegisterRead (w : Window) (off width : Nat) (s : State) : exec (.rcRegisterRead w off width) s = .next (regRead w off width s) := rfl

/-- A read that BAR0 answers: the value before the read goes out, after what the read clears. -/
theorem regRead_bar0 {s : State} {off width : Nat} (hs : s.dev.pwr.state ≠ .starting) (ha : accOk off width = true) :
    regRead .bar0 off width s = { s.clears off width with
      dev := (s.clears off width).dev.emit (.regValue (BitVec.ofNat 64 (halfOf (s.word (off / 8 * 8)) off width))) } := by
  simp [regRead, hs, ha]

/-- A 64-bit access takes the whole of its word. -/
theorem ofNat_halfOf_word (w : Nat) {off : Nat} (h : off % 8 = 0) : BitVec.ofNat 64 (halfOf w off 64) = BitVec.ofNat 64 w := by
  apply BitVec.eq_of_toNat_eq
  simp [halfOf, fld, h]

/-- A field of `rcFields` belongs to a row of Table 0.10's registers that names the offset. -/
theorem exists_row_of_rcFields {off : Nat} (h : rcFields off ≠ []) :
    ∃ r ∈ rcRegs, r.1 ≤ off ∧ (off - r.1) % r.2.1 = 0 ∧ (off - r.1) / r.2.1 < r.2.2.1 := by
  obtain ⟨lo, hlo⟩ := List.exists_mem_of_ne_nil _ h
  simp only [rcFields, List.mem_flatMap, List.mem_filter] at hlo
  obtain ⟨r, ⟨hr, hn⟩, -⟩ := hlo
  refine ⟨r, hr, ?_⟩
  by_cases hc : r.1 ≤ off ∧ (off - r.1) % r.2.1 = 0 ∧ (off - r.1) / r.2.1 < r.2.2.1
  · exact hc
  · rw [nth, if_neg hc] at hn
    cases hn

/-- A row of registers lies apart from the temperature registers of the dies and of the main die, whose PEAK a 32-bit read restarts:
it is a register of every bank block below them, or a row of other blocks. -/
def apartFromPeaks (base step n : Nat) : Bool :=
  decide ((0x00400000 ≤ base ∧ base < 0x00400040 ∧ step = 0x100) ∨
    (0 < step ∧ (base + n * step ≤ 0x00400000 ∨ (0x00400800 ≤ base ∧ (base + n * step ≤ 0x01300048 ∨ 0x01300050 ≤ base)))))

theorem rcRegs_apartFromPeaks : ∀ r ∈ rcRegs, apartFromPeaks r.1 r.2.1 r.2.2.1 = true := by decide

/-- A read of a word that such a row names restarts no PEAK. -/
theorem Phys.clearPeak_of_apart (p : Phys) {off base step n : Nat} (hap : apartFromPeaks base step n = true) (hb : base ≤ off / 8 * 8)
    (hm : (off / 8 * 8 - base) % step = 0) (hn : (off / 8 * 8 - base) / step < n) : p.clearPeak off = p := by
  have hfar : off ≠ 0x01300048 ∧ ¬ (0x00400000 ≤ off ∧ off < 0x00400800 ∧ 0x40 ≤ (off - 0x00400000) % 0x100 ∧ (off - 0x00400000) % 0x100 < 0x80) := by
    simp only [apartFromPeaks, decide_eq_true_eq] at hap
    rcases hap with ⟨hlo, hhi, rfl⟩ | ⟨hst, hap⟩
    · omega
    · rw [Nat.div_lt_iff_lt_mul hst] at hn
      omega
  simp [Phys.clearPeak, hfar.1, hfar.2]

/-- The RC registers are not the 32-bit registers with a PEAK field (Table 0.10). -/
theorem Phys.clearPeak_of_rcFields (p : Phys) {off : Nat} (h : rcFields (off / 8 * 8) ≠ []) : p.clearPeak off = p := by
  obtain ⟨r, hr, hb, hm, hn⟩ := exists_row_of_rcFields h
  exact p.clearPeak_of_apart (rcRegs_apartFromPeaks r hr) hb hm hn

theorem State.clears_whole (s : State) (off : Nat) :
    s.clears off 64 = { s with dev := s.dev.setRegs ((rcFields off).map (fun lo => (rk off lo, 0))) } := rfl

theorem State.clears_half (s : State) {off : Nat} (h : rcFields (off / 8 * 8) ≠ []) : s.clears off 32 = s := by
  simp [State.clears, Phys.clearPeak_of_rcFields s.phys h]

/-- The fields that a 64-bit read clears hold 0 after it. -/
theorem Dev.reg_clear_mem (d : Dev) (off : Nat) (l : List Nat) {lo : Nat} (h : lo ∈ l) :
    (d.setRegs (l.map (fun lo => (rk off lo, 0)))).reg (rk off lo) = 0 :=
  d.reg_setRegs_mem _ _ _ ⟨_, List.mem_map_of_mem h, rfl⟩ (by simp)

/-- Every other field stays. -/
theorem Dev.reg_clear_out (d : Dev) (off : Nat) (l : List Nat) {k : Nat} (h : ∀ lo ∈ l, rk off lo ≠ k) :
    (d.setRegs (l.map (fun lo => (rk off lo, 0)))).reg k = d.reg k :=
  d.reg_setRegs_out _ _ (by simpa using h)

end Sys2Proof.Machine
end

section
/-! RC_REGISTER_READ on BAR0 (R12). -/

namespace Sys2Proof.Machine

theorem rcRegisterRead_whole (s : State) (off : Nat) (hs : s.dev.pwr.state ≠ .starting) (ho : off % 8 = 0) :
    exec (.rcRegisterRead .bar0 off 64) s = .next { s with
      dev := (s.dev.setRegs ((rcFields off).map (fun lo => (rk off lo, 0)))).emit (.regValue (BitVec.ofNat 64 (s.word off))) } := by
  rw [exec_rcRegisterRead, regRead_bar0 hs (by simp [accOk, ho]), ofNat_halfOf_word _ ho, State.clears_whole,
    show off / 8 * 8 = off by omega]

theorem rcRegisterRead_half (s : State) (off : Nat) (hs : s.dev.pwr.state ≠ .starting) (ho : off % 4 = 0) (hrc : rcFields (off / 8 * 8) ≠ []) :
    exec (.rcRegisterRead .bar0 off 32) s =
      .next { s with dev := s.dev.emit (.regValue (BitVec.ofNat 64 (fld (s.word (off / 8 * 8)) (8 * (off % 8)) 32))) } := by
  rw [exec_rcRegisterRead, regRead_bar0 hs (by simp [accOk, ho]), State.clears_half s hrc, halfOf]

/-- Settles O3: a 64-bit read sets the RC fields of its register to 0 after the value is taken, and a 32-bit read of a half meets no PEAK,
since no 64-bit RC register is one of the 32-bit temperature registers. -/
theorem rcReadReturnsAndClears : Obligations.RcReadReturnsAndClears := by
  refine ⟨fun s off hs ho => ⟨_, rcRegisterRead_whole s off hs ho, ?_, fun lo hlo => ?_, fun k hk => ?_, ?_, rfl, rfl, rfl, rfl⟩, rcRegisterRead_half⟩
  · simp
  · exact s.dev.reg_clear_mem off (rcFields off) hlo
  · exact s.dev.reg_clear_out off (rcFields off) hk
  · exact Dev.onlyIn_trans (s.dev.setRegs_onlyIn _) (Dev.emit_onlyIn _ _)

end Sys2Proof.Machine
end

section
/-! SUPPORT. The query buffer and its granule tags (R36 to R38): a map whose keys rise, filtered; what a placement and a teardown's clear
leave in each granule. -/

namespace Sys2Proof.Machine

variable {α : Type}

/-! ### Filtered maps -/

theorem mget_none_of_rising {m : NMap α} {k : Nat} (h : risingFrom (some k) m = true) : mget m k = none := by
  induction m with
  | nil => rfl
  | cons e r ih =>
    obtain ⟨hki, hr⟩ := (risingFrom_cons _ _ _ _).mp h
    have hlt : k < e.1 := hki
    rw [mget, if_neg (by omega)]
    exact ih (risingFrom_weaken hr (fun _ => Nat.lt_trans hlt))

/-- Where keys rise, no entry is hidden behind another. -/
theorem mem_iff_mget {p : Option Nat} {m : NMap α} (h : risingFrom p m = true) (k : Nat) (v : α) : (k, v) ∈ m ↔ mget m k = some v := by
  induction m generalizing p with
  | nil => simp
  | cons e r ih =>
    obtain ⟨i, u⟩ := e
    obtain ⟨-, hr⟩ := (risingFrom_cons _ _ _ _).mp h
    by_cases hik : i = k
    · subst hik
      have hout : (i, v) ∉ r := by simp [ih hr, mget_none_of_rising hr]
      simp [mget, hout, eq_comm]
    · simp [mget, hik, Ne.symm hik, ih hr]

theorem mget_filter {p : Option Nat} {m : NMap α} (h : risingFrom p m = true) (f : Nat × α → Bool) (k : Nat) :
    mget (m.filter f) k = (mget m k).filter (fun v => f (k, v)) := by
  ext v
  rw [← mem_iff_mget (risingFrom_filter m p f h), List.mem_filter, mem_iff_mget h, Option.filter_eq_some_iff]

/-! ### Placing -/

theorem mget_tagGranules (ten gen n g : Nat) (m : NMap (Nat × Nat)) (k : Nat) :
    mget (tagGranules ten gen n g m) k = if g ≤ k ∧ k < g + n then some (ten, gen) else mget m k := by
  induction n generalizing g m with
  | zero => rw [tagGranules, if_neg (by omega)]
  | succ n ih =>
    rw [tagGranules, ih, mget_mset]
    by_cases hk : k = g
    · simp [hk]
    · rw [if_neg hk]
      exact ite_congr (propext (by omega)) (fun _ => rfl) (fun _ => rfl)

theorem QBuf.place_of_ne_nil (q : QBuf) (a ten gen : Nat) {bs : Bytes} (h : bs ≠ []) :
    q.place a ten gen bs = ⟨memWrite sramByte q.mem a bs, tagGranules ten gen ((a + bs.length - 1) / 64 - a / 64 + 1) (a / 64) q.tags⟩ := by
  simp [QBuf.place, h]

theorem QBuf.mget_tags_place (q : QBuf) (a ten gen : Nat) {bs : Bytes} (h : bs ≠ []) (g : Nat) :
    mget (q.place a ten gen bs).tags g = if a / 64 ≤ g ∧ g ≤ (a + bs.length - 1) / 64 then some (ten, gen) else mget q.tags g := by
  have hlen := List.length_pos_iff.mpr h
  have hle : a / 64 ≤ (a + bs.length - 1) / 64 := Nat.div_le_div_right (by omega)
  rw [q.place_of_ne_nil a ten gen h, mget_tagGranules]
  exact ite_congr (propext (by omega)) (fun _ => rfl) (fun _ => rfl)

/-! ### The clear of a teardown -/

theorem memGet_memWrite_replicate (d : Byte) (m : Memory) (a n : Nat) (b : Byte) (j : Nat) :
    memGet d (memWrite d m a (List.replicate n b)) j = if a ≤ j ∧ j < a + n then b else memGet d m j := by
  induction n generalizing m a with
  | zero => rw [List.replicate_zero, memWrite, if_neg (by omega)]
  | succ n ih =>
    rw [List.replicate_succ, memWrite, ih]
    by_cases hj : j = a
    · subst hj
      simp
    · rw [memGet_memSet_ne d m a j b hj]
      exact ite_congr (propext (by omega)) (fun _ => rfl) (fun _ => rfl)

/-- Granules zero-filled one after another. -/
theorem memGet_zeroGranules (gs : List Nat) (m : Memory) (j : Nat) :
    memGet sramByte (gs.foldl (fun m g => memWrite sramByte m (64 * g) (List.replicate 64 0)) m) j =
      if j / 64 ∈ gs then 0 else memGet sramByte m j := by
  induction gs generalizing m with
  | nil => simp
  | cons g r ih =>
    rw [List.foldl_cons, ih, memGet_memWrite_replicate]
    have hin : 64 * g ≤ j ∧ j < 64 * g + 64 ↔ j / 64 = g := by omega
    by_cases hg : j / 64 = g <;> simp [hin, hg]

/-- A granule is cleared exactly when its tag is one of those named. -/
theorem QBuf.memGet_clear {q : QBuf} (h : risingFrom none q.tags = true) (mine : Nat → Bool) (j : Nat) :
    memGet sramByte (q.clear mine).mem j = if (mget q.tags (j / 64)).any (fun t => mine t.1) then 0 else memGet sramByte q.mem j := by
  rw [QBuf.clear, memGet_zeroGranules]
  refine ite_congr (propext ?_) (fun _ => rfl) (fun _ => rfl)
  simp [mem_iff_mget h, Option.any_eq_true]

theorem QBuf.mget_tags_clear {q : QBuf} (h : risingFrom none q.tags = true) (mine : Nat → Bool) (g : Nat) :
    mget (q.clear mine).tags g = (mget q.tags g).filter (fun t => !mine t.1) :=
  mget_filter h _ g

end Sys2Proof.Machine
end

section
/-! SUPPORT. A tenon that is turned away (R14, R32, R38). -/

namespace Sys2Proof.Machine

/-! ### The conditions -/

theorem cond_false (st : St) (info : Nat) : cond false st info = [] := rfl

theorem cond_true (st : St) (info : Nat) : cond true st info = [(st, info)] := rfl

theorem stRank_of_mem_cond {b : Bool} {st : St} {info : Nat} (h : 2 < stRank false st) : ∀ e ∈ cond b st info, 2 < stRank false e.1 := by
  cases b with
  | false => simp [cond_false]
  | true => simpa [cond_true] using h

/-- A condition in front that none of the others comes before is the one reported. -/
theorem firstCond_cons_of_le {x : Bool} {c : St × Nat} {r : List (St × Nat)} (h : ∀ e ∈ r, stRank x c.1 ≤ stRank x e.1) :
    firstCond x (c :: r) = some c := by
  cases hr : firstCond x r with
  | none => exact firstCond_cons_none hr c
  | some e => rw [firstCond_cons_some hr, if_pos (h e (firstCond_least hr).1)]

theorem exists_late_conds (f k : List (St × Nat)) (b c : Bool) {l : List (St × Nat)} (hl : ∀ e ∈ l, 2 < stRank false e.1) :
    ∃ late : List (St × Nat), (∀ e ∈ late, 2 < stRank false e.1) ∧
      f ++ k ++ cond b .shape ++ cond c .programFault ++ l = f ++ (k ++ late) :=
  ⟨cond b .shape ++ (cond c .programFault ++ l),
    List.forall_mem_append.mpr ⟨stRank_of_mem_cond (by decide), List.forall_mem_append.mpr ⟨stRank_of_mem_cond (by decide), hl⟩⟩,
    by simp only [List.append_assoc]⟩

/-- What a tenon meets besides the fence and a revoked key comes after both: the form of the tenon and its program, and then another
home, an orphan, or what the directory says. -/
theorem Dev.tenonConds_fst (d : Dev) (qb : QBuf) (t : Tn) (w : Work) :
    ∃ late : List (St × Nat), (∀ e ∈ late, 2 < stRank false e.1) ∧
      (d.tenonConds qb t w).1 = cond d.trn.fenced .fenced ++ (cond (!d.keyOk t.ten w.keygen || !d.tagsOk qb t w.keygen) .keyRevoked ++ late) := by
  unfold Dev.tenonConds
  extract_lets early orph
  split
  · exact exists_late_conds _ _ _ _ (stRank_of_mem_cond (by decide))
  · split
    · exact exists_late_conds _ _ _ _ (stRank_of_mem_cond (by decide))
    · refine exists_late_conds _ _ _ _ ?_
      split
      · exact fun _ h => nomatch h
      · exact stRank_of_mem_cond (by decide)

/-- A tenon of a revoked key, or whose granules carry another tag, is refused for it, or for the fence of a fenced node. -/
theorem Dev.firstCond_tenonConds {d : Dev} {qb : QBuf} {t : Tn} {w : Work} (h : d.tagsOk qb t w.keygen = false) :
    firstCond false (d.tenonConds qb t w).1 = some (if d.trn.fenced then .fenced else .keyRevoked, 0) := by
  obtain ⟨late, hlate, hconds⟩ := d.tenonConds_fst qb t w
  have hrev : ∀ e ∈ (St.keyRevoked, 0) :: late, 2 ≤ stRank false e.1 :=
    List.forall_mem_cons.mpr ⟨by decide, fun e he => Nat.le_of_lt (hlate e he)⟩
  rw [hconds, h, Bool.not_false, Bool.or_true, cond_true, List.singleton_append]
  cases d.trn.fenced with
  | true => exact firstCond_cons_of_le (fun e he => Nat.le_of_lt (hrev e he))
  | false => exact firstCond_cons_of_le (fun e he => hrev e (List.mem_cons_of_mem _ he))

/-! ### The tags of a query -/

theorem QBuf.owned_iff (q : QBuf) {a n : Nat} (ten gen : Nat) (hn : 0 < n) :
    q.owned a n ten gen = true ↔ ∀ g, a / 64 ≤ g → g ≤ (a + n - 1) / 64 → mget q.tags g = some (ten, gen) := by
  have hle : a / 64 ≤ (a + n - 1) / 64 := Nat.div_le_div_right (by omega)
  simp only [QBuf.owned, Bool.or_eq_true, decide_eq_true_eq, List.all_eq_true, List.mem_range]
  constructor
  · intro h g hlo hhi
    have hg := (h.resolve_left (by omega)) (g - a / 64) (by omega)
    rwa [Nat.add_sub_cancel' hlo] at hg
  · exact fun h => .inr (fun i hi => h _ (by omega) (by omega))

/-- A granule of the query in the query buffer that carries another tag, or none. -/
theorem Dev.tagsOk_false {d : Dev} {qb : QBuf} {t : Tn} {keygen g : Nat} (hinl : t.qinl = false) (hpos : 0 < t.qlen)
    (hfit : 64 * t.qoff + t.qlen ≤ d.shareSize t.part) (hlo : d.qAddr t / 64 ≤ g) (hhi : g ≤ (d.qAddr t + t.qlen - 1) / 64)
    (htag : mget qb.tags g ≠ some (t.ten, keygen)) : d.tagsOk qb t keygen = false := by
  have hown : qb.owned (d.qAddr t) t.qlen t.ten keygen = false :=
    Bool.eq_false_iff.mpr (fun h => htag ((qb.owned_iff t.ten keygen hpos).mp h g hlo hhi))
  have hin : decide (d.shareSize t.part < 64 * t.qoff + t.qlen) = false := decide_eq_false (by omega)
  simp only [Dev.tagsOk, hinl, hin, hown, Bool.or_self, Bool.false_and]

/-! ### TENON -/

/-- The device once the dispatcher took a tenon from its queue. -/
def Dev.tookTenon (d : Dev) (r : List Work) : Dev :=
  { d with atn := { d.atn with queue := r, spoilt := d.atn.spoilt.filter r.contains } }

theorem Dev.gate_of_running {d : Dev} {k : Nat} (h : d.isStopped (k * 4096) = false) (f : Dev → Dev) : Dev.gate [k] f d = f d := by
  simp [Dev.gate, h]

/-- A tenon whose return QP is usable and that meets a condition is turned away with the first one. -/
theorem tenonStep_turnAway {d : Dev} {qb : QBuf} {w : Work} {r : List Work} {i info : Nat} {st : St} (hq : d.atn.queue = w :: r)
    (hi : d.freeTidx = some i) (haway : d.rqpAway w.src (parseTn w.desc).rqp = false)
    (hok : d.rqpOk w.src false (parseTn w.desc).rqp (parseTn w.desc).ten (parseTn w.desc).part = true)
    (hc : firstCond false ((d.tookTenon r).tenonConds qb (parseTn w.desc) w).1 = some (st, info)) :
    tenonStep qb d = ((d.tookTenon r).tenonConds qb (parseTn w.desc) w).2.turnAway i w (parseTn w.desc) st info := by
  have hok' : (d.tookTenon r).rqpOk w.src false (parseTn w.desc).rqp (parseTn w.desc).ten (parseTn w.desc).part = true := hok
  rw [Dev.tookTenon] at hok' hc ⊢
  simp only [tenonStep, hq, hi, haway, hok', hc, Bool.not_true, Bool.false_eq_true, if_false]

theorem exec_tenon (s : State) (h : s.dev.isStopped (9 * 4096) = false) : exec .tenon s = .next (s.went (tenonStep s.qb s.dev)) := by
  have hexec : exec .tenon s = s.run (Dev.gate [9] (tenonStep s.qb)) := rfl
  rw [hexec, State.run_eq, Dev.gate_of_running h]

end Sys2Proof.Machine
end

section
/-! The granule tags of the query buffer (R38). -/

namespace Sys2Proof.Machine

theorem place_reads_frames_tags (q : QBuf) (a ten gen : Nat) (bs : Bytes) (h : bs ≠ []) :
    (q.place a ten gen bs).read a bs.length = bs ∧
    (∀ j, j < a ∨ a + bs.length ≤ j → memGet sramByte (q.place a ten gen bs).mem j = memGet sramByte q.mem j) ∧
    (∀ g, mget (q.place a ten gen bs).tags g = if a / 64 ≤ g ∧ g ≤ (a + bs.length - 1) / 64 then some (ten, gen) else mget q.tags g) := by
  refine ⟨?_, ?_, q.mget_tags_place a ten gen h⟩
  · rw [q.place_of_ne_nil a ten gen h]
    exact memRead_memWrite sramByte bs q.mem a
  · rw [q.place_of_ne_nil a ten gen h]
    exact memGet_memWrite_out sramByte bs q.mem a

theorem clear_own_granule {q : QBuf} {ten g gen : Nat} (h : risingFrom none q.tags = true) (hg : mget q.tags g = some (ten, gen)) :
    mget (q.clear (fun x => decide (x = ten))).tags g = none ∧
    ∀ j, j / 64 = g → memGet sramByte (q.clear (fun x => decide (x = ten))).mem j = 0 := by
  refine ⟨by simp [QBuf.mget_tags_clear h, hg], ?_⟩
  rintro j rfl
  simp [QBuf.memGet_clear h, hg]

theorem clear_other_granule {q : QBuf} {ten g : Nat} (h : risingFrom none q.tags = true) (hg : ∀ gen, mget q.tags g ≠ some (ten, gen)) :
    mget (q.clear (fun x => decide (x = ten))).tags g = mget q.tags g ∧
    ∀ j, j / 64 = g → memGet sramByte (q.clear (fun x => decide (x = ten))).mem j = memGet sramByte q.mem j := by
  refine ⟨?_, ?_⟩
  · rw [QBuf.mget_tags_clear h]
    cases ht : mget q.tags g with
    | none => rfl
    | some t =>
      have hne : t.1 ≠ ten := by
        rintro rfl
        exact hg t.2 ht
      simp [Option.filter, hne]
  · rintro j rfl
    rw [QBuf.memGet_clear h, if_neg]
    simpa [Option.any_eq_true] using hg

/-- Settles O57: a placement and a teardown's clear are read granule by granule; a query granule with another tag fails the check of the
tags, and of the conditions of R14 only the fence comes before a revoked key. -/
theorem granuleTags : Obligations.GranuleTags := by
  refine ⟨⟨place_reads_frames_tags, fun q ten g h => ⟨fun gen => clear_own_granule h, clear_other_granule h⟩, ?_⟩, ?_⟩
  · intro env s
    obtain ⟨-, -, -, hqb⟩ := fullChip_frame env s
    rw [hqb]
  · intro s w r i g hrun hq hi
    dsimp only
    intro haway hok hinl hpos hfit hlo hhi htag
    have htags : (s.dev.tookTenon r).tagsOk s.qb (parseTn w.desc) w.keygen = false := Dev.tagsOk_false hinl hpos hfit hlo hhi htag
    rw [exec_tenon s hrun, tenonStep_turnAway hq hi haway hok (Dev.firstCond_tenonConds htags)]
    rfl

end Sys2Proof.Machine
end

section
/-! The tally clocks (R172, R173, R231). -/

namespace Sys2Proof.Machine

/-- A command gated by one block, while that block runs. -/
theorem State.run_gate_of_running {s : State} {k : Nat} (h : s.dev.isStopped (k * 4096) = false) (f : Dev → Dev) :
    s.run (Dev.gate [k] f) = .next (s.went (f s.dev)) := by
  rw [State.run_eq, Dev.gate_of_running h]

/-! ### TNOW -/

theorem exec_tnowAdvance {s : State} (h : s.dev.isStopped (11 * 4096) = false) : exec .tnowAdvance s = .next (s.went (tnowStep s.dev)) :=
  State.run_gate_of_running h tnowStep

theorem exec_tnowRebase {s : State} (h : s.dev.isStopped (11 * 4096) = false) : exec .tnowRebase s = .next (s.went (tnowRebaseStep s.dev)) :=
  State.run_gate_of_running h tnowRebaseStep

theorem tnowStep_below {d : Dev} (ht : 2 ^ d.reg (rk 0x00800018 0) ≤ d.plc.touches) (hn : d.plc.tnow ≠ 0xFFFFFFFF) :
    tnowStep d = { d with plc := { d.plc with touches := d.plc.touches - 2 ^ d.reg (rk 0x00800018 0), tnow := d.plc.tnow + 1 } } :=
  if_neg (not_or.mpr ⟨Nat.not_lt.mpr ht, hn⟩)

/-- TNOW does not pass its largest value by an advance: the rebase is due instead (R173). -/
theorem tnowStep_largest {d : Dev} (hn : d.plc.tnow = 0xFFFFFFFF) : tnowStep d = d :=
  if_pos (.inr hn)

theorem tnowRebaseStep_below {d : Dev} (hn : d.plc.tnow ≠ 0xFFFFFFFF) : tnowRebaseStep d = d :=
  if_pos (.inr hn)

theorem tnowRebaseStep_largest {d : Dev} (ht : 2 ^ d.reg (rk 0x00800018 0) ≤ d.plc.touches) (hn : d.plc.tnow = 0xFFFFFFFF) :
    tnowRebaseStep d = { d with plc := { d.plc with touches := d.plc.touches - 2 ^ d.reg (rk 0x00800018 0), tnow := 0x80000000,
                                                    runs := d.plc.runs.map (fun r => { r with stamp := r.stamp - 0x80000000 }) } } :=
  if_neg (not_or.mpr ⟨Nat.not_lt.mpr ht, fun hne => hne hn⟩)

/-! ### PNOW -/

theorem exec_pnowAdvance {s : State} (h : s.dev.isStopped (12 * 4096) = false) : exec .pnowAdvance s = .next (s.went (pnowStep s.dev)) :=
  State.run_gate_of_running h pnowStep

/-- PNOW_ADVANCE is both commands of TNOW in one: only the pool's block changes, by the rebase at the largest value and by 1 below it. -/
theorem pnowStep_due {d : Dev} (ht : 2 ^ d.reg (rk 0x00900000 24) ≤ d.shp.touches) :
    let p := { d.shp with touches := d.shp.touches - 2 ^ d.reg (rk 0x00900000 24) }
    pnowStep d = { d with shp := if d.shp.pnow = 0xFFFFFFFF
      then { p with pnow := 0x80000000, units := mmap d.shp.units (fun _ u => { u with stamp := u.stamp - 0x80000000 }) }
      else { p with pnow := d.shp.pnow + 1 } } := by
  have hdue : ¬ d.shp.touches < 2 ^ d.reg (rk 0x00900000 24) := Nat.not_lt.mpr ht
  by_cases hn : d.shp.pnow = 0xFFFFFFFF
  · simp only [pnowStep, if_neg hdue, if_pos hn]
  · simp only [pnowStep, if_neg hdue, if_neg hn]

/-! ### Both clocks at the largest value -/

/-- A node both of whose clocks stand at the largest value, with the touches of an advance. -/
def clocksAtLargest : Dev :=
  { Dev.reset with plc := { Plc.reset with touches := 2 ^ 16, tnow := 0xFFFFFFFF }, shp := { Shp.reset with touches := 2 ^ 16, pnow := 0xFFFFFFFF } }

/-- The hypotheses of the two rebases can be met. -/
theorem clocksAtLargest_rebase_due : clocksAtLargest.isStopped (11 * 4096) = false ∧ clocksAtLargest.isStopped (12 * 4096) = false ∧
    2 ^ clocksAtLargest.reg (rk 0x00800018 0) ≤ clocksAtLargest.plc.touches ∧ clocksAtLargest.plc.tnow = 0xFFFFFFFF ∧
    2 ^ clocksAtLargest.reg (rk 0x00900000 24) ≤ clocksAtLargest.shp.touches ∧ clocksAtLargest.shp.pnow = 0xFFFFFFFF := by decide +kernel

/-- Settles O36: a clock that has the touches of an advance takes 1 below its largest value and is rebased at it, and of TNOW's two commands
the other one then changes nothing. -/
theorem tallyClocks : Obligations.TallyClocks := by
  refine ⟨fun s hrun ht => ?_, fun s hrun ht => ?_⟩
  · refine ⟨fun hn => ⟨?_, ?_⟩, fun hn => ⟨?_, ?_⟩⟩
    · rw [exec_tnowAdvance hrun, tnowStep_below ht hn]
    · rw [exec_tnowRebase hrun, tnowRebaseStep_below hn]
    · rw [exec_tnowRebase hrun, tnowRebaseStep_largest ht hn]
    · rw [exec_tnowAdvance hrun, tnowStep_largest hn]
  · rw [exec_pnowAdvance hrun, pnowStep_due ht]

end Sys2Proof.Machine
end

section
/-! SUPPORT. What writes the query buffer keeps its canonical form (R36): one lemma for each operation that writes it. -/

namespace Sys2Proof.Machine

/-- The query buffer in canonical form. -/
def QBuf.ok (q : QBuf) : Prop := Memory.wf sramByte q.mem = true

/-- An effect on query buffer and device that keeps the buffer's form. -/
def KeepsQ (f : QBuf → Dev → QBuf × Dev) : Prop := ∀ qb d, qb.ok → (f qb d).1.ok

theorem QBuf.place_ok {q : QBuf} (h : q.ok) (a ten gen : Nat) (bs : Bytes) : (q.place a ten gen bs).ok := by
  unfold QBuf.place
  split
  · exact h
  · exact memWrite_wf _ _ _ _ h

theorem placePkts_ok (ps : List InPkt) {q : QBuf} (h : q.ok) : (placePkts q ps).ok :=
  List.foldlRecOn ps _ h (fun _ hq p _ => QBuf.place_ok hq _ _ _ p.payload)

theorem QBuf.clear_ok {q : QBuf} (h : q.ok) (mine : Nat → Bool) : (q.clear mine).ok :=
  List.foldlRecOn (motive := fun m => Memory.wf sramByte m = true) _ _ h (fun _ hm g _ => memWrite_wf _ _ _ (64 * g) hm)

/-! ### Channels -/

theorem placeBytes_keepsQ (f : Nat) (x : W512) (n0 : Nat) (bs : Bytes) : KeepsQ (placeBytes f x n0 bs) := by
  intro qb d h
  refine List.foldlRecOn (motive := fun s : QBuf × Dev => s.1.ok) _ _ h (fun s hs p _ => ?_)
  dsimp only
  split
  · exact hs
  · exact QBuf.place_ok hs _ _ _ _
  · exact hs

theorem finishDesc_keepsQ (ch : Nat) : KeepsQ (finishDesc ch) := by
  intro qb d h
  unfold finishDesc
  dsimp only
  split
  · exact h
  · exact placeBytes_keepsQ _ _ _ _ _ _ h

theorem moveBytes_keepsQ (ch : Nat) (bs : Bytes) : KeepsQ (moveBytes ch bs) := by
  intro qb d h
  unfold moveBytes
  dsimp only
  split
  · exact h
  · split
    · exact finishDesc_keepsQ _ _ _ (placeBytes_keepsQ _ _ _ _ _ _ h)
    · exact placeBytes_keepsQ _ _ _ _ _ _ h

theorem startDesc_keepsQ (ch : Nat) (x : W512) (idx : Nat) : KeepsQ (startDesc ch x idx) := by
  intro qb d h
  unfold startDesc
  dsimp only
  split
  · exact h
  · exact moveBytes_keepsQ _ _ _ _ h

theorem channelStep_keepsQ (ch : Nat) (x : W512) : KeepsQ (channelStep ch x) := by
  intro qb d h
  unfold channelStep
  dsimp only
  split
  · exact h
  · split
    · exact h
    · split
      · exact h
      · split
        · exact h
        · split
          · exact h
          · split
            · exact h
            · exact startDesc_keepsQ _ _ _ _ _ h

theorem readDoneStep_keepsQ (ch : Nat) (bs : Bytes) : KeepsQ (readDoneStep ch bs) := by
  intro qb d h
  unfold readDoneStep
  dsimp only
  split
  · exact h
  · split
    · split
      · exact h
      · split
        · exact moveBytes_keepsQ _ _ _ _ h
        · split
          · exact h
          · exact moveBytes_keepsQ _ _ _ _ h
    · exact h

theorem restartStep_keepsQ (ch : Nat) (page : Option Bool) : KeepsQ (restartStep ch page) := by
  intro qb d h
  unfold restartStep
  dsimp only
  split
  · exact h
  · split
    · exact h
    · split
      · exact startDesc_keepsQ _ _ _ _ _ h
      · exact h

/-! ### Apertures and held writes -/

theorem queryWriteStep_keepsQ (f a : Nat) (data : Bytes) (t : Bool) : KeepsQ (queryWriteStep f a data t) := by
  intro qb d h
  unfold queryWriteStep
  dsimp only
  split
  · exact h
  · split
    · exact h
    · exact QBuf.place_ok h _ _ _ _

theorem heldWrite_keepsQ (i : Instr) : KeepsQ (heldWrite i) := by
  intro qb d h
  unfold heldWrite
  split
  case h_9 => exact queryWriteStep_keepsQ _ _ _ _ _ _ h
  case h_11 => exact restartStep_keepsQ _ _ _ _ h
  all_goals exact h

theorem heldWrites_keepsQ (l : List Instr) : KeepsQ (heldWrites l) := by
  induction l with
  | nil => exact fun _ _ h => h
  | cons i r ih => exact fun _ _ h => ih _ _ (heldWrite_keepsQ i _ _ h)

theorem wakeExpiry_keepsQ (up : List Nat) : KeepsQ (wakeExpiry up) := by
  intro qb d h
  unfold wakeExpiry
  split
  · exact h
  · exact heldWrites_keepsQ _ _ _ h

theorem barWrite_keepsQ (i : Instr) {f : QBuf → Dev → QBuf × Dev} (hf : KeepsQ f) : KeepsQ (barWrite i f) := by
  intro qb d h
  unfold barWrite
  dsimp only
  split
  · exact h
  · exact hf _ _ h

theorem barDev_keepsQ (i : Instr) (f : Dev → Dev) : KeepsQ (barDev i f) := barWrite_keepsQ i (fun _ _ h => h)

theorem ctlWrite_keepsQ (i : Instr) (page : Option Bool) {f : QBuf → Dev → QBuf × Dev} (hf : KeepsQ f) : KeepsQ (ctlWrite i page f) := by
  cases page with
  | none => exact hf
  | some b => exact barWrite_keepsQ i hf

/-! ### Gates, messages and the teardown -/

theorem gateQ_keepsQ (u : Nat) {f : QBuf → Dev → QBuf × Dev} (hf : KeepsQ f) : KeepsQ (gateQ u f) := by
  intro qb d h
  unfold gateQ
  split
  · exact h
  · exact hf _ _ h

theorem gateQpQ_keepsQ (n : Nat) {f : QBuf → Dev → QBuf × Dev} (hf : KeepsQ f) : KeepsQ (gateQpQ n f) := by
  intro qb d h
  unfold gateQpQ
  split
  · exact h
  · exact hf _ _ h

theorem writeQ_keepsQ (op qpn msn : Nat) : KeepsQ (writeQ op qpn msn) := by
  intro qb d h
  unfold writeQ writeStep
  dsimp only
  split
  · exact h
  · split
    · exact h
    · exact placePkts_ok _ h

theorem atomicQ_keepsQ (qpn msn : Nat) : KeepsQ (atomicQ qpn msn) := by
  intro qb d h
  unfold atomicQ atomicStep
  dsimp only
  split
  · exact h
  · exact QBuf.place_ok h _ _ _ _

theorem residueStep_keepsQ : KeepsQ residueStep := by
  intro qb d h
  unfold residueStep
  split
  · exact h
  · split
    · exact h
    · exact QBuf.clear_ok h _

end Sys2Proof.Machine
end

section
/-! SUPPORT. Once for all 190 commands: what of the state an outcome reaches. Most commands change the device alone, or the device and the
query buffer; the others are named one by one. -/

namespace Sys2Proof.Machine

/-- The commands that reach beyond the device and the query buffer, or whose outcome does not wait for the journal. -/
inductive Reaches : Instr → Prop where
  | rcRegisterRead (win : Window) (off width : Nat) : Reaches (.rcRegisterRead win off width)
  | regulatorLevelChange (stack die : Nat) (temp : Int) : Reaches (.regulatorLevelChange stack die temp)
  | clusterLevelChange (cluster : Nat) (temp : Int) : Reaches (.clusterLevelChange cluster temp)
  | contextReset (ckind target : Nat) (answers : Bool) : Reaches (.contextReset ckind target answers)
  | engineReset (engine : Nat) (answers : Bool) : Reaches (.engineReset engine answers)
  | partitionReset (part : Nat) (answers : Bool) : Reaches (.partitionReset part answers)
  | computeOnlyChipReset (answers digestOk : Bool) : Reaches (.computeOnlyChipReset answers digestOk)
  | fullChipReset (env : StartEnv) : Reaches (.fullChipReset env)
  | powerCycle : Reaches .powerCycle
  | reset (level ckind target : Nat) (answers digestOk : Bool) (env : StartEnv) : Reaches (.reset level ckind target answers digestOk env)
  | journalCommitDone (readBackOk : Bool) : Reaches (.journalCommitDone readBackOk)
  | norStatusPoll (done answers : Bool) : Reaches (.norStatusPoll done answers)
  | perstRelease (env : StartEnv) : Reaches (.perstRelease env)
  | nodeRstRelease (env : StartEnv) : Reaches (.nodeRstRelease env)
  | powerLoss : Reaches .powerLoss
  | i3cStatus : Reaches .i3cStatus
  | journalBounds : Reaches .journalBounds
  | journalRead (jseq : Nat) : Reaches (.journalRead jseq)
  | identity : Reaches .identity
  | chipReset (code : BitVec 16) (env : StartEnv) : Reaches (.chipReset code env)
  | extest : Reaches .extest
  | idcode : Reaches .idcode
  | samplePreload (v : Nat) : Reaches (.samplePreload v)
  | clamp : Reaches .clamp
  | highz : Reaches .highz
  | bypass (code : Byte) : Reaches (.bypass code)
  | pwrokRise (railsOk : Bool) : Reaches (.pwrokRise railsOk)
  | perstAssert : Reaches .perstAssert
  | nodeRstAssert : Reaches .nodeRstAssert
  | dynamicAddress (addr : Nat) : Reaches (.dynamicAddress addr)

/-- What a command can answer: it is one of those named, or it changes the device alone, or the device and the query buffer, whose form it keeps. -/
theorem exec_cases (c : Instr) (s : State) :
    Reaches c ∨ (∃ f, exec c s = s.run f) ∨ ∃ f, KeepsQ f ∧ exec c s = s.runQ f := by
  cases c with
  | rcRegisterRead => exact .inl (.rcRegisterRead _ _ _)
  | regulatorLevelChange => exact .inl (.regulatorLevelChange _ _ _)
  | clusterLevelChange => exact .inl (.clusterLevelChange _ _)
  | contextReset => exact .inl (.contextReset _ _ _)
  | engineReset => exact .inl (.engineReset _ _)
  | partitionReset => exact .inl (.partitionReset _ _)
  | computeOnlyChipReset => exact .inl (.computeOnlyChipReset _ _)
  | fullChipReset => exact .inl (.fullChipReset _)
  | powerCycle => exact .inl .powerCycle
  | reset => exact .inl (.reset _ _ _ _ _ _)
  | journalCommitDone => exact .inl (.journalCommitDone _)
  | norStatusPoll => exact .inl (.norStatusPoll _ _)
  | perstRelease => exact .inl (.perstRelease _)
  | nodeRstRelease => exact .inl (.nodeRstRelease _)
  | powerLoss => exact .inl .powerLoss
  | i3cStatus => exact .inl .i3cStatus
  | journalBounds => exact .inl .journalBounds
  | journalRead => exact .inl (.journalRead _)
  | identity => exact .inl .identity
  | chipReset => exact .inl (.chipReset _ _)
  | extest => exact .inl .extest
  | idcode => exact .inl .idcode
  | samplePreload => exact .inl (.samplePreload _)
  | clamp => exact .inl .clamp
  | highz => exact .inl .highz
  | bypass => exact .inl (.bypass _)
  | pwrokRise => exact .inl (.pwrokRise _)
  | perstAssert => exact .inl .perstAssert
  | nodeRstAssert => exact .inl .nodeRstAssert
  | dynamicAddress => exact .inl (.dynamicAddress _)
  | sqTailDoorbell | cqHeadDoorbell | channelTailDoorbell | adminSqTailDoorbell | adminCqHeadDoorbell | eqHeadDoorbell | functionEnable
  | functionRelease | partialApertureWrite => exact .inr (.inr ⟨_, barDev_keepsQ _ _, rfl⟩)
  | write => exact .inr (.inr ⟨_, gateQpQ_keepsQ _ (writeQ_keepsQ _ _ _), rfl⟩)
  | writeImm => exact .inr (.inr ⟨_, gateQpQ_keepsQ _ (writeQ_keepsQ _ _ _), rfl⟩)
  | atomic => exact .inr (.inr ⟨_, gateQpQ_keepsQ _ (atomicQ_keepsQ _ _), rfl⟩)
  | queryApertureWrite => exact .inr (.inr ⟨_, barWrite_keepsQ _ (queryWriteStep_keepsQ _ _ _ _), rfl⟩)
  | channelDescriptor => exact .inr (.inr ⟨_, gateQ_keepsQ _ (channelStep_keepsQ _ _), rfl⟩)
  | dmaReadCompletion => exact .inr (.inr ⟨_, gateQ_keepsQ _ (readDoneStep_keepsQ _ _), rfl⟩)
  | restart => exact .inr (.inr ⟨_, ctlWrite_keepsQ _ _ (restartStep_keepsQ _ _), rfl⟩)
  | skip => exact .inr (.inr ⟨_, ctlWrite_keepsQ _ _ (fun _ _ h => h), rfl⟩)
  | wakeHoldExpiry => exact .inr (.inr ⟨_, wakeExpiry_keepsQ _, rfl⟩)
  | teardownResidueClear => exact .inr (.inr ⟨_, residueStep_keepsQ, rfl⟩)
  | registerWrite a =>
    obtain ⟨w, off, n, v⟩ := a
    cases w with
    | bar0 => exact .inr (.inl ⟨_, rfl⟩)
    | bar2 => exact .inr (.inr ⟨_, barDev_keepsQ _ _, rfl⟩)
    | bar4 => exact .inr (.inl ⟨_, rfl⟩)
  | w1cRegisterWrite a hw =>
    obtain ⟨w, off, n, v⟩ := a
    cases w with
    | bar0 => exact .inr (.inl ⟨_, rfl⟩)
    | bar2 => exact .inr (.inr ⟨_, barDev_keepsQ _ _, rfl⟩)
    | bar4 => exact .inr (.inl ⟨_, rfl⟩)
  | slotBoundary stack die group bank arrivals fs =>
    exact .inr (.inl ⟨fun d => (slotStep stack die group bank arrivals fs s.phys d).fillSend fs, rfl⟩)
  | refreshDue stack die group bank => exact .inr (.inl ⟨fun d => if d.asleep then d else refreshStep stack die group bank d, rfl⟩)
  | dirQcmdGo =>
    exact .inr (.inl ⟨fun d => Dev.gate [8] (fun d => if d.awake then dirQcmdStep d else d) (d.setReg (rk 0x00A00128 63) 0), rfl⟩)
  | cancelRidge idx tag => exact .inr (.inl ⟨fun d => d.cmd 0x0308 (mget d.trn.ridges idx).isSome .shape (fun d => d.ridgeCancel idx tag), rfl⟩)
  | flitReceive | linkLoss | linkTrainingComplete | retrain | packetIngress | qpContextFetchDone | qpContextEvict | accessKeyFetchDone
  | submitHandOn | writeImmCompletion | read | credit | resync | partialMsg | tenon | leafBlockReadDone | clusterWorkOrder | frameOrder
  | activityWindow | stackMerge | faultReport | tenonMerge | egressEnqueue | schedulerPick | policerRefill | append | trim | keep | fork
  | editPublish | openSeq | closeSeq | offer | accept | commit | claimed | claim | decline | release | mirrorEdit | mirrorAck | shadow
  | openVersion | closeVersion | openDraft | poolWrite | discard | publish | poolPublishSwap | gather | draftAbort | tnowAdvance
  | tnowRebase | pnowAdvance | promotion | demotion | lending | spill | stageBack | returnRun | tileReread | sqEntry | busError | createCq
  | deleteCq | createSq | deleteSq | setChannel | setSpillArea | setQpTable | mgmt | functionLevelReset | tdiError | stopInterface
  | pcieLinkLoss | ideCheckFailure | plcQcmdGo | shpQcmdGo | jnlRdCmdGo | rcvRecRelease | wake | uncorrectableArrayError
  | handshakeProtocolError | managementCoreException | dormant | linkPartnerLpiExit | zeroFill | admitTenant | removeTenant | setFabricKey
  | setConnKey | getReport | getCert | setPlacement | setMirror | reconcile | adoptHome | discardPending | promote | fillSpare | cancelFill
  | createRegion | deleteRegion | closeReaders | abortOwner | dirPut | dirRemove | dirFind | dirRead | qpCreate | qpModify | qpDestroy
  | qpClear | keyCreate | keyDestroy | setRidge | setFence | unfence | setPolicer | clearPolicer | setTenantQuantum | loadProgram
  | unloadProgram | loadTable | unloadTable | setProjection | clearProjection | imageWrite | imageCommit | i3cWake | pcieLinkUp
  | lockInterface | startInterface | spdmRequest | ideKm => exact .inr (.inl ⟨_, rfl⟩)

/-! ### The two common forms -/

/-- What every outcome of the two common forms leaves alone. -/
structure Inner (s t : State) : Prop where
  pending : t.pending = s.pending
  phys : t.phys = s.phys
  nor : t.nor = s.nor
  mram : t.mram = s.mram
  qb : s.qb.ok → t.qb.ok

theorem State.run_inner (s : State) (f : Dev → Dev) : ∃ t, s.run f = .next t ∧ Inner s t := by
  unfold State.run
  split
  · exact ⟨_, rfl, rfl, rfl, rfl, rfl, id⟩
  · exact ⟨_, rfl, rfl, rfl, rfl, rfl, id⟩

theorem State.runQ_inner (s : State) {f : QBuf → Dev → QBuf × Dev} (hf : KeepsQ f) : ∃ t, s.runQ f = .next t ∧ Inner s t := by
  unfold State.runQ
  dsimp only
  split
  · exact ⟨_, rfl, rfl, rfl, rfl, rfl, id⟩
  · exact ⟨_, rfl, rfl, rfl, rfl, rfl, hf s.qb s.dev⟩

/-- A command that is none of those named stays inside the device and the query buffer. -/
theorem exec_inner (c : Instr) (s : State) : Reaches c ∨ ∃ t, exec c s = .next t ∧ Inner s t := by
  rcases exec_cases c s with h | ⟨f, hf⟩ | ⟨f, hk, hf⟩
  · exact .inl h
  · exact .inr (hf ▸ s.run_inner f)
  · exact .inr (hf ▸ s.runQ_inner hk)

end Sys2Proof.Machine
end

section
/-! SUPPORT. The pins, the test port and the sensors: how a command may move them, and that every such move keeps the levels in their range
(Table 4.6, Table 15.9) and the boundary-scan mode what the instruction and NODE_RST# give (R404). -/

namespace Sys2Proof.Machine

/-- The moves of the physical side that commands make. -/
inductive PhysMove : Phys → Phys → Prop where
  | same (p : Phys) : PhysMove p p
  | trans {p q r : Phys} : PhysMove p q → PhysMove q r → PhysMove p r
  | peak (p : Phys) (off : Nat) : PhysMove p (p.clearPeak off)
  | die (p : Phys) (k : Nat) (t : Int) : PhysMove p { p with dies := mset p.dies k (dieMeasure (mget p.dies k) t) }
  | cluster (p : Phys) (n : Nat) (t hot : Int) (pk : Option Int) :
    PhysMove p { p with cls := mset p.cls n (clMeasure (mget p.cls n) t), mainT := hot, mainPk := pk }
  | lost (p : Phys) : PhysMove p p.lost
  | pwrcyc (p : Phys) : PhysMove p { p with pwrcyc := true }
  | pwrok (p : Phys) : PhysMove p { p with pwrok := true }
  | i3c (p : Phys) (a : Option Nat) : PhysMove p { p with i3cDyn := a }
  | perst (p : Phys) (b : Bool) : PhysMove p { p with perst := b }
  | nodeRst (p : Phys) (b : Bool) : PhysMove p { p with nodeRst := b }.scan
  | load (p : Phys) (code : Byte) : PhysMove p (p.load code)
  | bsr (p : Phys) (v : Nat) : PhysMove p { p with bsr := v }
  | off (p : Phys) : PhysMove p { Phys.reset with perst := p.perst, nodeRst := p.nodeRst }

/-! ### Levels -/

theorem forall_mem_mset {α : Type} {P : α → Prop} {m : NMap α} (h : ∀ e ∈ m, P e.2) (k : Nat) {v : α} (hv : P v) : ∀ e ∈ mset m k v, P e.2 := by
  induction m with
  | nil => simpa [mset] using hv
  | cons e r ih =>
    obtain ⟨i, u⟩ := e
    rw [List.forall_mem_cons] at h
    obtain ⟨hu, hr⟩ := h
    unfold mset
    split
    · exact List.forall_mem_cons.mpr ⟨hv, List.forall_mem_cons.mpr ⟨hu, hr⟩⟩
    · split
      · exact List.forall_mem_cons.mpr ⟨hv, hr⟩
      · exact List.forall_mem_cons.mpr ⟨hu, ih hr⟩

theorem mem_of_mget {α : Type} {m : NMap α} {k : Nat} {v : α} (h : mget m k = some v) : (k, v) ∈ m := by
  induction m with
  | nil => simp at h
  | cons e r ih =>
    by_cases hk : e.1 = k
    · subst hk
      obtain rfl : e.2 = v := by simpa [mget] using h
      exact List.mem_cons_self
    · exact List.mem_cons_of_mem _ (ih (by simpa [mget, hk] using h))

/-- A level falls by one or stays, unless it rises to the next one that has a threshold. -/
theorem moveLevel_down_le (leave : List Int) (level : Nat) (t : Int) : moveLevel.down leave level t ≤ level := by
  unfold moveLevel.down
  cases level with
  | zero => exact Nat.le_refl 0
  | succ n =>
    dsimp only
    split
    · split <;> omega
    · exact Nat.le_refl _

theorem moveLevel_le {enter leave : List Int} {level : Nat} {t : Int} (h : level ≤ enter.length) : moveLevel enter leave level t ≤ enter.length := by
  unfold moveLevel
  split
  · next hin =>
    obtain ⟨hlt, -⟩ := List.getElem?_eq_some_iff.mp hin
    split
    · exact hlt
    · exact Nat.le_trans (moveLevel_down_le leave level t) h
  · exact Nat.le_trans (moveLevel_down_le leave level t) h

theorem dieMeasure_level_le {o : Option DieTherm} (h : ∀ x, o = some x → x.level ≤ 4) (t : Int) : (dieMeasure o t).level ≤ 4 := by
  cases o with
  | none => exact moveLevel_le (enter := dieEnter) (Nat.zero_le _)
  | some x => exact moveLevel_le (enter := dieEnter) (h x rfl)

theorem clMeasure_level_le {o : Option ClTherm} (h : ∀ x, o = some x → x.level ≤ 2) (t : Int) : (clMeasure o t).level ≤ 2 := by
  cases o with
  | none => exact moveLevel_le (enter := clEnter) (Nat.zero_le _)
  | some x => exact moveLevel_le (enter := clEnter) (h x rfl)

theorem levelsOk_clearPeak {p : Phys} (h : p.levelsOk) (off : Nat) : (p.clearPeak off).levelsOk := by
  obtain ⟨hdies, hcls⟩ := h
  unfold Phys.clearPeak
  dsimp only
  split
  · exact ⟨hdies, hcls⟩
  · split
    · refine ⟨?_, hcls⟩
      dsimp only
      unfold mmod
      split
      · exact hdies
      · next x hx => exact forall_mem_mset (P := fun x : DieTherm => x.level ≤ 4) hdies _ (hdies _ (mem_of_mget hx))
    · exact ⟨hdies, hcls⟩

theorem PhysMove.levelsOk {p q : Phys} (h : PhysMove p q) (hp : p.levelsOk) : q.levelsOk := by
  induction h with
  | trans _ _ ih1 ih2 => exact ih2 (ih1 hp)
  | peak p off => exact levelsOk_clearPeak hp off
  | die p k t =>
    obtain ⟨hdies, hcls⟩ := hp
    exact ⟨forall_mem_mset (P := fun x : DieTherm => x.level ≤ 4) hdies k (dieMeasure_level_le (fun x hx => hdies _ (mem_of_mget hx)) t), hcls⟩
  | cluster p n t =>
    obtain ⟨hdies, hcls⟩ := hp
    exact ⟨hdies, forall_mem_mset (P := fun x : ClTherm => x.level ≤ 2) hcls n (clMeasure_level_le (fun x hx => hcls _ (mem_of_mget hx)) t)⟩
  | lost | off => exact ⟨by simp [Phys.lost, Phys.reset], by simp [Phys.lost, Phys.reset]⟩
  | same | pwrcyc | pwrok | i3c | perst | nodeRst | load | bsr => exact hp

/-! ### The boundary-scan mode -/

/-- The mode in force depends on the instruction and NODE_RST# alone. -/
theorem scan_eq_self_congr {p q : Phys} (hir : q.ir = p.ir) (hrst : q.nodeRst = p.nodeRst) (hmode : q.jmode = p.jmode) (h : p.scan = p) : q.scan = q := by
  have hp : p.scan.jmode = p.jmode := congrArg Phys.jmode h
  have hq : q.scan.jmode = q.jmode := by
    rw [hmode, ← hp]
    simp only [Phys.scan, hir, hrst]
  calc q.scan = { q with jmode := q.scan.jmode } := rfl
    _ = q := by rw [hq]

theorem clearPeak_scan {p : Phys} (h : p.scan = p) (off : Nat) : (p.clearPeak off).scan = p.clearPeak off := by
  unfold Phys.clearPeak
  dsimp only
  split
  · exact scan_eq_self_congr (p := p) rfl rfl rfl h
  · split
    · exact scan_eq_self_congr (p := p) rfl rfl rfl h
    · exact h

theorem PhysMove.scan {p q : Phys} (h : PhysMove p q) (hp : p.scan = p) : q.scan = q := by
  induction h with
  | same => exact hp
  | trans _ _ ih1 ih2 => exact ih2 (ih1 hp)
  | peak p off => exact clearPeak_scan hp off
  | nodeRst | load => rfl
  | off p => rfl
  | die p | cluster p | lost p | pwrcyc p | pwrok p | i3c p | perst p | bsr p => exact scan_eq_self_congr (p := p) rfl rfl rfl hp

/-- The pins are taken over only while NODE_RST# is low. -/
theorem nodeRst_of_jmode {p : Phys} (h : p.scan = p) (hm : p.jmode = .extest ∨ p.jmode = .clamp ∨ p.jmode = .highz) : p.nodeRst = true := by
  rw [← congrArg Phys.jmode h] at hm
  cases hr : p.nodeRst with
  | true => rfl
  | false =>
    simp only [Phys.scan, hr, Bool.false_eq_true, if_false] at hm
    split at hm <;> simp at hm

end Sys2Proof.Machine
end

section
/-! SUPPORT. The commands that reach beyond the device and the query buffer: each answers a next state, but power rising with a rail out of
regulation (R400); what each leaves alone. -/

namespace Sys2Proof.Machine

/-- What every outcome of such a command keeps. -/
structure Outer (s t : State) : Prop where
  pending : t.pending = s.pending
  qb : s.qb.ok → t.qb.ok
  phys : PhysMove s.phys t.phys

theorem Outer.refl (s : State) : Outer s s := ⟨rfl, id, .same _⟩

/-! ### Resets and start-up -/

theorem QBuf.ok_empty (tags : NMap (Nat × Nat)) : QBuf.ok ⟨[], tags⟩ := rfl

theorem fullChip_outer (env : StartEnv) (s : State) : Outer s (fullChip env s) := ⟨rfl, fun _ => QBuf.ok_empty _, .lost _⟩

theorem wakeFirst_qb {s : State} (h : s.qb.ok) : (wakeFirst s).qb.ok := wakeExpiry_keepsQ _ _ _ h

theorem runReset_outer (r : ResetRun) (a g : Bool) (env : StartEnv) (s : State) : Outer s (runReset r a g env s) := by
  unfold runReset
  dsimp only
  split
  · exact ⟨rfl, wakeFirst_qb, .same _⟩
  · split
    · exact ⟨rfl, fun _ => QBuf.ok_empty _, .lost _⟩
    · exact ⟨rfl, wakeFirst_qb, .pwrcyc _⟩

theorem driverReset_outer (l k t : Nat) (a g : Bool) (env : StartEnv) (s : State) : Outer s (driverReset l k t a g env s) := by
  unfold driverReset
  split
  · exact .refl s
  · split
    · exact runReset_outer _ _ _ _ _
    · exact ⟨rfl, id, .same _⟩

theorem mgmtReset_outer (l k t : Nat) (a g : Bool) (env : StartEnv) (s : State) : Outer s (mgmtReset l k t a g env s) := by
  unfold mgmtReset
  split
  · exact .refl s
  · split
    · exact runReset_outer _ _ _ _ _
    · exact ⟨rfl, id, .same _⟩

theorem releaseStep_outer (env : StartEnv) (p : Phys) {s : State} (h : PhysMove s.phys p) : Outer s (releaseStep env p s) := by
  unfold releaseStep
  dsimp only
  split
  · exact ⟨rfl, fun _ => QBuf.ok_empty _, .trans h (.lost p)⟩
  · exact ⟨rfl, id, h⟩

theorem pinAssert_outer (p : Phys) {s : State} (h : PhysMove s.phys p) : Outer s (pinAssert p s) := by
  unfold pinAssert
  dsimp only
  split
  · exact ⟨rfl, fun _ => QBuf.ok_empty _, .trans h (.lost p)⟩
  · exact ⟨rfl, id, h⟩

/-- A state whose device goes on keeps the rest. -/
theorem State.goOn_outer {s t : State} (h : Outer s t) : ∃ u, t.goOn = .next u ∧ Outer s u := ⟨_, rfl, h.pending, h.qb, h.phys⟩

/-! ### Reads, the sideband, boundary scan -/

theorem regRead_outer (w : Window) (off n : Nat) (s : State) : Outer s (regRead w off n s) := by
  obtain ⟨hpend, -, -, hqb, hphys⟩ := regRead_frame w off n s
  refine ⟨hpend, fun h => hqb ▸ h, ?_⟩
  rcases hphys with h | h <;> rw [h]
  · exact .same _
  · exact .peak _ _

theorem i3cSend_outer (s : State) (bs : Bytes) : Outer s (s.i3cSend bs) := by
  obtain ⟨hpend, -, -, hqb, hphys⟩ := i3cSend_frame s bs
  exact ⟨hpend, fun h => hqb ▸ h, hphys ▸ .same _⟩

theorem exec_regulatorLevelChange_outer (stack die : Nat) (temp : Int) (s : State) :
    ∃ t, exec (.regulatorLevelChange stack die temp) s = .next t ∧ Outer s t := by
  change ∃ t, execRegulatorLevelChange stack die temp s = .next t ∧ Outer s t
  unfold execRegulatorLevelChange
  dsimp only
  split
  · exact ⟨_, rfl, .refl s⟩
  · split
    · split
      · exact ⟨_, rfl, .refl s⟩
      · exact ⟨_, rfl, rfl, id, .die _ _ _⟩
    · split
      · exact ⟨_, rfl, .refl s⟩
      · exact ⟨_, rfl, rfl, id, .die _ _ _⟩

theorem exec_clusterLevelChange_outer (n : Nat) (temp : Int) (s : State) : ∃ t, exec (.clusterLevelChange n temp) s = .next t ∧ Outer s t := by
  change ∃ t, execClusterLevelChange n temp s = .next t ∧ Outer s t
  unfold execClusterLevelChange
  split
  · exact ⟨_, rfl, .refl s⟩
  · exact ⟨_, rfl, rfl, id, .cluster _ _ _ _ _⟩

/-- A condition that leaves the state alone where it fails. -/
theorem outer_ite {p : Prop} [Decidable p] {s : State} {o : Host.Outcome State Fault Refusal} (h : ∃ t, o = .next t ∧ Outer s t) :
    ∃ t, (if p then o else .next s) = .next t ∧ Outer s t := by
  split
  · exact h
  · exact ⟨s, rfl, .refl s⟩

/-- Each of these commands answers a next state but power rising with a rail out of regulation. -/
theorem exec_outer {c : Instr} (hc : Reaches c) (hne : c ≠ .pwrokRise false) (s : State) : ∃ t, exec c s = .next t ∧ Outer s t := by
  cases hc with
  | rcRegisterRead w off n => exact ⟨_, rfl, regRead_outer w off n s⟩
  | regulatorLevelChange stack die t => exact exec_regulatorLevelChange_outer stack die t s
  | clusterLevelChange n t => exact exec_clusterLevelChange_outer n t s
  | contextReset | engineReset | partitionReset | computeOnlyChipReset | fullChipReset | powerCycle =>
    exact State.goOn_outer (driverReset_outer _ _ _ _ _ _ s)
  | reset l k t a g env => exact outer_ite (State.goOn_outer (mgmtReset_outer l k t a g env s))
  | journalCommitDone ok => exact ⟨_, rfl, rfl, id, .same _⟩
  | norStatusPoll done answers => exact ⟨_, rfl, rfl, id, .same _⟩
  | perstRelease env => exact outer_ite (State.goOn_outer (releaseStep_outer env _ (.perst _ false)))
  | nodeRstRelease env => exact outer_ite (State.goOn_outer (releaseStep_outer env _ (.nodeRst _ false)))
  | powerLoss => exact ⟨_, rfl, rfl, fun _ => QBuf.ok_empty _, .off _⟩
  | i3cStatus | journalBounds | identity => exact ⟨_, rfl, i3cSend_outer s _⟩
  | journalRead j =>
    refine ⟨_, rfl, ?_⟩
    split
    · exact ⟨rfl, id, .same _⟩
    · exact .refl s
  | chipReset code env => exact outer_ite (State.goOn_outer (fullChip_outer env s))
  | extest | idcode | clamp | highz => exact ⟨_, rfl, rfl, id, .load _ _⟩
  | samplePreload v => exact ⟨_, rfl, rfl, id, .trans (.load _ 0x02) (.bsr _ v)⟩
  | bypass code =>
    change ∃ t, execBypass code s = .next t ∧ Outer s t
    unfold execBypass
    split
    · exact ⟨_, rfl, .refl s⟩
    · exact ⟨_, rfl, rfl, id, .load _ code⟩
  | pwrokRise ok =>
    cases ok with
    | false => exact absurd rfl hne
    | true => exact ⟨_, rfl, rfl, id, .pwrok _⟩
  | perstAssert => exact ⟨_, rfl, pinAssert_outer _ (.perst _ true)⟩
  | nodeRstAssert => exact ⟨_, rfl, pinAssert_outer _ (.nodeRst _ true)⟩
  | dynamicAddress a =>
    refine ⟨_, rfl, ?_⟩
    split
    · exact ⟨rfl, id, .i3c _ _⟩
    · exact .refl s

/-- Power rising with a rail out of regulation is the one command that stops the model (R400). -/
theorem exec_pwrokRise_false (s : State) : exec (.pwrokRise false) s = .fault .railsVoid := rfl

/-- Every other command answers a next state that keeps the queue, the query buffer's form, and of the physical side what `PhysMove` keeps. -/
theorem exec_next {c : Instr} (hne : c ≠ .pwrokRise false) (s : State) : ∃ t, exec c s = .next t ∧ Outer s t := by
  rcases exec_inner c s with hr | ⟨t, ht, hin⟩
  · exact exec_outer hr hne s
  · exact ⟨t, ht, hin.pending, hin.qb, hin.phys ▸ .same _⟩

theorem outer_of_exec {c : Instr} {s t : State} (h : exec c s = .next t) : Outer s t := by
  have hne : c ≠ .pwrokRise false := by
    rintro rfl
    rw [exec_pwrokRise_false] at h
    cases h
  obtain ⟨u, hu, ho⟩ := exec_next hne s
  rw [hu] at h
  cases h
  exact ho

/-- An invariant that every command keeps is one that every step keeps. -/
theorem step_keeps {P : State → Prop} (hpend : ∀ s l, P s → P { s with pending := l }) (hexec : ∀ c s t, P s → exec c s = .next t → P t)
    {s t : State} (hs : P s) (h : step s = .next t) : P t := by
  unfold step at h
  split at h
  · cases h
    exact hs
  · exact hexec _ _ _ (hpend _ _ hs) h

end Sys2Proof.Machine
end

section
/-! What every step keeps (R36, R38, R404, R408, Table 4.6, Table 15.9), what stops the model (R400), and the frames of the memories and the pins. -/

namespace Sys2Proof.Machine

/-! ### The invariants -/

/-- Settles O50: the levels are moved by a measurement alone, which keeps them in the range of their thresholds. -/
theorem levelsStayLegal : Obligations.LevelsStayLegal :=
  fun _ _ hs h => step_keeps (P := fun s => s.phys.levelsOk) (fun _ _ h => h) (fun _ _ _ h he => (outer_of_exec he).phys.levelsOk h) hs h

/-- Settles O52: the mode in force is worked out again at each load of the instruction and at each edge of NODE_RST#. -/
theorem scanModeFollowsNodeReset : Obligations.ScanModeFollowsNodeReset := by
  intro s t hs h
  have ht : t.phys.scan = t.phys :=
    step_keeps (P := fun s => s.phys.scan = s.phys) (fun _ _ h => h) (fun _ _ _ h he => (outer_of_exec he).phys.scan h) hs h
  exact ⟨ht, nodeRst_of_jmode ht⟩

/-! ### The NOR -/

theorem norDo_wf {nor : Memory} (h : Memory.wf norByte nor = true) (x : NorStep) : Memory.wf norByte (norDo nor x) = true := by
  cases x with
  | program a bs => exact memWrite_wf _ _ _ _ h
  | erase a =>
    simp only [Memory.wf, Bool.and_eq_true, List.all_eq_true] at h ⊢
    obtain ⟨hrise, hne⟩ := h
    exact ⟨risingFrom_filter _ _ _ hrise, fun e he => hne e (List.mem_filter.mp he).1⟩

theorem norPollStep_wf (done answers : Bool) {nor : Memory} (h : Memory.wf norByte nor = true) (d : Dev) :
    Memory.wf norByte (norPollStep done answers nor d).1 = true := by
  unfold norPollStep
  split
  · exact h
  · dsimp only
    split
    · exact h
    · split
      · exact h
      · exact norDo_wf h _

/-! ### Frames -/

theorem State.goOn_frame {s t : State} (h : s.goOn = .next t) : t.nor = s.nor ∧ t.mram = s.mram ∧ t.phys = s.phys := by
  cases h
  exact ⟨rfl, rfl, rfl⟩

/-- Where a condition fails the state stays; where it holds the outcome is the other's. -/
theorem ite_next_elim {p : Prop} [Decidable p] {s t : State} {o : Host.Outcome State Fault Refusal} {Q : State → Prop}
    (h : (if p then o else .next s) = .next t) (hs : Q s) (ho : o = .next t → Q t) : Q t := by
  split at h
  · exact ho h
  · cases h
    exact hs

theorem exec_regulatorLevelChange_frame {stack die : Nat} {temp : Int} {s t : State} (h : exec (.regulatorLevelChange stack die temp) s = .next t) :
    t.nor = s.nor ∧ t.mram = s.mram ∧ t.phys.pwrok = s.phys.pwrok ∧ t.phys.nodeRst = s.phys.nodeRst ∧ t.phys.cls = s.phys.cls := by
  change execRegulatorLevelChange stack die temp s = .next t at h
  unfold execRegulatorLevelChange at h
  dsimp only at h
  split at h
  · cases h
    simp
  · split at h <;> split at h <;> cases h <;> simp

theorem exec_clusterLevelChange_frame {n : Nat} {temp : Int} {s t : State} (h : exec (.clusterLevelChange n temp) s = .next t) :
    t.nor = s.nor ∧ t.mram = s.mram ∧ t.phys.pwrok = s.phys.pwrok ∧ t.phys.nodeRst = s.phys.nodeRst ∧ t.phys.dies = s.phys.dies := by
  change execClusterLevelChange n temp s = .next t at h
  unfold execClusterLevelChange at h
  split at h <;> cases h <;> simp

theorem exec_driverReset_frame {l k tg : Nat} {a g : Bool} {env : StartEnv} {s t : State} (h : (driverReset l k tg a g env s).goOn = .next t) :
    t.nor = s.nor ∧ (l ≤ 4 → t.phys = s.phys) := by
  obtain ⟨hnor, -, hphys⟩ := State.goOn_frame h
  obtain ⟨-, hn, hp⟩ := driverReset_frame l k tg a g env s
  exact ⟨hnor.trans hn, fun hl => hphys.trans (hp hl)⟩

theorem clearPeak_frame (p : Phys) (off : Nat) : (p.clearPeak off).pwrok = p.pwrok ∧ (p.clearPeak off).perst = p.perst ∧
    (p.clearPeak off).nodeRst = p.nodeRst ∧ (p.clearPeak off).ir = p.ir ∧ (p.clearPeak off).bsr = p.bsr ∧ (p.clearPeak off).i3cDyn = p.i3cDyn := by
  unfold Phys.clearPeak
  dsimp only
  split
  · simp
  · split <;> simp

theorem execBypass_frame {code : Byte} {s t : State} (h : exec (.bypass code) s = .next t) : t.nor = s.nor ∧ t.mram = s.mram := by
  change execBypass code s = .next t at h
  unfold execBypass at h
  split at h <;> cases h <;> simp

theorem i3cSend_memories {s t : State} {bs : Bytes} (h : Host.Outcome.next (s.i3cSend bs) = (.next t : Host.Outcome State Fault Refusal)) :
    t.nor = s.nor ∧ t.mram = s.mram ∧ t.phys = s.phys := by
  cases h
  obtain ⟨-, hnor, hmram, -, hphys⟩ := i3cSend_frame s bs
  exact ⟨hnor, hmram, hphys⟩

/-- Settles O54: a command of the two common forms touches neither memory nor pins; of the others each is looked at. -/
theorem memoriesChangeOnlyByTheirCommands : Obligations.MemoriesChangeOnlyByTheirCommands := by
  intro c s t h
  rcases exec_inner c s with hr | ⟨u, hu, hin⟩
  · cases hr with
    | rcRegisterRead w off n =>
      cases h
      obtain ⟨-, hnor, hmram, -, hphys⟩ := regRead_frame w off n s
      refine ⟨fun _ => hnor, hmram, ?_⟩
      rcases hphys with hp | hp <;> dsimp only <;> rw [hp]
      · simp
      · exact clearPeak_frame s.phys off
    | regulatorLevelChange =>
      obtain ⟨hnor, hmram, hphys⟩ := exec_regulatorLevelChange_frame h
      exact ⟨fun _ => hnor, hmram, hphys⟩
    | clusterLevelChange =>
      obtain ⟨hnor, hmram, hphys⟩ := exec_clusterLevelChange_frame h
      exact ⟨fun _ => hnor, hmram, hphys⟩
    | contextReset | engineReset | partitionReset | computeOnlyChipReset =>
      obtain ⟨hnor, hphys⟩ := exec_driverReset_frame h
      exact ⟨fun _ => hnor, trivial, hphys (by decide)⟩
    | fullChipReset | powerCycle => exact ⟨fun _ => (exec_driverReset_frame h).1, trivial, trivial⟩
    | reset l k tg a g env =>
      refine ⟨fun _ => ite_next_elim (Q := fun t => t.nor = s.nor) h rfl (fun h => ?_), trivial, trivial⟩
      obtain ⟨-, hnor, -⟩ := mgmtReset_frame l k tg a g env s
      exact (State.goOn_frame h).1.trans hnor
    | journalCommitDone => cases h; exact ⟨fun _ => rfl, trivial, rfl⟩
    | norStatusPoll done answers => cases h; exact ⟨fun hn => absurd rfl (hn done answers), rfl, rfl⟩
    | perstRelease env | nodeRstRelease env =>
      exact ⟨fun _ => ite_next_elim (Q := fun t => t.nor = s.nor) h rfl (fun h => (State.goOn_frame h).1.trans (releaseStep_frame env _ s).2), trivial, trivial⟩
    | chipReset => exact ⟨fun _ => ite_next_elim (Q := fun t => t.nor = s.nor) h rfl (fun h => (State.goOn_frame h).1), trivial, trivial⟩
    | i3cStatus | journalBounds | identity =>
      obtain ⟨hnor, hmram, hphys⟩ := i3cSend_memories h
      exact ⟨fun _ => hnor, hmram, hphys⟩
    | journalRead j => cases h; exact ⟨fun _ => by split <;> rfl, by dsimp only; split <;> rfl, by dsimp only; split <;> rfl⟩
    | powerLoss | extest | idcode | samplePreload | clamp | highz => cases h; exact ⟨fun _ => rfl, rfl, trivial⟩
    | bypass => exact ⟨fun _ => (execBypass_frame h).1, (execBypass_frame h).2, trivial⟩
    | pwrokRise ok => cases ok <;> cases h; exact ⟨fun _ => rfl, rfl, trivial⟩
    | perstAssert | nodeRstAssert =>
      cases h
      obtain ⟨-, hnor, hmram⟩ := pinAssert_frame _ s
      exact ⟨fun _ => hnor, hmram, trivial⟩
    | dynamicAddress a => cases h; exact ⟨fun _ => by split <;> rfl, by dsimp only; split <;> rfl, trivial⟩
  · rw [hu] at h
    cases h
    refine ⟨fun _ => hin.nor, ?_, ?_⟩
    · split
      case h_12 => exact hin.mram
      all_goals trivial
    · simp only [hin.phys]
      split <;> simp

/-- The two byte memories keep their form over a command: the NOR is written by NOR_STATUS_POLL alone. -/
theorem memoriesOk_of_exec {c : Instr} {s t : State} (hs : s.memoriesOk) (h : exec c s = .next t) : t.memoriesOk := by
  obtain ⟨hqb, hnor⟩ := hs
  refine ⟨(outer_of_exec h).qb hqb, ?_⟩
  obtain ⟨hframe, -⟩ := memoriesChangeOnlyByTheirCommands c s t h
  by_cases hp : ∀ a b, c ≠ .norStatusPoll a b
  · rw [hframe hp]
    exact hnor
  · obtain ⟨done, answers, rfl⟩ : ∃ a b, c = .norStatusPoll a b := Classical.byContradiction fun hno => hp fun a b hc => hno ⟨a, b, hc⟩
    cases h
    exact norPollStep_wf done answers hnor s.dev

/-- Settles O51: every operation that writes one of the two memories writes by `memWrite`, or takes entries out. -/
theorem memoriesStayCanonical : Obligations.MemoriesStayCanonical :=
  fun _ _ hs h => step_keeps (P := State.memoriesOk) (fun _ _ h => h) (fun _ _ _ h he => memoriesOk_of_exec h he) hs h

/-- Settles O53: a rail out of regulation stops the model as power rises, and nothing else does. -/
theorem onlyBadRailsStop : Obligations.OnlyBadRailsStop := by
  refine fun c s => ⟨fun hne => ?_, ?_⟩
  · obtain ⟨t, ht, ho⟩ := exec_next hne s
    exact ⟨t, ht, ho.pending⟩
  · rintro rfl
    exact exec_pwrokRise_false s

end Sys2Proof.Machine
end

section
/-! What goes on after a command where nothing waits (log entry 1, R177, R178): each part of `Dev.after` but the pressure finds nothing to do. -/

namespace Sys2Proof.Machine

/-- A fold whose steps all leave the start alone. -/
theorem foldl_eq_self {α β : Type} {f : β → α → β} {b : β} {l : List α} (h : ∀ a ∈ l, f b a = b) : l.foldl f b = b :=
  List.foldlRecOn (motive := fun x => x = b) l f rfl (fun _ hx a ha => hx ▸ h a ha)

/-! ### Waits that have ended -/

theorem Dev.settle_of_calm {d : Dev} (hqp : ∀ q ∈ d.trn.qps, q.2.destroying = false) (hcmp : ∀ t ∈ d.cmp, t.2.state ≠ 2) : d.settle = d := by
  unfold Dev.settle
  have hnone : d.trn.qps.filter (fun q => q.2.destroying) = [] := List.filter_eq_nil_iff.mpr (fun q hq => by simp [hqp q hq])
  rw [hnone]
  refine foldl_eq_self (fun s _ => ?_)
  change d.endTable s = d
  unfold Dev.endTable
  split
  · rfl
  · next t ht => rw [if_pos (.inl (hcmp _ (mem_of_mget ht)))]

theorem Dev.mem_of_running {d : Dev} {slot : Nat} {e : Edit} (h : d.running slot = some e) : ∃ q ∈ d.pgm.seqs, e ∈ q.2.edits := by
  obtain ⟨q, hq, he⟩ := Option.bind_eq_some_iff.mp h
  exact ⟨_, mem_of_mget hq, List.mem_of_head? he⟩

theorem Dev.dataDone_of_calm {d : Dev} (h : ∀ q ∈ d.pgm.seqs, ∀ e ∈ q.2.edits, e.phase ≠ .data ∧ ∀ id, e.phase ≠ .stage id) : d.dataDone = d := by
  refine foldl_eq_self (fun slot _ => ?_)
  split
  · next e he =>
    obtain ⟨q, hq, hmem⟩ := Dev.mem_of_running he
    split
    · next hphase _ => exact absurd hphase (h q hq e hmem).1
    · rfl
  · rfl

theorem Dev.settlePlace_of_calm {d : Dev} (hw : ∀ w ∈ d.pwr.waits, (∀ id e, w ≠ .adoptHome id e) ∧ ∀ id, w ≠ .discard id) (hs : d.plc.fillSeqs = []) :
    d.settlePlace = d := by
  unfold Dev.settlePlace
  rw [hs]
  refine foldl_eq_self (fun w hmem => ?_)
  obtain ⟨hadopt, hdiscard⟩ := hw w hmem
  cases w with
  | adoptHome id e => exact absurd rfl (hadopt id e)
  | discard id => exact absurd rfl (hdiscard id)
  | _ => rfl

theorem Dev.reapProjs_of_calm {d : Dev} (h : ∀ p ∈ d.shp.projs, p.live = true) : d.reapProjs = d := by
  unfold Dev.reapProjs
  dsimp only
  rw [List.filter_eq_nil_iff.mpr (fun p hp => by simp [h p hp])]
  rfl

theorem Dev.deletedDown_of_calm {d : Dev} (h : ∀ g ∈ d.shp.regions, g.2.deleting = false) : d.deletedDown = d := by
  unfold Dev.deletedDown
  rw [List.filter_eq_nil_iff.mpr]
  · rfl
  · intro u _
    split
    · simp
    · next g hg =>
      rw [show g.deleting = false from h _ (mem_of_mget hg)]
      simp

theorem Dev.failLater_of_calm {d : Dev} (h : ∀ x ∈ d.plc.suspects, x.2 < 16) : d.failLater = d := by
  unfold Dev.failLater
  rw [List.filter_eq_nil_iff.mpr (fun x hx => by simp [Nat.not_le.mpr (h x hx)])]
  rfl

theorem Dev.fnSettle_of_calm {d : Dev} (h : ∀ f, (d.fn f).resetting = false) : d.fnSettle = d :=
  foldl_eq_self (fun f _ => by simp [h f])

/-! ### Tenons, the node channels and Dormant -/

theorem Dev.poke_of_calm {d : Dev} (h : ∀ e ∈ d.atn.table, e.2.phase ≠ .arborWait ∧ e.2.phase ≠ .pinWait ∧ ∀ ps, e.2.phase ≠ .stageWait ps) (qb : QBuf) :
    d.poke qb = d := by
  refine foldl_eq_self (fun i _ => ?_)
  split
  · rfl
  · next e he =>
    obtain ⟨harbor, hpin, hstage⟩ := h _ (mem_of_mget he)
    split
    · next hp => exact absurd hp harbor
    · next hp => exact absurd hp hpin
    · next ps hp => exact absurd hp (hstage ps)
    · rfl

theorem Dev.stageWants_of_calm {d : Dev} (htable : ∀ e ∈ d.atn.table, ∀ ps, e.2.phase ≠ .stageWait ps)
    (hedit : ∀ q ∈ d.pgm.seqs, ∀ e ∈ q.2.edits, ∀ id, e.phase ≠ .stage id) (hfill : d.plc.fillRuns = []) : d.stageWants = [] := by
  unfold Dev.stageWants
  rw [hfill]
  simp only [List.filter_nil, List.append_nil, List.append_eq_nil_iff, List.flatMap_eq_nil_iff, List.filterMap_eq_nil_iff]
  refine ⟨fun e he => ?_, fun q hq e he => ?_⟩
  · split
    · next ps hp => exact absurd hp (htable e he ps)
    · rfl
  · split
    · next id hp => exact absurd hp (hedit q hq e he id)
    · rfl

theorem Dev.stagesDue_of_calm {d : Dev} (hwants : d.stageWants = []) (hqueue : ∀ w ∈ d.plc.queue, pbKind w.body ≠ 7) : d.stagesDue = [] := by
  have hshadow (id : RunId) : d.shadowWanted id = false := by
    simp only [Dev.shadowWanted, List.any_eq_false, decide_eq_true_eq, not_and]
    exact fun w hw hk => absurd hk (hqueue w hw)
  simp [Dev.stagesDue, hwants, hshadow]

theorem Dev.runChan_of_idle {d : Dev} (hx : d.dma.xfers = []) (ch : Nat) : d.runChan ch = d := by
  have hnext : d.nextXfer ch = none := by simp [Dev.nextXfer, hx]
  simp [Dev.runChan, hnext, hx]

theorem Dev.flushOut_of_calm {d : Dev} (h : d.dma.heldOut = []) : d.flushOut = d := by
  have hstill : { d with dma := { d.dma with heldOut := [] } } = d := by rw [← h]
  unfold Dev.flushOut
  dsimp only
  rw [h]
  exact hstill

theorem Dev.nodeDma_of_calm {d : Dev} (hdue : d.stagesDue = []) (hx : d.dma.xfers = []) (hout : d.dma.heldOut = []) : d.nodeDma = d := by
  have hstill : { d with dma := { d.dma with xfers := [] } } = d := by rw [← hx]
  unfold Dev.nodeDma
  dsimp only
  rw [hdue, hx]
  simp only [List.filter_nil, List.map_nil, List.append_nil]
  rw [hstill, Dev.flushOut_of_calm hout, foldl_eq_self (fun ch _ => Dev.runChan_of_idle hx ch), ite_self]

theorem Dev.dormTry_of_calm {d : Dev} (h : d.pwr.state ≠ .entering) : d.dormTry = d := by simp [Dev.dormTry, h]

/-- Settles O55: nothing is there that a part of `Dev.after` works on, and the pressure changes flags and set-aside page-runs alone. -/
theorem afterACalmCommand : Obligations.AfterACalmCommand := by
  intro d qb hcalm
  obtain ⟨hqp, hcmp, hedit, hwait, hseqs, hruns, hproj, hregion, hsuspect, hfn, htable, hqueue, hxfer, hout, hpower⟩ := hcalm
  have hwants : d.pressure.stageWants = [] :=
    Dev.stageWants_of_calm (d := d.pressure) (fun e he => (htable e he).2.2) (fun q hq e he => (hedit q hq e he).2) hruns
  have hafter : d.after qb = d.pressure := by
    rw [Dev.after, Dev.settle_of_calm hqp hcmp, Dev.dataDone_of_calm hedit, Dev.settlePlace_of_calm hwait hseqs, Dev.reapProjs_of_calm hproj,
      Dev.deletedDown_of_calm hregion, Dev.failLater_of_calm hsuspect, Dev.fnSettle_of_calm hfn, Dev.poke_of_calm (d := d.pressure) htable,
      Dev.nodeDma_of_calm (Dev.stagesDue_of_calm hwants hqueue) hxfer hout, Dev.dormTry_of_calm (d := d.pressure) hpower]
  refine ⟨hafter, ?_⟩
  rw [hafter]
  intro b hb
  cases b with
  | plc => exact absurd List.mem_cons_self hb
  | _ => rfl

end Sys2Proof.Machine
end

section
/-! SUPPORT. AES-256 turns any block of 16 bytes, under any key, into one of 16 bytes (FIPS 197). -/

namespace Sys2Proof.Machine

theorem length_sliceB (bs : Bytes) (off len : Nat) : (sliceB bs off len).length = len := by
  simp only [sliceB, List.length_append, List.length_take, List.length_drop, List.length_replicate]
  omega

@[simp] theorem length_aesAdd (a b : List Nat) : (aesAdd a b).length = min a.length b.length := by simp [aesAdd]

@[simp] theorem length_aesShift (s : List Nat) : (aesShift s).length = 16 := by simp [aesShift]

theorem length_aesMix (a b c d : Nat) (s : List Nat) : (aesMix a b c d s).length = s.length / 4 * 4 := by
  induction s using aesMix.induct with
  | case1 w x y z r ih =>
    simp only [aesMix, List.length_cons, ih]
    omega
  | case2 s h =>
    have hlt : s.length < 4 := by
      rcases s with _ | ⟨_, _ | ⟨_, _ | ⟨_, _ | ⟨_, _⟩⟩⟩⟩
      · simp
      · simp
      · simp
      · simp
      · exact (h _ _ _ _ _ rfl).elim
    rw [aesMix.eq_2 _ _ _ _ s h, List.length_nil]
    omega

/-! ### The key schedule -/

theorem aesWords_of_length {n : Nat} {l : List Nat} (h : l.length = 4 * n) : (aesWords l).length = n ∧ ∀ w ∈ aesWords l, w.length = 4 := by
  induction l using aesWords.induct generalizing n with
  | case1 a b c d r ih =>
    obtain ⟨m, rfl⟩ : ∃ m, n = m + 1 := ⟨n - 1, by simp only [List.length_cons] at h; omega⟩
    obtain ⟨hlen, hall⟩ := ih (n := m) (by simp only [List.length_cons] at h; omega)
    exact ⟨by simp [aesWords, hlen], List.forall_mem_cons.mpr ⟨rfl, hall⟩⟩
  | case2 l hl =>
    rcases l with _ | ⟨_, _ | ⟨_, _ | ⟨_, _ | ⟨_, _⟩⟩⟩⟩
    · obtain rfl : n = 0 := by rw [List.length_nil] at h; omega
      exact ⟨rfl, by simp [aesWords]⟩
    · simp only [List.length_cons, List.length_nil] at h; omega
    · simp only [List.length_cons, List.length_nil] at h; omega
    · simp only [List.length_cons, List.length_nil] at h; omega
    · exact (hl _ _ _ _ _ rfl).elim

/-- The schedule grows by words of four bytes. -/
theorem aesExpand_of_words (n i rcon : Nat) {ws : List (List Nat)} (hlen : 8 ≤ ws.length) (hall : ∀ w ∈ ws, w.length = 4) :
    (aesExpand n i rcon ws).length = n + ws.length ∧ ∀ w ∈ aesExpand n i rcon ws, w.length = 4 := by
  induction n generalizing i rcon ws with
  | zero => exact ⟨(Nat.zero_add _).symm, hall⟩
  | succ n ih =>
    have hhead : (ws.headD []).length = 4 := by
      cases ws with
      | nil => simp at hlen
      | cons w r => exact hall w List.mem_cons_self
    have hold : (ws.getD 7 []).length = 4 := by
      rw [List.getD_eq_getElem?_getD, List.getElem?_eq_getElem (by omega), Option.getD_some]
      exact hall _ (List.getElem_mem _)
    rw [aesExpand]
    generalize hw : (if i % 8 = 0 then _ else _ : List Nat) = w
    have hw4 : w.length = 4 := by
      rw [← hw]
      dsimp only
      split
      · simp only [List.length_cons, List.length_drop, List.length_map, List.length_append, List.length_take, hhead]
        rfl
      · split
        · rw [List.length_map, hhead]
        · exact hhead
    obtain ⟨h1, h2⟩ := ih (i + 1) (if i % 8 = 0 then aesX2 rcon else rcon) (ws := aesAdd (ws.getD 7 []) w :: ws)
      (by rw [List.length_cons]; omega) (List.forall_mem_cons.mpr ⟨by rw [length_aesAdd, hold, hw4]; rfl, hall⟩)
    exact ⟨by rw [h1, List.length_cons]; omega, h2⟩

theorem aesRounds_of_words {ws : List (List Nat)} (h : ∀ w ∈ ws, w.length = 4) :
    (aesRounds ws).length = ws.length / 4 ∧ ∀ k ∈ aesRounds ws, k.length = 16 := by
  induction ws using aesRounds.induct with
  | case1 a b c d r ih =>
    simp only [List.forall_mem_cons] at h
    obtain ⟨ha, hb, hc, hd, hr⟩ := h
    obtain ⟨hlen, hall⟩ := ih hr
    refine ⟨?_, List.forall_mem_cons.mpr ⟨by simp [ha, hb, hc, hd], hall⟩⟩
    simp only [aesRounds, List.length_cons, hlen]
    omega
  | case2 l hl =>
    rcases l with _ | ⟨_, _ | ⟨_, _ | ⟨_, _ | ⟨_, _⟩⟩⟩⟩
    · simp [aesRounds]
    · simp [aesRounds]
    · simp [aesRounds]
    · simp [aesRounds]
    · exact (hl _ _ _ _ _ rfl).elim

/-- Any key gives 15 round keys of 16 bytes. -/
theorem aesKeys_lengths (key : Bytes) : (aesKeys key).length = 15 ∧ ∀ k ∈ aesKeys key, k.length = 16 := by
  obtain ⟨hw, hw4⟩ := aesWords_of_length (n := 8) (l := (sliceB key 0 32).map BitVec.toNat) (by simp [length_sliceB])
  obtain ⟨he, he4⟩ := aesExpand_of_words 52 8 1 (ws := (aesWords ((sliceB key 0 32).map BitVec.toNat)).reverse) (by simp [hw])
    (fun w h => hw4 w (List.mem_reverse.mp h))
  obtain ⟨hr, hr16⟩ := aesRounds_of_words (ws := (aesExpand 52 8 1 (aesWords ((sliceB key 0 32).map BitVec.toNat)).reverse).reverse)
    (fun w h => he4 w (List.mem_reverse.mp h))
  refine ⟨?_, hr16⟩
  rw [aesKeys, hr, List.length_reverse, he, List.length_reverse, hw]

/-! ### The rounds -/

theorem length_aesEncRounds {ks : List (List Nat)} {s : List Nat} (hs : s.length = 16) (hk : ∀ k ∈ ks, k.length = 16) :
    (aesEncRounds ks s).length = 16 := by
  induction ks, s using aesEncRounds.induct with
  | case1 s => exact hs
  | case2 k s => simp [aesEncRounds, hk k List.mem_cons_self]
  | case3 k r s hne ih =>
    rw [List.forall_mem_cons] at hk
    obtain ⟨hk16, hr⟩ := hk
    rw [aesEncRounds]
    · exact ih (by simp [length_aesMix, hk16]) hr
    · exact hne

theorem length_aesBlock (key b : Bytes) : (aesBlock (aesKeys key) b).length = 16 := by
  obtain ⟨hlen, hall⟩ := aesKeys_lengths key
  have hhead : ((aesKeys key).headD []).length = 16 := by
    cases h : aesKeys key with
    | nil => simp [h] at hlen
    | cons k r => exact hall k (h ▸ List.mem_cons_self)
  rw [aesBlock, List.length_map]
  exact length_aesEncRounds (by rw [length_aesAdd, List.length_map, length_sliceB, hhead]; rfl) (fun k hk => hall k (List.mem_of_mem_drop hk))

end Sys2Proof.Machine
end

section
/-! GCM's round trip (R281, R339, R340): the key stream of a block cancels itself, block by block. -/

namespace Sys2Proof.Machine

@[simp] theorem length_xorB (a b : Bytes) : (xorB a b).length = min a.length b.length := by simp [xorB]

theorem xorB_xorB_cancel {a k : Bytes} (h : a.length ≤ k.length) : xorB (xorB a k) k = a := by
  induction a generalizing k with
  | nil => rfl
  | cons x r ih =>
    cases k with
    | nil => simp at h
    | cons y s =>
      have ih := ih (k := s) (by simpa using h)
      simp only [xorB, List.zipWith_cons_cons] at ih ⊢
      rw [ih, BitVec.xor_assoc, BitVec.xor_self, BitVec.xor_zero]

/-- The key stream over a text cut into blocks keeps its length, and over the result gives the text back. -/
theorem gcmCtr_involutive (key iv : Bytes) (k c : Nat) {bs : Bytes} (h : bs.length ≤ 16 * k) :
    (gcmCtr (aesKeys key) iv c (chunksB k 16 bs)).length = bs.length ∧
    gcmCtr (aesKeys key) iv c (chunksB k 16 (gcmCtr (aesKeys key) iv c (chunksB k 16 bs))) = bs := by
  induction k generalizing c bs with
  | zero =>
    obtain rfl : bs = [] := List.length_eq_zero_iff.mp (by omega)
    exact ⟨rfl, rfl⟩
  | succ k ih =>
    cases hbs : bs with
    | nil => exact ⟨rfl, rfl⟩
    | cons b r =>
      rw [← hbs]
      have hs := length_aesBlock key (iv ++ beBytes 4 c)
      generalize hstream : aesBlock (aesKeys key) (iv ++ beBytes 4 c) = stream at hs
      obtain ⟨hlen, hback⟩ := ih (c + 1) (bs := bs.drop 16) (by rw [List.length_drop]; omega)
      generalize hrest : gcmCtr (aesKeys key) iv (c + 1) (chunksB k 16 (bs.drop 16)) = rest at hlen hback
      have hct : gcmCtr (aesKeys key) iv c (chunksB (k + 1) 16 bs) = xorB (bs.take 16) stream ++ rest := by
        rw [hbs, chunksB, ← hbs, gcmCtr, hstream, hrest]
        exact List.cons_ne_nil b r
      have hfirst : (xorB (bs.take 16) stream).length = min 16 bs.length := by simp [hs]
      have hpos : 0 < bs.length := by simp [hbs]
      rw [hct]
      refine ⟨by rw [List.length_append, hfirst, hlen, List.length_drop]; omega, ?_⟩
      have htake : (xorB (bs.take 16) stream ++ rest).take 16 = xorB (bs.take 16) stream ∧ (xorB (bs.take 16) stream ++ rest).drop 16 = rest := by
        rcases Nat.lt_or_ge bs.length 16 with hlt | hge
        · have hnil : rest = [] := List.length_eq_zero_iff.mp (by rw [hlen, List.length_drop]; omega)
          rw [hnil, List.append_nil]
          exact ⟨List.take_of_length_le (by omega), List.drop_of_length_le (by omega)⟩
        · exact ⟨List.take_left' (by omega), List.drop_left' (by omega)⟩
      obtain ⟨x, l, hx⟩ : ∃ x l, xorB (bs.take 16) stream ++ rest = x :: l := by
        refine List.exists_cons_of_length_pos ?_
        rw [List.length_append]
        omega
      rw [hx, chunksB, ← hx, htake.1, htake.2, gcmCtr, hback, hstream, xorB_xorB_cancel (by rw [hs]; exact List.length_take_le 16 bs), List.take_append_drop]
      exact List.cons_ne_nil x l

/-- Settles O58: the cipher is a key stream that cancels itself, whose blocks are 16 bytes for every key, and the tag is compared whole. -/
theorem encryptedBytesDecrypt : Obligations.EncryptedBytesDecrypt := by
  intro key iv aad pt
  dsimp only
  obtain ⟨hlen, hback⟩ := gcmCtr_involutive key iv ((pt.length + 15) / 16) 2 (bs := pt) (by omega)
  refine ⟨hlen, ?_, fun tag htag => if_neg (Ne.symm htag)⟩
  have hct : (gcmEncrypt key iv aad pt).1 = gcmCtr (aesKeys key) iv 2 (blocks16 pt) := rfl
  have htag : gcmTag key iv aad (gcmEncrypt key iv aad pt).1 = (gcmEncrypt key iv aad pt).2 := rfl
  rw [gcmDecrypt, if_pos htag, hct, blocks16, blocks16, hlen, hback]

end Sys2Proof.Machine
end

section
/-! SUPPORT. A command whose meaning is one function of the device: what it makes of the state. Writes of BAR2 and BAR4 on a ready node. -/

namespace Sys2Proof.Machine

/-- A device function that answers `d` gives the command's effect `d`. -/
theorem State.run_to {s : State} {f : Dev → Dev} {d : Dev} (h : f s.dev = d) : s.run f = .next (s.went d) := h ▸ State.run_eq s f

theorem State.runQ_to {s : State} {f : QBuf → Dev → QBuf × Dev} {r : QBuf × Dev} (h : f s.qb s.dev = r) :
    s.runQ f = .next (s.wentQ r.1 r.2) := h ▸ State.runQ_eq s f

/-- A ready node takes a write of BAR2 or BAR4 at once (R398). -/
theorem barWrite_ready {i : Instr} {f : QBuf → Dev → QBuf × Dev} {qb : QBuf} {d : Dev} (h : d.pwr.state = .ready) :
    barWrite i f qb d = f qb d := by
  have hwake : d.wakeCause 1 = d := by simp only [Dev.wakeCause, h]
  have hasleep : d.asleep = false := by simp [Dev.asleep, h]
  simp only [barWrite, hwake, hasleep, Bool.false_eq_true, if_false]

theorem State.run_bar {s : State} {i : Instr} {f : Dev → Dev} {d : Dev} (hready : s.dev.pwr.state = .ready) (h : f s.dev = d) :
    s.runQ (barDev i f) = .next (s.went d) := by
  rw [State.runQ_to (r := (s.qb, d)) (by rw [barDev, barWrite_ready hready, h])]
  rfl

theorem Dev.onlyIn_mono {a b : List Blk} {d e : Dev} (h : d.onlyIn a e) (hab : ∀ x ∈ a, x ∈ b) : d.onlyIn b e :=
  fun x hx => h x (fun ha => hx (hab x ha))

theorem Dev.fresh_onlyIn (d : Dev) : d.onlyIn [.free] d.fresh.2 := by
  intro b hb
  cases b <;> simp_all [Blk.same, Dev.fresh]

end Sys2Proof.Machine
end

section
/-! The machine as a whole, handles and codes: what a step is, what power leaves, and what the codes read back. -/

open Sys2Proof

namespace Sys2Proof.Machine

/-! ### A step -/

/-- Settles O48: each clause is a branch of `step`, of `State.went` or of `Dev.portHeld`. -/
theorem stepRunsFrontCommand : Obligations.StepRunsFrontCommand := by
  refine ⟨fun _ _ _ => rfl, ?_, fun _ _ _ => ⟨rfl, rfl⟩, fun s d => ⟨fun h => if_pos h, fun h => ?_, fun h => ?_⟩⟩
  · intro s h
    rw [step, h]
  · rw [State.went, h]
    rfl
  · have hroom : ¬ 64 ≤ s.dev.rcv.jq.length := Nat.not_le.mpr h
    simp only [Dev.portHeld, hroom, decide_false, Bool.false_and]

/-! ### Reset -/

/-- The registers that are not 0 at reset are CAP of the eight region registers. -/
theorem reg_reset_of_ne {k : Nat} (h : ∀ n < 8, k ≠ rk (0x00400008 + 0x100 * n) 0) : Dev.reset.reg k = 0 := by
  have hnone : mget regsReset k = none := by
    refine Classical.byContradiction fun hsome => ?_
    obtain ⟨v, hv⟩ := Option.ne_none_iff_exists'.mp hsome
    have hmem : k ∈ regsReset.map Prod.fst := List.mem_map_of_mem (mem_of_mget hv)
    simp only [regsReset, List.map_map, List.mem_map, List.mem_range] at hmem
    obtain ⟨n, hn, rfl⟩ := hmem
    exact h n hn rfl
  rw [Dev.reg, mgetD]
  exact congrArg (Option.getD · 0) hnone

/-- Settles O49, from the model's reset values. -/
theorem resetHolds : Obligations.ResetHolds := by
  refine ⟨rfl, ⟨?_, ?_⟩, ⟨rfl, rfl⟩, rfl, rfl, rfl, rfl, rfl, fun _ => ⟨rfl, rfl, rfl⟩, rfl, rfl, rfl, rfl, rfl, rfl, ?_, fun _ => reg_reset_of_ne⟩
  · exact fun e he => nomatch he
  · exact fun e he => nomatch he
  · decide

/-! ### Handles and status codes -/

/-- A field put in below the rest reads back, and the rest reads as if it were not there. -/
theorem fld_pack_three (a b c : Nat) :
    fld (mkHandle a b c) 0 22 = a % 2 ^ 22 ∧ fld (mkHandle a b c) 22 12 = b % 2 ^ 12 ∧ fld (mkHandle a b c) 34 14 = c % 2 ^ 14 := by
  refine ⟨?_, ?_, ?_⟩
  all_goals
    refine Nat.eq_of_testBit_eq fun i => ?_
    simp only [mkHandle, pack, fld, Nat.testBit_mod_two_pow, Nat.testBit_shiftRight, Nat.testBit_or, Nat.testBit_shiftLeft, Nat.zero_testBit]
    grind

/-- Settles O59: the three fields of a handle lie beside each other, and the twelve codes are distinct. -/
theorem handlesAndCodesReadBack : Obligations.HandlesAndCodesReadBack := by
  refine ⟨fun slot node sgen hslot hnode hgen => ?_, fun st => ?_⟩
  · obtain ⟨h1, h2, h3⟩ := fld_pack_three slot node sgen
    exact ⟨h1.trans (Nat.mod_eq_of_lt hslot), h2.trans (Nat.mod_eq_of_lt hnode), h3.trans (Nat.mod_eq_of_lt hgen)⟩
  · cases st <;> exact ⟨rfl, by decide⟩

end Sys2Proof.Machine
end

section
/-! The pins, boundary scan, TDISP moves and the faults that stop a unit. -/

open Sys2Proof

namespace Sys2Proof.Machine

/-- Settles O10: with PWROK high an assertion is `heldReset` on the pin's new level; POWER_LOSS is `heldReset` whatever the pins. -/
theorem pinsResetTheNode : Obligations.PinsResetTheNode := by
  refine ⟨fun s => rfl, fun s hok => ?_, fun s => ⟨powerLossStep s, rfl, rfl, rfl, rfl, rfl, rfl⟩⟩
  have hperst : pinAssert { s.phys with perst := true } s = heldReset { s with phys := { s.phys with perst := true } } := if_pos hok
  have hnode : pinAssert { s.phys with nodeRst := true }.scan s = heldReset { s with phys := { s.phys with nodeRst := true }.scan } := if_pos hok
  refine ⟨_, _, congrArg Host.Outcome.next hperst, congrArg Host.Outcome.next hnode, rfl, rfl, fun x hx => ?_⟩
  rw [List.mem_cons, List.mem_singleton] at hx
  rcases hx with rfl | rfl
  · exact ⟨rfl, rfl, rfl, rfl, rfl, rfl, rfl⟩
  · exact ⟨rfl, rfl, rfl, rfl, rfl, rfl, rfl⟩

/-- A code that is none of the five instructions' selects BYPASS. -/
theorem load_of_unlisted {p : Phys} {c : Byte} (h : c.toNat ∉ [0, 1, 2, 4, 5]) : p.load c = { p with ir := c, jmode := .bypass } := by
  simp only [List.mem_cons, List.not_mem_nil, or_false, not_or] at h
  obtain ⟨h0, h1, h2, h4, h5⟩ := h
  rw [Phys.load, Phys.scan]
  dsimp only
  split
  · contradiction
  · contradiction
  · contradiction
  · contradiction
  · contradiction
  · rfl

/-- Settles O12: each instruction loads its code, whose mode `Phys.scan` gives. -/
theorem boundaryScan : Obligations.BoundaryScan := by
  intro s
  refine ⟨rfl, rfl, fun v => ?_, rfl, rfl, fun c hc => ?_⟩
  · exact ⟨_, rfl, rfl, rfl, rfl, rfl, Dev.onlyIn_mono (Dev.onlyIn_trans (Dev.fresh_onlyIn _) (Dev.emit_onlyIn _ _)) (by decide)⟩
  · exact (if_neg hc).trans (by rw [load_of_unlisted hc])

/-- A move whose source list holds the state of a VF. -/
theorem tdiMove_of_mem {src : List Nat} {dst f : Nat} {d : Dev} (h0 : 0 < f) (h17 : f < 17) (h : d.tdi f ∈ src) :
    tdiMove src dst f d = d.setFn f { d.fn f with tdi := dst } :=
  if_pos ⟨h17, Nat.ne_of_gt h0, List.contains_iff_mem.mpr h⟩

/-- Settles O6: the three commands are moves of one function. -/
theorem tdispMoves : Obligations.TdispMoves := by
  intro s f h0 h17
  refine ⟨fun h => ?_, fun h => ?_, fun h => ?_⟩
  · exact State.run_to (tdiMove_of_mem h0 h17 (by simp [h]))
  · exact State.run_to (tdiMove_of_mem h0 h17 (by simp [h]))
  · exact State.run_to (tdiMove_of_mem h0 h17 (by simpa using h))

/-- Settles O16: with the node started and not failed, each report stops the unit that it names. -/
theorem stoppingFaults : Obligations.StoppingFaults := by
  intro s hstart hfail
  refine ⟨fun e a he ha => State.run_to ?_, fun e a he ha => State.run_to ?_, fun x hx => State.run_to ?_⟩
  · have hgo : ¬ (!engineExists e ∨ 256 ≤ a ∨ s.dev.pwr.state = .starting ∨ s.dev.pwr.state = .failed) := by
      simp [he, hstart, hfail, Nat.not_le.mpr ha]
    rw [arrayErrorStep, if_neg hgo]
    simp only [List.contains_iff_mem]
  · have hgo : ¬ (!engineExists e ∨ 256 ≤ a ∨ s.dev.pwr.state = .starting ∨ s.dev.pwr.state = .failed) := by
      simp [he, hstart, hfail, Nat.not_le.mpr ha]
    rw [handshakeErrorStep, if_neg hgo]
    simp only [List.contains_iff_mem]
  · exact if_neg (by simp [hstart, hfail, Nat.not_le.mpr hx])

end Sys2Proof.Machine
end

section
/-! SUPPORT. Bits of fields and of register values, and a register write that reaches part of a field (R11). -/

namespace Sys2Proof.Machine

/-- A field of one bit is that bit. -/
theorem fld_one_eq_one (n i : Nat) : decide (fld n i 1 = 1) = n.testBit i := by
  rw [fld, Nat.testBit_eq_decide_div_mod_eq, Nat.shiftRight_eq_div_pow, Nat.pow_one]

@[simp] theorem fld_toNat_one_eq_one {w : Nat} (x : BitVec w) (i : Nat) : decide (fld x.toNat i 1 = 1) = x.getLsbD i := by
  rw [fld_one_eq_one, BitVec.testBit_toNat]

theorem testBit_fld (n lo w i : Nat) : (fld n lo w).testBit i = (decide (i < w) && n.testBit (lo + i)) := by
  rw [fld, Nat.testBit_mod_two_pow, Nat.testBit_shiftRight]

/-- Bits inside the replaced field are the value's, and all others stay. -/
theorem testBit_setFld (n lo w v i : Nat) :
    (setFld n lo w v).testBit i = if lo ≤ i ∧ i < lo + w then v.testBit (i - lo) else n.testBit i := by
  have hlaid : setFld n lo w v = 2 ^ lo * (2 ^ w * (n >>> (lo + w)) + v % 2 ^ w) + n % 2 ^ lo := by
    rw [setFld, Nat.shiftLeft_eq, Nat.shiftLeft_eq, Nat.pow_add]
    simp only [Nat.mul_add, Nat.mul_comm, Nat.mul_left_comm, Nat.add_comm, Nat.add_left_comm]
  rw [hlaid, Nat.testBit_two_pow_mul_add _ (Nat.mod_lt _ (Nat.two_pow_pos lo)), Nat.testBit_two_pow_mul_add _ (Nat.mod_lt _ (Nat.two_pow_pos w)),
    Nat.testBit_mod_two_pow, Nat.testBit_mod_two_pow, Nat.testBit_shiftRight]
  rcases Nat.lt_or_ge i lo with hlow | hlow
  · simp [hlow, Nat.not_le.mpr hlow]
  · rcases Nat.lt_or_ge i (lo + w) with hin | hhigh
    · have hrest : i - lo < w := by omega
      simp [Nat.not_lt.mpr hlow, hlow, hin, hrest]
    · have hrest : ¬ i - lo < w := by omega
      have hback : lo + w + (i - lo - w) = i := by omega
      simp [Nat.not_lt.mpr hlow, Nat.not_lt.mpr hhigh, hrest, hback]

/-- A write of `n` bits at bit address `a` gives a field at `key` the bits that it reaches. -/
theorem testBit_fieldPut {key w old a n v i : Nat} (hi : i < w) :
    (fieldPut key w old a n v).testBit i = if a ≤ key + i ∧ key + i < a + n then v.testBit (key + i - a) else old.testBit i := by
  have hcut : fieldPut key w old a n v = if min (key + w) (a + n) ≤ max key a then old else
      setFld old (max key a - key) (min (key + w) (a + n) - max key a) (fld v (max key a - a) (min (key + w) (a + n) - max key a)) := rfl
  rw [hcut]
  split
  next hmiss => rw [if_neg (by omega)]
  next hreach =>
    rw [testBit_setFld, testBit_fld]
    by_cases hin : a ≤ key + i ∧ key + i < a + n
    · rw [if_pos hin, if_pos (by omega), decide_eq_true (by omega), Bool.true_and]
      congr 1
      omega
    · rw [if_neg hin, if_neg (by omega)]

/-- A write that reaches nothing of a field leaves it. -/
theorem fieldPut_of_missed {key w old a n v : Nat} (h : min (key + w) (a + n) ≤ max key a) : fieldPut key w old a n v = old := if_pos h

/-- The RW fields have addresses of their own. -/
theorem rwFields_key_injective : ∀ f ∈ rwFields, ∀ g ∈ rwFields, g.1 = f.1 → g = f := by decide

/-- A field of 8 bits that a 64-bit write covers takes its bits of the value. -/
theorem fieldPut_of_covered {key w old a n v : Nat} (hold : old < 2 ^ w) (hlo : a ≤ key) (hhi : key + w ≤ a + n) :
    fieldPut key w old a n v = fld v (key - a) w := by
  refine Nat.eq_of_testBit_eq fun i => ?_
  rcases Nat.lt_or_ge i w with hi | hi
  · rw [testBit_fieldPut hi, if_pos (by omega), testBit_fld, decide_eq_true hi, Bool.true_and]
    congr 1
    omega
  · have hsmall : fieldPut key w old a n v < 2 ^ w := by
      refine Nat.lt_pow_two_of_testBit _ fun j hj => ?_
      have hmax : max key a = key := by omega
      have hmin : min (key + w) (a + n) = key + w := by omega
      simp only [fieldPut, hmax, hmin, Nat.sub_self, Nat.add_sub_cancel_left]
      split
      · exact Nat.testBit_lt_two_pow (Nat.lt_of_lt_of_le hold (Nat.pow_le_pow_right (by omega) hj))
      · rw [testBit_setFld, if_neg (by omega)]
        exact Nat.testBit_lt_two_pow (Nat.lt_of_lt_of_le hold (Nat.pow_le_pow_right (by omega) hj))
    rw [Nat.testBit_lt_two_pow (Nat.lt_of_lt_of_le hsmall (Nat.pow_le_pow_right (by omega) hi)), testBit_fld, decide_eq_false (by omega), Bool.false_and]

end Sys2Proof.Machine
end

section
/-! Register writes, W1C writes and doorbells (R11, R308). -/

open Sys2Proof

namespace Sys2Proof.Machine

/-! ### Writes of BAR0 and BAR2 -/

theorem bar0Write_of_open {d : Dev} {off width : Nat} (v : W64) (hopen : d.bar0Open = true) (hacc : accOk off width = true) :
    bar0Write off width v d = d.setRegs (rwFields.map (fun f => (f.1, fieldPut f.1 f.2 (d.reg f.1) (rk off 0) width v.toNat))) := by
  rw [bar0Write, hopen, hacc]
  rfl

theorem bar2Write_vec {d : Dev} {f : Nat} {t : Bool} (v : W64) (h : d.barOpen f t = true) :
    bar2Write f t 0x28 64 v d = d.setFn f ((d.fn f).put (rk 0x28 0) 64 v.toNat) := by
  rw [bar2Write, h]
  rfl

/-- Settles O1: on BAR0 each RW field takes the bits that the write reaches; on BAR2 the write covers both vectors and reaches no ring size. -/
theorem registerWritesSetRwFields : Obligations.RegisterWritesSetRwFields := by
  refine ⟨fun s off width v hopen hacc => ?_, fun s f t v hhears hvec heq hoff => ?_⟩
  · refine ⟨_, State.run_to (bar0Write_of_open v hopen hacc), fun f hf i hi => ?_, fun k hk => ?_, Dev.setRegs_onlyIn _ _⟩
    · rw [Dev.reg_setRegs_mem _ _ f.1 (fieldPut f.1 f.2 (s.dev.reg f.1) (rk off 0) width v.toNat), testBit_fieldPut hi]
      · exact ⟨_, List.mem_map_of_mem hf, rfl⟩
      · intro e he hkey
        obtain ⟨g, hg, rfl⟩ := List.mem_map.mp he
        rw [rwFields_key_injective f hf g hg hkey]
    · refine Dev.reg_setRegs_out _ _ _ fun e he => ?_
      obtain ⟨g, hg, rfl⟩ := List.mem_map.mp he
      exact hk g hg
  · obtain ⟨hready, hbar⟩ := hhears
    refine ⟨_, State.run_bar hready (bar2Write_vec v hbar), ?_⟩
    have hput : (s.dev.fn f).put (rk 0x28 0) 64 v.toNat = _ := if_neg (by simp [hoff])
    rw [hput]
    have hmiss (key w old : Nat) (hout : key + w ≤ rk 0x28 0 ∨ rk 0x28 0 + 64 ≤ key) : fieldPut key w old (rk 0x28 0) 64 v.toNat = old :=
      fieldPut_of_missed (by omega)
    exact ⟨fieldPut_of_covered (key := rk 0x28 0) (w := 8) (a := rk 0x28 0) (n := 64) hvec (by decide) (by decide),
      fieldPut_of_covered (key := rk 0x28 8) (w := 8) (a := rk 0x28 0) (n := 64) heq (by decide) (by decide), rfl, rfl, rfl, rfl, rfl, rfl,
      hmiss (rk 0x48 0) 12 _ (by decide), hmiss (rk 0x10 0) 5 _ (by decide), hmiss (rk 0x18 0) 5 _ (by decide), hmiss (rk 0x20 0) 5 _ (by decide)⟩

/-! ### W1C -/

/-- A bit inside the access: the hardware sets it, or it stays where it was set and the write does not clear it. -/
theorem w1cBit_of_covered {key a n : Nat} {old : Bool} {v hw : W64} (hlo : a ≤ key) (hhi : key < a + n) :
    w1cBit key old a n v.toNat hw.toNat = (hw.getLsbD (key - a) || (old && !v.getLsbD (key - a))) := by
  simp only [w1cBit, hlo, hhi, and_self, decide_true, Bool.true_and, fld_toNat_one_eq_one]

theorem bar2Clear_status {d : Dev} {f : Nat} {t : Bool} (v hw : W64) (h : d.barOpen f t = true) :
    bar2Clear f t 0 32 v hw d = d.setFn f { d.fn f with eqOvf := hw.getLsbD 6 || ((d.fn f).eqOvf && !v.getLsbD 6) } := by
  rw [bar2Clear, h, w1cBit_of_covered (by decide) (by decide)]
  rfl

/-- Settles O2: both bits lie inside the access, and each register has that one W1C bit. -/
theorem w1cClears : Obligations.W1cClears := by
  refine ⟨fun s v hw hopen => ?_, fun s f t v hw hhears => ?_⟩
  · have hstep : bar0Clear 0x01200008 32 v hw s.dev = s.dev.setReg (rk 0x01200008 16)
        (b2n (hw.getLsbD 16 || (decide (s.dev.reg (rk 0x01200008 16) = 1) && !v.getLsbD 16))) := by
      rw [bar0Clear, hopen]
      dsimp only
      rw [w1cBit_of_covered (by decide) (by decide)]
      rfl
    exact ⟨_, State.run_to hstep, Dev.reg_setReg_self _ _ _, fun k hk => Dev.reg_setReg_ne _ _ _ _ hk, Dev.setRegs_onlyIn _ [(_, _)]⟩
  · obtain ⟨hready, hbar⟩ := hhears
    exact State.run_bar hready (bar2Clear_status v hw hbar)

/-! ### Doorbells -/

/-- A queue after the head doorbell `v`: HEAD modulo the ring, and armed by bit 16. -/
def Cq.rung (c : Cq) (v : W32) : Cq :=
  { c with head := v.toNat % 2 ^ 16 % 2 ^ c.log2, armed := c.armed || v.getLsbD 16, since := if v.getLsbD 16 && !c.armed then 0 else c.since }

theorem doorbell_eq (c : Cq) (v : W32) : c.doorbell (v.toNat % 2 ^ 16) (decide (fld v.toNat 16 1 = 1)) = c.rung v := by
  rw [fld_toNat_one_eq_one]
  rfl

/-- Settles O4: an open page passes every doorbell's check, and what it names exists. -/
theorem doorbells : Obligations.Doorbells := by
  refine ⟨⟨?_, ?_, ?_⟩, ?_, ?_⟩
  · rintro s f n t v q ⟨hready, hbar⟩ hq
    refine State.run_bar hready ?_
    simp only [sqTailStep, hbar, Bool.not_true, Bool.false_eq_true, if_false, hq]
  · rintro s f c n t v ⟨hready, hbar⟩ hn hstate
    refine State.run_bar hready ?_
    simp only [chTailStep, hbar, Bool.not_true, Bool.false_eq_true, if_false, hn, hstate]
  · rintro s f t v ⟨hready, hbar⟩ hen
    exact State.run_bar hready (if_pos (by rw [hbar, hen]; rfl))
  · rintro s f n t v c ⟨hready, hbar⟩ hc
    refine ⟨c.rung v, ⟨rfl, rfl, rfl, rfl, rfl, rfl, rfl, rfl, rfl⟩, State.run_bar hready ?_⟩
    simp only [cqHeadStep, hbar, Bool.not_true, Bool.false_eq_true, if_false, hc, doorbell_eq]
  · rintro s f t v ⟨hready, hbar⟩ hen
    have hgo : (s.dev.barOpen f t && (s.dev.fn f).enable) = true := by rw [hbar, hen]; rfl
    refine ⟨⟨(s.dev.fn f).acq.rung v, ⟨rfl, rfl, rfl, rfl, rfl, rfl, rfl, rfl, rfl⟩, State.run_bar hready ?_⟩,
      ⟨(s.dev.fn f).eq.rung v, ⟨rfl, rfl, rfl, rfl, rfl, rfl, rfl, rfl, rfl⟩, State.run_bar hready ?_⟩⟩
    · rw [acqHeadStep, if_pos hgo, doorbell_eq]
    · rw [eqHeadStep, if_pos hgo, doorbell_eq]

/-! ### Functions -/

theorem fnEnableStep_of_open {d : Dev} {f : Nat} {t : Bool} (hbar : d.barOpen f t = true) (hawake : d.awake = true)
    (hoff : (d.fn f).enable = false) (hcalm : (d.fn f).resetting = false)
    (hlogs : ∀ l ∈ [(d.fn f).asqLog, (d.fn f).acqLog, (d.fn f).eqLog], 4 ≤ l ∧ l ≤ 12) :
    fnEnableStep f t d = d.setFn f { d.fn f with
      enable := true, asqHead := 0, asqTail := 0,
      acq := ⟨(d.fn f).acqBase, (d.fn f).acqLog, (d.fn f).vecAcq, 1, 0, 0, true, 0, false, 0⟩,
      eq := ⟨(d.fn f).eqBase, (d.fn f).eqLog, (d.fn f).vecEq, 1, 0, 0, true, 0, false, 0⟩ } := by
  simp only [List.forall_mem_cons] at hlogs
  obtain ⟨hasq, hacq, heq, -⟩ := hlogs
  simp only [fnEnableStep, hbar, hawake, hoff, hcalm, hasq, hacq, heq, and_self, decide_true, Bool.not_true, Bool.or_false, Bool.false_eq_true, if_false]

/-- The event of one VF that is not locked. -/
theorem flrStep_of_unlocked {d : Dev} {f : Nat} (hlink : d.dma.linkup = true) (h0 : 0 < f) (h17 : f < 17) (htdi : d.tdi f = 1) :
    flrStep f d = d.fnEvent f false true 6 := by
  have hgo : ¬ (17 ≤ f ∨ (!d.dma.linkup) = true) := by simp [hlink, h17]
  have hvf : f ≠ 0 := by omega
  simp only [flrStep, hgo, if_false, hvf, ne_eq, not_false_eq_true, if_true, htdi, Nat.reduceLeDiff, false_and]

/-- Settles O5: an open function passes FUNCTION_ENABLE's checks; each event command reaches `Dev.fnEvent` of its functions. -/
theorem functionsStartAndEnd : Obligations.FunctionsStartAndEnd := by
  refine ⟨?_, ?_, ?_, ?_, ?_⟩
  · rintro s f t ⟨hready, hbar⟩ hawake hoff hcalm hlogs
    exact ⟨_, State.run_bar hready (fnEnableStep_of_open hbar hawake hoff hcalm hlogs), rfl, rfl, rfl, rfl, rfl, rfl, rfl, rfl, rfl, rfl, rfl, rfl, rfl, rfl⟩
  · rintro s f t ⟨hready, hbar⟩ hen
    exact State.run_bar hready (if_pos (by rw [hbar, hen]; rfl))
  · exact fun s f hlink h0 h17 htdi => State.run_to (flrStep_of_unlocked hlink h0 h17 htdi)
  · exact fun s f h17 htdi => State.run_to (if_pos ⟨h17, htdi⟩)
  · exact fun s hlink => State.run_to (if_neg (by simp [hlink]))

end Sys2Proof.Machine
end

section
/-! Start-up, power, resets and the journal (R373 to R379, R388 to R398). -/

open Sys2Proof

namespace Sys2Proof.Machine

/-! ### The journal and the NOR -/

theorem commitStep_of_queued {m : Mram} {d : Dev} (hup : d.rcv.jstate = 1) (hq : d.rcv.jq ≠ []) :
    commitStep true m d = ((commitOne m d).1, (commitOne m d).2.tdNext) := by
  have hgo : ¬ (d.rcv.jstate ≠ 1 ∨ d.rcv.jq.isEmpty = true) := by simp [hup, hq]
  rw [commitStep, if_neg hgo]
  rfl

/-- Settles O17: the commit writes the queue's head, the release and the poll take the branch of a valid record and of a step with more to come. -/
theorem commitsReleasesAndPolls : Obligations.CommitsReleasesAndPolls := by
  refine ⟨fun s hup hq => ⟨?_, ?_⟩, fun s i x hopen hx hvalid => State.run_to ?_, fun s x r hop hr => ?_⟩
  · change s.runM (commitStep true) = _
    simp only [State.runM, commitStep_of_queued hup hq]
    rfl
  · obtain ⟨e, q, hjq⟩ := List.exists_cons_of_ne_nil hq
    refine ⟨e, q, hjq, ?_⟩
    rw [commitOne, hjq]
    exact ⟨rfl, rfl⟩
  · simp only [hopen, if_true, recReleaseStep, hx, hvalid]
  · have hmore : r.isEmpty = false := by simpa using hr
    have hpoll : norPollStep true true s.nor s.dev = (norDo s.nor x, { s.dev with pwr := { s.dev.pwr with norOp := r } }) := by
      simp only [norPollStep, hop, hmore, Bool.not_true, Bool.false_eq_true, if_false]
    change (let p := norPollStep true true s.nor s.dev; ({ s with nor := p.1, dev := p.2 } : State).goOn) = _
    rw [hpoll]
    rfl

/-! ### Resets -/

/-- A ready node need not wake before a reset. -/
theorem wakeFirst_of_ready {s : State} (h : s.dev.pwr.state = .ready) : wakeFirst s = s := by
  have hcause : s.dev.wakeCause 5 = s.dev := by simp only [Dev.wakeCause, h]
  have hexpiry : wakeExpiry (List.range 32) s.qb s.dev = (s.qb, s.dev) := if_pos (by simp [h])
  simp only [wakeFirst, hcause, hexpiry]

/-- A reset of level 1 to 4 of a ready node whose target answers and whose digest matches. -/
theorem runReset_low {r : ResetRun} {env : StartEnv} {s : State} (hready : s.dev.pwr.state = .ready) (hlow : r.level ≤ 4) :
    runReset r true true env s =
      let b := beginReset r s.mram s.dev
      let x := b.2.resetEffect r
      let e := endReset r b.1 (if r.level = 4 then x.resumeAll else x)
      { s with mram := e.1, dev := e.2 } := by
  simp only [runReset, wakeFirst_of_ready hready, if_pos hlow, lowReset, Bool.not_true, Bool.false_eq_true, and_false, if_false]

/-- A compute-only chip reset whose firmware digest does not match does not complete (R370). -/
theorem runReset_digest {env : StartEnv} {s : State} (hready : s.dev.pwr.state = .ready) :
    runReset ⟨4, 0, 0, 0⟩ true false env s =
      let b := beginReset ⟨4, 0, 0, 0⟩ s.mram s.dev
      { s with mram := b.1, dev := (b.2.computeReset.stop (14 * 4096) 5).fault { code := 0x83, engine := 14 * 4096, level := 5 } true [] } := by
  have heffect (d : Dev) : d.resetEffect ⟨4, 0, 0, 0⟩ = d.computeReset := rfl
  simp only [runReset, wakeFirst_of_ready hready, Nat.le_refl, if_true, lowReset, Bool.not_true, Bool.false_eq_true, if_false, Bool.not_false, and_self, heffect]

theorem driverReset_of_accepted {l k t : Nat} {a g : Bool} {env : StartEnv} {s : State} (hready : s.dev.pwr.state = .ready)
    (h : s.dev.resetCase l k t = 0) : driverReset l k t a g env s = runReset ⟨l, k, t, 0⟩ a g env s := by
  have hup : ¬ (s.dev.pwr.state = .starting ∨ s.dev.pwr.state = .failed) := by simp [hready]
  rw [driverReset, if_neg hup, h]
  rfl

theorem mgmtReset_of_accepted {l k t : Nat} {a g : Bool} {env : StartEnv} {s : State} (hready : s.dev.ready = true)
    (h : s.dev.resetCase l k t = 0) : mgmtReset l k t a g env s = runReset ⟨l, k, t, 1⟩ a g env s := by
  rw [mgmtReset, hready, h]
  rfl

/-- What such a reset makes of the state, with what goes on after it. -/
theorem goOn_runReset_low {r : ResetRun} {env : StartEnv} {s : State} (hready : s.dev.pwr.state = .ready) (hlow : r.level ≤ 4) :
    (runReset r true true env s).goOn =
      let b := beginReset r s.mram s.dev
      let x := b.2.resetEffect r
      let e := endReset r b.1 (if r.level = 4 then x.resumeAll else x)
      .next { s with mram := e.1, dev := e.2.after s.qb } := by
  rw [runReset_low hready hlow]
  rfl

theorem exec_reset_of_accepted {c : Instr} {l k t : Nat} {env : StartEnv} {s : State} (hexec : exec c s = (driverReset l k t true true env s).goOn)
    (hready : s.dev.pwr.state = .ready) (hlow : l ≤ 4) (h : s.dev.resetCase l k t = 0) :
    exec c s =
      let r : ResetRun := ⟨l, k, t, 0⟩
      let b := beginReset r s.mram s.dev
      let x := b.2.resetEffect r
      let e := endReset r b.1 (if r.level = 4 then x.resumeAll else x)
      .next { s with mram := e.1, dev := e.2.after s.qb } := by
  rw [hexec, driverReset_of_accepted hready h, goOn_runReset_low hready hlow]

/-- Settles O15: an accepted request of a ready node is `runReset`, at every level. -/
theorem resetsComplete : Obligations.ResetsComplete := by
  refine ⟨fun s hready => ⟨fun k t h => ?_, fun e h => ?_, fun p h => ?_, fun h => ?_, fun h => ?_, fun l k t env hup hasked hlow h => ?_⟩,
    fun s hready => ⟨fun env h => ?_, fun h => ?_⟩⟩
  · exact exec_reset_of_accepted rfl hready (by decide) h
  · exact exec_reset_of_accepted rfl hready (by decide) h
  · exact exec_reset_of_accepted rfl hready (by decide) h
  · exact exec_reset_of_accepted rfl hready (by decide) h
  · have hexec : exec (.computeOnlyChipReset true false) s = (driverReset 4 0 0 true false noStart s).goOn := rfl
    rw [hexec, driverReset_of_accepted hready h, runReset_digest hready]
    simp only [State.goOn]
  · have hexec : exec (.reset l k t true true env) s = (mgmtReset l k t true true env s).goOn := if_pos hasked
    exact hexec.trans ((congrArg State.goOn (mgmtReset_of_accepted hup h)).trans (goOn_runReset_low hready hlow))
  · have hexec : exec (.fullChipReset env) s = (driverReset 5 0 0 true true env s).goOn := rfl
    rw [hexec, driverReset_of_accepted hready h, runReset, wakeFirst_of_ready hready]
    rfl
  · have hexec : exec .powerCycle s = (driverReset 6 0 0 true true noStart s).goOn := rfl
    rw [hexec, driverReset_of_accepted hready h, runReset, wakeFirst_of_ready hready]
    rfl

/-! ### Dormant -/

theorem wakeCause_of_dormant {d : Dev} (bit : Nat) (h : d.pwr.state = .dormant) :
    d.wakeCause bit = { d with pwr := { d.pwr with state := .waking, causes := 2 ^ bit } } := by
  simp only [Dev.wakeCause, h]

theorem dormantStep_of_idle {d : Dev} (hready : d.pwr.state = .ready) (hrun : d.rcv.run = none) (hsole : ∀ m ∈ d.pwr.inflight, m.opc = 0x0502)
    (hwaits : d.pwr.waits = []) (hnor : d.pwr.norOp = []) (htd : d.sec.td = none) :
    dormantStep d = (d.setPower .entering).mgmtDone 0x0502 0 [] := by
  have hothers : d.pwr.inflight.filter (fun m => decide (m.opc ≠ 0x0502)) = [] := List.filter_eq_nil_iff.mpr (by simpa using hsole)
  simp only [dormantStep, hready, hrun, hothers, hwaits, hnor, htd]
  rfl

/-- Settles O14: each command's condition holds, and the wake commands are `Dev.wakeCause` of a Dormant node. -/
theorem powerStates : Obligations.PowerStates := by
  refine ⟨fun s sp w hok hperst hstart hpos hsp hw => State.run_to (if_neg ?_), fun s hready hrun hsole hwaits hnor htd hasked => State.run_to ?_,
    fun s hdorm => ⟨State.run_to ?_, fun hok => State.run_to ?_, fun n l hl hlpi => State.run_to ?_⟩, fun s up hwake => ?_⟩
  · simp [hok, hperst, hstart, Nat.pos_iff_ne_zero.mp hpos, Nat.not_le.mpr hsp, hw]
  · rw [Dev.asks_pos hasked, dormantStep_of_idle hready hrun hsole hwaits hnor htd]
  · simp only [hdorm, or_true, if_true]
    exact wakeCause_of_dormant 0 hdorm
  · simp only [hok, if_true]
    exact wakeCause_of_dormant 4 hdorm
  · simp only [lpiExitStep, hl, hlpi, if_true]
    exact wakeCause_of_dormant 3 hdorm
  · exact State.runQ_to (if_neg (by simp [hwake]))

/-! ### Start-up -/

theorem goOn_fullChip (env : StartEnv) (s : State) :
    (fullChip env s).goOn = .next { s with
      qb := ⟨[], []⟩, mram := (startSteps env s.nor s.mram s.dev.fullReset).1,
      dev := (startSteps env s.nor s.mram s.dev.fullReset).2.after ⟨[], []⟩, phys := s.phys.lost } := by
  rw [State.goOn, fullChip]

/-- Settles O11: the release that leaves neither pin asserted is `fullChip`, and each failure is one branch of the steps. -/
theorem startUpRuns : Obligations.StartUpRuns := by
  refine ⟨⟨fun s env hok hperst hnode => ?_, fun s env hok hperst hnode => ?_, fun s env hperst hnode => ?_⟩, fun env nor m d => ⟨?_, ?_, ?_⟩⟩
  · have hexec : exec (.perstRelease env) s = (releaseStep env { s.phys with perst := false } s).goOn := if_pos hperst
    have hlast : releaseStep env { s.phys with perst := false } s = fullChip env { s with phys := { s.phys with perst := false } } :=
      if_pos (by simp [hok, hnode])
    refine ⟨_, hexec.trans ((congrArg State.goOn hlast).trans (goOn_fullChip env _)), ⟨rfl, ?_, rfl, rfl⟩, rfl⟩
    dsimp only
  · have hexec : exec (.nodeRstRelease env) s = (releaseStep env { s.phys with nodeRst := false }.scan s).goOn := if_pos hnode
    have hlast : releaseStep env { s.phys with nodeRst := false }.scan s = fullChip env { s with phys := { s.phys with nodeRst := false }.scan } :=
      if_pos (by simp [Phys.scan, hok, hperst])
    refine ⟨_, hexec.trans ((congrArg State.goOn hlast).trans (goOn_fullChip env _)), ⟨rfl, ?_, rfl, rfl⟩, rfl⟩
    dsimp only
  · have hexec : exec (.perstRelease env) s = (releaseStep env { s.phys with perst := false } s).goOn := if_pos hperst
    have hheld : releaseStep env { s.phys with perst := false } s = { s with phys := { s.phys with perst := false } } := if_neg (by simp [hnode])
    exact hexec.trans (congrArg State.goOn hheld)
  · intro hsram
    simp [startSteps, hsram, Dev.startFails]
  · rintro hsram (hnor | hsel)
    · simp [startSteps, hsram, hnor, Dev.startFails]
    · cases hnor : env.norOk <;> simp [startSteps, hsram, hnor, hsel, Dev.startFails]
  · intro i slot f x hsram hnor hsel himage
    simp [startSteps, hsram, hnor, hsel, himage, Dev.startFails]

end Sys2Proof.Machine
end

section
/-! Bus errors (R303, R327) and evidence (R303, R355, R357). -/

open Sys2Proof

namespace Sys2Proof.Machine

/-- A control write of a channel acts at once: of DMA_CP_CTL it is a write of BAR2, which a function that hears takes. -/
theorem ctlWrite_of_heard {i : Instr} {page : Option Bool} {f : QBuf → Dev → QBuf × Dev} {qb : QBuf} {d : Dev} {fn : Nat}
    (h : ∀ t, page = some t → d.hears fn t) : ctlWrite i page f qb d = f qb d := by
  cases page with
  | none => rfl
  | some t => exact barWrite_ready (h t rfl).1

theorem ctlOpen_of_heard {d : Dev} {ch : Nat} {page : Option Bool} (h : ∀ t, page = some t → d.hears (d.chOwner ch) t) :
    d.ctlOpen ch page = true := by
  cases page with
  | none => rfl
  | some t => exact (h t rfl).2

theorem busErrorStep_of_running {d : Dev} {ch cause : Nat} {a : W64} {j : ChJob} (hch : ch < 64) (hpos : 0 < cause) (hcause : cause < 8)
    (hown : d.chOwner ch < 17) (hstate : (d.chan ch).state = 2) (hjob : (d.chan ch).job = some j) :
    busErrorStep ch cause a d = d.chHalts ch cause (decide (cdSsp j.desc ≠ 0)) j.idx (j.got - j.held.length) a (cdInfo (d.chOwner ch) j.desc) := by
  have hgo : ¬ (64 ≤ ch ∨ cause = 0 ∨ 8 ≤ cause) := by omega
  have hnode : d.chOwner ch ≠ 17 := by omega
  have hfn : ¬ 17 < d.chOwner ch := by omega
  simp only [busErrorStep, hgo, hnode, hfn, hjob, hstate, if_false, ne_eq, not_true_eq_false]

theorem skipStep_of_halted {d : Dev} {ch : Nat} {page : Option Bool} {j : ChJob} (hch : ch < 64) (hstate : (d.chan ch).state = 3)
    (hjob : (d.chan ch).job = some j) (hopen : d.ctlOpen ch page = true) : skipStep ch page d = d.skipDesc ch := by
  have hgo : ¬ (64 ≤ ch ∨ (d.chan ch).state ≠ 3 ∨ (!d.ctlOpen ch page) = true) := by simp [hstate, hopen, hch]
  simp only [skipStep, hgo, if_false, hjob, Option.isSome_some, if_true]

/-- SKIP of a descriptor none of whose entries waits in the journal's queue. -/
theorem skipDesc_of_quiet {d : Dev} {ch : Nat} {j : ChJob} (hjob : (d.chan ch).job = some j) (hquiet : ∀ e ∈ d.rcv.jq, wf e.data 144 16 ≠ 5 * 4096 + ch) :
    ∃ v, d.skipDesc ch = (({ d with free := d.free + 1 }).setChan ch
      { d.chan ch with state := 1, job := none, errAddr := 0, err := 0, crcKind := cdCrc j.desc, crcRun := v }).cdAnswer ch (d.chOwner ch) (d.chan ch) j.desc j.idx .tierError 0 := by
  have hnone : ¬ d.rcv.jq.any (fun e => decide (wf e.data 144 16 = 5 * 4096 + ch)) = true := by simpa using hquiet
  refine ⟨d.fresh.1.toNat % (crcOnes (cdCrc j.desc) + 1), ?_⟩
  simp only [Dev.skipDesc, hjob]
  exact if_neg hnone

/-- Settles O9: a bus error of a running descriptor halts its channel, SKIP ends the descriptor, and a failed IDE check names no channel here. -/
theorem busErrorsHaltAndSkip : Obligations.BusErrorsHaltAndSkip := by
  refine ⟨fun s ch cause a j hch hpos hcause hown hstate hjob => State.run_to ?_, fun s ch page j hch hstate hjob hhears hquiet => ?_,
    fun s st a x hx => State.run_to ?_⟩
  · rw [busErrorStep_of_running hch hpos hcause hown hstate hjob]
    rfl
  · obtain ⟨v, hv⟩ := skipDesc_of_quiet hjob hquiet
    refine ⟨v, ?_⟩
    rw [← hv, ← skipStep_of_halted hch hstate hjob (ctlOpen_of_heard hhears)]
    exact State.runQ_to (ctlWrite_of_heard hhears)
  · simp only [ideFailStep, hx, Option.isNone_some, Bool.false_eq_true, if_false, mmod]

theorem getReportStep_of_room {d : Dev} {nonce : Bytes} {t : Nat} {nw : Bool} (hready : d.ready = true) (hlen : nonce.length = 64)
    (hwho : nw = true ∨ d.active t = true) (hroom : d.mgmtRoom 0x0105 (6264 + 80 * (d.repEntries (if nw then none else some t)).length) = true) :
    getReportStep nonce t nw d = (let who := if nw then none else some t
      let d1 := d.bump (rk 0x01100018 0) 64 1
      d1.mgmtDone 0x0105 0 (d1.repBody nonce who ++ sliceB (Config.falconSign (d1.layerSeed "ALIAS") (d1.repBody nonce who)) 0 1280)) := by
  have hallowed : (!nw && !d.active t) = false := by
    rcases hwho with h | h
    · simp [h]
    · simp [h]
  simp only [getReportStep, hready, hallowed, hlen, hroom, Bool.not_true, Bool.false_eq_true, if_false, ne_eq, not_true_eq_false, or_self]

theorem ideKmStep_of_ready {d : Dev} {st fn : Nat} {msgs : Bytes} (hlink : d.dma.linkup = true) (hid : d.sec.identity = true) (hfn : fn < 17)
    (hst : st < 256) (hroom : (mget d.dma.ides st = none ∧ d.dma.ides.length < 17) ∨ (∃ x, mget d.dma.ides st = some x ∧ x.fn = fn)) :
    ideKmStep st fn msgs d = if Config.ideKmCompletes msgs then { d with dma := { d.dma with ides := mset d.dma.ides st ⟨fn, true⟩ } } else d := by
  have hin : ¬ (17 ≤ fn ∨ 256 ≤ st) := by omega
  simp only [ideKmStep, hlink, hid, hin, decide_false, Bool.not_true, Bool.or_self, Bool.false_or]
  cases Config.ideKmCompletes msgs with
  | false => rfl
  | true =>
    rcases hroom with ⟨hnone, hfree⟩ | ⟨x, hx, hown⟩
    · simp [hnone, hfree]
    · simp [hx, hown]

/-- Settles O45: the security block runs, so each command's step is taken, and its rule is met. -/
theorem evidenceIsAnswered : Obligations.EvidenceIsAnswered := by
  intro s hrun
  refine ⟨fun nonce t nw hready hlen hwho hroom => ?_, fun hready hroom hasked => ?_, fun req hlink hid => ?_, fun st fn msgs hlink hid hfn hst hroom => ?_⟩
  · change s.run (Dev.gate [13] (getReportStep nonce t nw)) = _
    rw [State.run_gate_of_running hrun, getReportStep_of_room hready hlen hwho hroom]
  · change s.run (Dev.asks .getCert (Dev.gate [13] getCertStep)) = _
    refine State.run_to ?_
    rw [Dev.asks_pos hasked, Dev.gate_of_running hrun]
    simp only [getCertStep, Dev.cmdData, hready, hroom]
    rfl
  · change s.run (Dev.gate [13] (spdmStep req)) = _
    rw [State.run_gate_of_running hrun, spdmStep, hlink, hid]
    rfl
  · change s.run (Dev.gate [13] (ideKmStep st fn msgs)) = _
    rw [State.run_gate_of_running hrun, ideKmStep_of_ready hlink hid hfn hst hroom]

end Sys2Proof.Machine
end

section
/-! Admin entries and SQ entries (R310 to R316), apertures and channels (R319 to R327). -/

open Sys2Proof

namespace Sys2Proof.Machine

/-! ### Admin entries -/

/-- Counting bytes of a channel changes its byte count alone. -/
theorem Dev.reg_chCount_ne (d : Dev) (ch : Option Nat) (n k : Nat) (h : ∀ c, k ≠ rk (0x01001010 + 0x40 * c) 0) :
    (d.chCount ch n).reg k = d.reg k := by
  cases ch with
  | none => rfl
  | some c => exact Dev.reg_bump_ne _ _ _ _ _ (h c)

@[simp] theorem Dev.chOwner_chCount (d : Dev) (ch : Option Nat) (n x : Nat) : (d.chCount ch n).chOwner x = d.chOwner x :=
  Dev.reg_chCount_ne d ch n _ (fun c => by simp only [rk]; omega)

/-- A function's state after it took an admin entry. -/
theorem Dev.fn_adminTake (d : Dev) (f : Nat) :
    (d.adminTake f).fn f = { d.fn f with asqHead := ((d.fn f).asqHead + 1) % 2 ^ (d.fn f).asqLog, acq := (d.fn f).acq.reserve } := by
  rw [Dev.adminTake, Dev.fn_setFn_self]

theorem Dev.reg_adminTake (d : Dev) (f k : Nat) (h : ∀ c, k ≠ rk (0x01001010 + 0x40 * c) 0) : (d.adminTake f).reg k = d.reg k :=
  Dev.reg_chCount_ne d _ _ k h

@[simp] theorem Dev.chOwner_adminTake (d : Dev) (f x : Nat) : (d.adminTake f).chOwner x = d.chOwner x :=
  Dev.chOwner_chCount d _ _ x

@[simp] theorem Dev.chOf_adminTake (d : Dev) (f g c : Nat) : (d.adminTake f).chOf g c = d.chOf g c := by
  simp only [Dev.chOf, Dev.chOwner_adminTake]

@[simp] theorem Dev.chans_adminTake (d : Dev) (f : Nat) : (d.adminTake f).dma.chans = d.dma.chans := by
  simp [Dev.adminTake, Dev.setFn]

@[simp] theorem Dev.chan_adminTake (d : Dev) (f n : Nat) : (d.adminTake f).chan n = d.chan n := by
  simp only [Dev.chan, Dev.chans_adminTake]

@[simp] theorem Dev.cqCount_adminTake (d : Dev) (f g : Nat) : (d.adminTake f).cqCount g = d.cqCount g :=
  Dev.reg_adminTake d f _ (fun c => by simp only [rk]; omega)

@[simp] theorem Dev.sqCount_adminTake (d : Dev) (f g : Nat) : (d.adminTake f).sqCount g = d.sqCount g :=
  Dev.reg_adminTake d f _ (fun c => by simp only [rk]; omega)

@[simp] theorem Dev.trn_adminTake (d : Dev) (f : Nat) : (d.adminTake f).trn = d.trn := by
  simp only [Dev.adminTake, Dev.setFn_trn, Dev.chCount]
  split <;> rfl

@[simp] theorem Dev.spillUsed_adminTake (d : Dev) (f p : Nat) : (d.adminTake f).spillUsed p = d.spillUsed p := by
  simp only [Dev.adminTake, Dev.chCount]
  split <;> rfl

/-- An admin entry whose rule is met takes effect and completes. -/
theorem Dev.admin_of_ok {d : Dev} {f aop : Nat} {e : W512} {ok : Dev → Bool} (eff : Dev → Dev) (hready : d.adminReady f = true) (hawake : d.awake = true)
    (haop : aAop e = aop) (hpad : wf e 192 320 = 0) (hbase : aBase e % 4096 = 0) (hok : ok (d.adminTake f) = true) :
    d.admin f aop e ok eff = (eff (d.adminTake f)).adminDone f e .ok := by
  simp only [Dev.admin, hready, hawake, haop, hpad, hbase, hok, ne_eq, not_true_eq_false, decide_false, Bool.not_true, Bool.or_self,
    Bool.false_eq_true, if_false, and_self, if_true]

section
variable {d : Dev} {f : Nat} {e : W512}

theorem createCqStep_of_rule (hready : d.adminReady f = true) (hawake : d.awake = true) (hpad : wf e 192 320 = 0) (hbase : aBase e % 4096 = 0)
    (haop : aAop e = 1) (hid : aId e < d.cqCount f) (hvec : aVec e < (if f = 0 then 64 else 32)) (hcnt : 1 ≤ aCnt e) (hlo : 4 ≤ aLog2 e)
    (hhi : aLog2 e ≤ 16) (hnew : mget (d.fn f).cqs (aId e) = none) :
    createCqStep f e d = ((d.adminTake f).setFn f { (d.adminTake f).fn f with
      cqs := mset ((d.adminTake f).fn f).cqs (aId e) ⟨aBase e, aLog2 e, aVec e, aCnt e, 0, 0, true, 0, false, 0⟩ }).adminDone f e .ok := by
  have hrow : (if aAop e = 0 ∨ 9 ≤ aAop e then aAop e else 1) = 1 := by simp [haop]
  rw [createCqStep, hrow]
  refine Dev.admin_of_ok _ hready hawake haop hpad hbase ?_
  simp [haop, hid, hvec, hcnt, ringLog, hlo, hhi, Dev.fn_adminTake, hnew]

theorem deleteSqStep_of_rule {q : Sq} (hready : d.adminReady f = true) (hawake : d.awake = true) (hpad : wf e 192 320 = 0) (hbase : aBase e % 4096 = 0)
    (haop : aAop e = 4) (hq : mget (d.fn f).sqs (aId e) = some q) (hidle : q.outst = 0) :
    deleteSqStep f e d = ((d.adminTake f).setFn f { (d.adminTake f).fn f with sqs := mdel ((d.adminTake f).fn f).sqs (aId e) }).adminDone f e .ok := by
  have hq' : mget ((d.adminTake f).fn f).sqs (aId e) = some q := by rw [Dev.fn_adminTake]; exact hq
  simp only [deleteSqStep, hready, hawake, haop, hq', hpad, hbase, hidle, ne_eq, not_true_eq_false, decide_false, Bool.not_true, Bool.or_self,
    Bool.false_eq_true, if_false, or_self, if_true]

theorem setChannelStep_of_rule {n : Nat} (hready : d.adminReady f = true) (hawake : d.awake = true) (hpad : wf e 192 320 = 0) (hbase : aBase e % 4096 = 0)
    (haop : aAop e = 5) (hn : d.chOf f (aId e) = some n) (hstate : (d.chan n).state < 2) (hjob : (d.chan n).job = none) (hlo : 4 ≤ aLog2 e)
    (hhi : aLog2 e ≤ 16) (hcq : (mget (d.fn f).cqs (aCq e)).isSome = true) :
    setChannelStep f e d = ((d.adminTake f).setChan n ⟨1, aBase e, aLog2 e, aCq e, 0, 0, none, 0, 0, 0, 0, (d.chan n).abandoned⟩).adminDone f e .ok := by
  have hring : aLog2 e ≠ 0 := by omega
  rw [setChannelStep, Dev.admin_of_ok _ hready hawake haop hpad hbase]
  · simp only [Dev.chOf_adminTake, hn, hring, if_false, Dev.chan_adminTake]
    rfl
  · simp [hn, hstate, hjob, ringLog, hlo, hhi, Dev.fn_adminTake, hcq]

end

/-! ### SQ entries -/

/-- What may be fetched waits. -/
theorem Dev.sqWaits_of_sqReady {d : Dev} {f : Nat} {q : Sq} {e : BitVec 2048} (h : d.sqReady f q e = true) : d.sqWaits f q = true := by
  simp only [Dev.sqReady, Bool.and_eq_true] at h
  obtain ⟨⟨h, -⟩, -⟩ := h
  simpa only [Dev.sqWaits, Bool.and_eq_true] using h

/-- An entry that has the turn, may be fetched, needs no host read and breaks no condition is handed on. -/
theorem sqEntryStep_of_ready {d : Dev} {qb : QBuf} {f n : Nat} {e : BitVec 2048} {lines : DptrRead} {q : Sq} (hq : mget (d.fn f).sqs n = some q)
    (hready : d.sqReady f q e = true) (hturn : d.sqTurnOk f n = true) (hup : d.nodeUp = true) (hkind : sqKind e ≠ 3)
    (hconds : (((d.sqTurned f n).chCount (d.classChan 0) 256).sqTake f n q).2.sqConds qb f e = []) :
    sqEntryStep f n e lines qb d = ((((d.sqTurned f n).chCount (d.classChan 0) 256).sqTake f n q).2.bump (rk 0x01000008 0) 64 1).pushWork
      ⟨sqKind e, .host f n (sqCtag e + (q.head + 1) % 2 ^ q.log2 * 2 ^ 32) (sqRet e), wf (sqDesc e) 12 4, sqKeygen e, sqDesc e,
        if sqInline e then sqTrailer e else []⟩ := by
  have hnone : firstCond false ((((d.sqTurned f n).chCount (d.classChan 0) 256).sqTake f n q).2.sqConds qb f e) = none :=
    (firstCond_eq_none_iff false _).mpr hconds
  simp only [sqEntryStep, hq, Dev.sqWaits_of_sqReady hready, hready, hturn, hup, hkind, hnone, Bool.not_true, Bool.or_self, Bool.false_eq_true, if_false,
    false_and, ne_eq, not_false_eq_true, if_true]
  rfl

theorem Dev.head_of_sqTake (d : Dev) (f n : Nat) (q : Sq) :
    (mget ((d.sqTake f n q).2.fn f).sqs n).map Sq.head = some ((q.head + 1) % 2 ^ q.log2) := by
  simp only [Dev.sqTake, Dev.fn_setFn_self, mget_mset_self, Option.map_some]

/-- Settles O7: each admin row is `Dev.admin` with its rule met, and the entry taken passes every check of SQ_ENTRY. -/
theorem submissionAndAdminEntries : Obligations.SubmissionAndAdminEntries := by
  refine ⟨fun s f e hready hawake hpad hbase => ⟨?_, ?_, ?_, ?_, ?_, ?_, ?_⟩, fun s f n e lines q hq hready hturn hup hkind hconds => ⟨State.run_to ?_, ?_⟩⟩
  · intro haop hid hvec hcnt hlo hhi hnew
    exact State.run_to (createCqStep_of_rule hready hawake hpad hbase haop hid hvec hcnt hlo hhi hnew)
  · intro haop hcq hsqs hchans
    refine State.run_to (Dev.admin_of_ok _ hready hawake haop hpad hbase ?_)
    have hnosq : (s.dev.fn f).sqs.any (fun q => decide (q.2.cq = aId e)) = false := List.any_eq_false.mpr (fun q hq => by simpa using hsqs q hq)
    have hnochan : s.dev.dma.chans.any (fun c => decide (s.dev.chOwner c.1 = f ∧ c.2.state ≠ 0 ∧ c.2.cq = aId e)) = false :=
      List.any_eq_false.mpr (fun c hc => by simpa using hchans c hc)
    simp only [Dev.fn_adminTake, hcq, hnosq, Dev.chans_adminTake, Dev.chOwner_adminTake, hnochan, Bool.not_false, Bool.and_self]
  · intro haop hid hlo hhi hnew hcq
    refine State.run_to (Dev.admin_of_ok _ hready hawake haop hpad hbase ?_)
    simp [hid, ringLog, hlo, hhi, Dev.fn_adminTake, hnew, hcq]
  · rintro haop ⟨q, hq, hidle⟩
    exact State.run_to (deleteSqStep_of_rule hready hawake hpad hbase haop hq hidle)
  · intro n haop hn hstate hjob hlo hhi hcq
    exact State.run_to (setChannelStep_of_rule hready hawake hpad hbase haop hn hstate hjob hlo hhi hcq)
  · intro haop hvf hused
    refine State.run_to (Dev.admin_of_ok _ hready hawake haop hpad hbase ?_)
    simp [hvf, hused]
  · rintro haop rfl hmib hcached
    refine State.run_to (Dev.admin_of_ok _ hready hawake haop hpad hbase ?_)
    simp only [hmib, Dev.trn_adminTake, List.all_eq_true.mpr hcached, and_self, decide_true, Bool.and_self]
  · exact sqEntryStep_of_ready hq hready hturn hup hkind hconds
  · exact Dev.head_of_sqTake _ f n q

/-! ### Apertures and channels -/

theorem queryWriteStep_inside {d : Dev} {qb : QBuf} {f a : Nat} {bs : Bytes} {t : Bool} (hbar : d.bar4 f t = true) (ha : a < 2 ^ 24)
    (hvalid : (d.fn f).qapValid = true) (hadm : d.admitted (d.fn f).qapTen (f - 1) = true) (hpos : 0 < bs.length) (hin : a + bs.length ≤ d.shareSize (f - 1)) :
    queryWriteStep f a bs t qb d = (qb.place (d.shareBase (f - 1) + a) (d.fn f).qapTen (d.gen (d.fn f).qapTen) bs,
      d.overwrite (d.shareBase (f - 1) + a) bs.length) := by
  have hall : bs.take (d.shareSize (f - 1) - a) = bs := List.take_of_length_le (by omega)
  have hgo : ¬ ((!d.bar4 f t) = true ∨ 2 ^ 24 ≤ a) := not_or.mpr ⟨by simp [hbar], Nat.not_le.mpr ha⟩
  have hne : bs.isEmpty = false := List.isEmpty_eq_false_iff.mpr (List.ne_nil_of_length_pos hpos)
  simp only [queryWriteStep, hgo, if_false, hall, hvalid, hadm, hne, Bool.not_true, Bool.false_and, Bool.or_self, Bool.false_eq_true]

theorem gateQ_of_running {u : Nat} {f : QBuf → Dev → QBuf × Dev} {qb : QBuf} {d : Dev} (h : d.isStopped u = false) : gateQ u f qb d = f qb d := by
  rw [gateQ, h]
  rfl

/-- A function that takes work is not locked out of TDISP. -/
theorem Dev.tdi_ne_two_of_fnLive {d : Dev} {f : Nat} (h : d.fnLive f = true) : d.tdi f ≠ 2 := by
  simp only [Dev.fnLive, Dev.fnOpen, Bool.and_eq_true, decide_eq_true_eq] at h
  exact h.1.1.1.1.2.2.1

/-- A descriptor of a good key, of an admitted tenant of a VF and of good form meets no condition. -/
theorem descConds_of_met {k a o : Bool} {f : Nat} (hkey : k = true) (hvf : f ≠ 0) (hadm : a = true) (hok : o = true) :
    cond (!(k && decide (f ≠ 0) && a)) .keyRevoked ++ cond (!o) .shape = [] := by
  simp [hkey, hvf, hadm, hok, cond_false]

/-- Settles O8: in each clause the checks pass, and what remains is the branch that places, starts or moves. -/
theorem aperturesAndChannels : Obligations.AperturesAndChannels := by
  refine ⟨⟨?_, fun s f a bs t hready => State.run_bar hready rfl⟩, ?_, ?_, ?_⟩
  · intro s f a bs t hready hbar ha hvalid hadm hpos hin
    exact State.runQ_to ((barWrite_ready hready).trans (queryWriteStep_inside hbar ha hvalid hadm hpos hin))
  · intro s ch x q hch hrun hheld hlive hstate hmore hq hfree
    dsimp only
    intro hkey hvf hadm hok
    refine State.runQ_to ((gateQ_of_running hrun).trans ?_)
    have htdi : ¬ (ch < 64 ∧ s.dev.awake = true ∧ s.dev.dma.linkup = true ∧ s.dev.chOwner ch < 17 ∧ s.dev.tdi (s.dev.chOwner ch) = 2) :=
      fun h => Dev.tdi_ne_two_of_fnLive hlive h.2.2.2.2
    have hgo : ¬ (decide (64 ≤ ch) || !s.dev.fnLive (s.dev.chOwner ch) || decide ((s.dev.chan ch).state ≠ 1) ||
        decide ((s.dev.chan ch).head = (s.dev.chan ch).tail)) = true := by simp [hch, hlive, hstate, hmore]
    simp only [channelStep, hheld, Bool.false_eq_true, if_false, htdi, hgo, hq, hfree]
    generalize hmet : firstCond false _ = r
    obtain rfl : r = none := by
      rw [← hmet]
      exact (firstCond_eq_none_iff false _).mpr (descConds_of_met hkey hvf hadm hok)
    rfl
  · intro s ch page j hch hstate hjob hhears hopen
    have hgo : ¬ (64 ≤ ch ∨ (s.dev.chan ch).state ≠ 3 ∨ (!s.dev.ctlOpen ch page) = true) := by simp [hch, hstate, ctlOpen_of_heard hhears]
    refine State.runQ_to ((ctlWrite_of_heard hhears).trans ?_)
    simp only [restartStep, hgo, if_false, hjob, hopen, if_true]
  · intro s ch j bs hch hrun habandoned hlink hstate hjob hhost
    have hgo : ¬ (64 ≤ ch ∨ (!s.dev.dma.linkup) = true) := by simp [hch, hlink]
    refine State.runQ_to ((gateQ_of_running hrun).trans ?_)
    simp only [readDoneStep, hgo, if_false, hjob, hstate, hhost, ne_eq, not_true_eq_false, or_self, habandoned, List.isEmpty_nil, if_true]

end Sys2Proof.Machine
end

section
/-! SUPPORT. Messages of the placement queue (R191 to R197): the message that a row takes, and the checks before it. -/

namespace Sys2Proof.Machine

theorem takePlace_go_kind {kind : Nat} {seen : List (Nat × Nat)} {l : List Work} {w : Work} (h : Dev.takePlace.go (fun w => decide (pbKind w.body = kind ∨ (kind = 0 ∧ 9 < pbKind w.body))) seen l = some w) :
    pbKind w.body = kind ∨ (kind = 0 ∧ 9 < pbKind w.body) := by
  induction l generalizing seen with
  | nil => cases h
  | cons a r ih =>
    rw [Dev.takePlace.go] at h
    split at h
    next hcond =>
      obtain rfl : a = w := by simpa using h
      simp only [Bool.and_eq_true, decide_eq_true_eq] at hcond
      exact hcond.1
    next => exact ih h

/-- A row other than OFFER's takes a message of its own kind. -/
theorem Dev.pbKind_of_takePlace {d d' : Dev} {kind : Nat} {w : Work} (hkind : kind ≠ 0) (h : d.takePlace kind = some (w, d')) : pbKind w.body = kind := by
  simp only [Dev.takePlace, Option.map_eq_some_iff, Prod.mk.injEq] at h
  obtain ⟨a, ha, rfl, -⟩ := h
  exact (takePlace_go_kind ha).resolve_right (fun hzero => hkind hzero.1)

/-- A message that the node takes while it is not fenced, at the tenant's key generation and of good form, is worked. -/
theorem placeRowWith_of_good {kind : Nat} {no : Work → St → Dev → Dev} {f : Work → Dev → Option Dev} {d d' : Dev} {w : Work}
    (htake : d.takePlace kind = some (w, d')) (hfence : d'.trn.fenced = false)
    (hkey : pbKind w.body ∈ [0, 2, 7, 9] → d'.keyOk (pbRun w.body).ten (pbKeygen w.body) = true) (hform : placeBad w = false) :
    placeRowWith kind no f d = (f w d').getD d := by
  have hcond : ([0, 2, 7, 9].contains (pbKind w.body) && !d'.keyOk (pbRun w.body).ten (pbKeygen w.body)) = false := by
    by_cases hmem : pbKind w.body ∈ [0, 2, 7, 9]
    · rw [hkey hmem, Bool.not_true, Bool.and_false]
    · rw [Bool.eq_false_iff.mpr (mt List.contains_iff_mem.mp hmem), Bool.false_and]
  simp only [placeRowWith, htake, hfence, hcond, hform, Bool.false_eq_true, if_false]

/-- The same for a message that carries no key generation. -/
theorem placeRow_of_keyless {kind : Nat} {f : Work → Dev → Option Dev} {d d' : Dev} {w : Work} (hkind : kind ∉ [0, 2, 7, 9])
    (htake : d.takePlace kind = some (w, d')) (hfence : d'.trn.fenced = false) (hform : placeBad w = false) :
    placeRow kind f d = (f w d').getD d := by
  have hzero : kind ≠ 0 := fun h => hkind (h ▸ List.mem_cons_self)
  exact placeRowWith_of_good htake hfence (fun hmem => absurd (Dev.pbKind_of_takePlace hzero htake ▸ hmem) hkind) hform

end Sys2Proof.Machine
end

section
/-! The claim rule (R196, Table 7.9), CLAIM and RELEASE. -/

open Sys2Proof

namespace Sys2Proof.Machine

section
variable {x : HState} {ex y ey : Nat}

theorem claimRule_of_both (hx : x = .home ∨ x = .offered) (hy : y < 2) :
    claimRule x ex y ey = if ex < ey then (.relinquished, ey) else if ey < ex then (x, ex) else (.orphaned, ex) := by
  simp only [claimRule, hx, hy, decide_true, Bool.and_self, if_true]

theorem claimRule_of_own (hx : x = .home ∨ x = .offered) (hy : 2 ≤ y) : claimRule x ex y ey = (.home, ex) := by
  simp only [claimRule, hx, Nat.not_lt.mpr hy, decide_true, decide_false, Bool.and_false, Bool.false_eq_true, if_false, if_true]

theorem claimRule_of_other (hx : ¬ (x = .home ∨ x = .offered)) (hy : y < 2) : claimRule x ex y ey = (.relinquished, ey) := by
  simp only [claimRule, hx, hy, decide_true, decide_false, Bool.false_and, Bool.false_eq_true, if_false, if_true]

theorem claimRule_of_neither (hx : ¬ (x = .home ∨ x = .offered)) (hy : 2 ≤ y) :
    claimRule x ex y ey = if x = .pending ∨ x = .relinquished ∨ y = 2 ∨ y = 3 then (.orphaned, ex) else (x, ex) := by
  simp only [claimRule, hx, Nat.not_lt.mpr hy, decide_false, Bool.and_self, Bool.false_eq_true, if_false]

/-- A claim is refused where the other side claims at an epoch not below. -/
theorem claimRule_loses (hy : y < 2) (he : ex ≤ ey) : (claimRule x ex y ey).1 = .relinquished ∨ (claimRule x ex y ey).1 = .orphaned := by
  by_cases hx : x = .home ∨ x = .offered
  · rw [claimRule_of_both hx hy, if_neg (Nat.not_lt.mpr he)]
    split
    · exact .inl rfl
    · exact .inr rfl
  · exact .inl (by rw [claimRule_of_other hx hy])

theorem claimRule_epoch_le : (claimRule x ex y ey).2 ≤ max ex ey := by
  by_cases hx : x = .home ∨ x = .offered
  · rcases Nat.lt_or_ge y 2 with hy | hy
    · rw [claimRule_of_both hx hy]
      split
      · exact Nat.le_max_right _ _
      · split
        · exact Nat.le_max_left _ _
        · exact Nat.le_max_left _ _
    · rw [claimRule_of_own hx hy]
      exact Nat.le_max_left _ _
  · rcases Nat.lt_or_ge y 2 with hy | hy
    · rw [claimRule_of_other hx hy]
      exact Nat.le_max_right _ _
    · rw [claimRule_of_neither hx hy]
      split
      · exact Nat.le_max_left _ _
      · exact Nat.le_max_left _ _

end

/-- The codes below 2 are those of the states that claim. -/
theorem hCode_lt_two_iff (x : HState) : hCode x < 2 ↔ x = .home ∨ x = .offered := by
  cases x <;> decide

theorem not_claims_of_lost {h : HState} (hlost : h = .relinquished ∨ h = .orphaned) : ¬ (h = .home ∨ h = .offered) := by
  rcases hlost with rfl | rfl <;> decide

/-- Where neither side claims, the rule makes no claim. -/
theorem claimRule_keeps_unclaimed {x : HState} {ex y ey : Nat} (hx : ¬ (x = .home ∨ x = .offered)) :
    ¬ ((claimRule x ex y ey).1 = .home ∨ (claimRule x ex y ey).1 = .offered) := by
  rcases Nat.lt_or_ge y 2 with hy | hy
  · rw [claimRule_of_other hx hy]
    exact not_claims_of_lost (.inl rfl)
  · rw [claimRule_of_neither hx hy]
    split
    · exact not_claims_of_lost (.inr rfl)
    · exact hx

/-- Not both sides claim after the rule. -/
theorem claimRule_one_claims (x x' : HState) (ex ey : Nat) :
    ¬ (((claimRule x ex (hCode x') ey).1 = .home ∨ (claimRule x ex (hCode x') ey).1 = .offered) ∧
      ((claimRule x' ey (hCode x) ex).1 = .home ∨ (claimRule x' ey (hCode x) ex).1 = .offered)) := by
  rintro ⟨h, h'⟩
  have hx : x = .home ∨ x = .offered := Classical.byContradiction fun hx => claimRule_keeps_unclaimed hx h
  have hx' : x' = .home ∨ x' = .offered := Classical.byContradiction fun hx' => claimRule_keeps_unclaimed hx' h'
  rcases Nat.le_total ex ey with he | he
  · exact not_claims_of_lost (claimRule_loses ((hCode_lt_two_iff x').mpr hx') he) h
  · exact not_claims_of_lost (claimRule_loses ((hCode_lt_two_iff x).mpr hx) he) h'

/-! ### What the rule's answer does to the record -/

section
variable {d : Dev} {id : RunId} {r : Run} {ys ye y : Nat}

theorem Dev.applyClaim_of_kept (hrun : d.run id = some r) (hc : claimRule r.hstate r.epoch ys ye = (r.hstate, r.epoch)) (hne : r.hstate ≠ .relinquished) :
    d.applyClaim id ys ye y = some d := by
  simp only [Dev.applyClaim, hrun, hc, and_self, if_true, hne, if_false]

theorem Dev.applyClaim_of_relinquished (hrun : d.run id = some r) (hc : (claimRule r.hstate r.epoch ys ye).1 = .relinquished)
    (hwas : r.hstate = .relinquished) (hno : (claimRule r.hstate r.epoch ys ye).2 = r.epoch ∨ r.copy = none) :
    d.applyClaim id ys ye y = some (d.setHome id .relinquished (claimRule r.hstate r.epoch ys ye).2 y) := by
  rcases hp : claimRule r.hstate r.epoch ys ye with ⟨hs, e⟩
  rw [hp] at hc hno
  obtain rfl : hs = .relinquished := hc
  rw [hwas] at hp
  simp only [Dev.applyClaim, hrun, hp, hwas, true_and, if_true, reduceCtorEq, if_false]
  split
  next => rfl
  next hne => rw [hno.resolve_left hne]

theorem Dev.applyClaim_of_copy (hrun : d.run id = some r) (hc : (claimRule r.hstate r.epoch ys ye).1 = .relinquished) (hcopy : r.copy.isSome = true)
    (hne : claimRule r.hstate r.epoch ys ye ≠ (r.hstate, r.epoch)) :
    d.applyClaim id ys ye y = some ((((if r.hstate = .offered then d.endOffer id else d).freeCopy id).setHome id .relinquished
      (claimRule r.hstate r.epoch ys ye).2 y).lodgeEnd (hSlot id.seq)) := by
  obtain ⟨c, hcopy⟩ := Option.isSome_iff_exists.mp hcopy
  rcases hp : claimRule r.hstate r.epoch ys ye with ⟨hs, e⟩
  rw [hp] at hc hne
  obtain rfl : hs = .relinquished := hc
  have hnew : ¬ (.relinquished = r.hstate ∧ e = r.epoch) := fun h => hne (by rw [h.1, h.2])
  simp only [Dev.applyClaim, hrun, hp, hnew, if_false, hcopy]

theorem Dev.applyClaim_of_gone (hrun : d.run id = some r) (hc : (claimRule r.hstate r.epoch ys ye).1 = .relinquished) (hcopy : r.copy = none)
    (hne : r.hstate ≠ .relinquished) (hpage : (if r.hstate = .offered then d.endOffer id else d).pageOf id = none) :
    d.applyClaim id ys ye y = some ((if r.hstate = .offered then d.endOffer id else d).setHome id .relinquished (claimRule r.hstate r.epoch ys ye).2 y) := by
  rcases hp : claimRule r.hstate r.epoch ys ye with ⟨hs, e⟩
  rw [hp] at hc
  obtain rfl : hs = .relinquished := hc
  have hnew : ¬ (.relinquished = r.hstate ∧ e = r.epoch) := fun h => hne h.1.symm
  simp only [Dev.applyClaim, hrun, hp, hnew, if_false, hcopy, hne, Dev.entryAway, hpage, Option.map_some]

theorem Dev.applyClaim_of_other (hrun : d.run id = some r) (hc : (claimRule r.hstate r.epoch ys ye).1 ≠ .relinquished)
    (hne : claimRule r.hstate r.epoch ys ye ≠ (r.hstate, r.epoch)) :
    d.applyClaim id ys ye y = some ((if r.hstate = .offered then d.endOffer id else d).setHome id (claimRule r.hstate r.epoch ys ye).1
      (claimRule r.hstate r.epoch ys ye).2 r.peer) := by
  rcases hp : claimRule r.hstate r.epoch ys ye with ⟨hs, e⟩
  rw [hp] at hc hne
  have hnew : ¬ (hs = r.hstate ∧ e = r.epoch) := fun h => hne (by rw [h.1, h.2])
  simp only [Dev.applyClaim, hrun, hp, hnew, if_false]

end

/-- CLAIM that answers none of this node's: answered with the record's state and epoch, and the claim rule applied. -/
theorem exec_claim {s : State} {w : Work} {d d' : Dev} {r : Run} (hrun : s.dev.isStopped (11 * 4096) = false) (htake : s.dev.takePlace 4 = some (w, d))
    (hfence : d.trn.fenced = false) (hform : placeBad w = false) (hr : d.run (pbRun w.body) = some r)
    (hnone : d.plc.claims.find? (fun c => decide (c.id = pbRun w.body ∧ c.peer = pbFrom w.body)) = none)
    (happly : (d.reply w 4 r.epoch 0 (hCode r.hstate)).applyClaim (pbRun w.body) (pbState w.body) (pbEpoch w.body) (pbFrom w.body) = some d') :
    exec .claim s = .next (s.went d') := by
  have hexec : exec .claim s = s.run (Dev.gate [11] (placeRow 4 claimGo)) := rfl
  have hgo : claimGo w d = some d' := by simp only [claimGo, hnone, hr, happly]
  rw [hexec, State.run_gate_of_running hrun, placeRow_of_keyless (by decide) htake hfence hform, hgo]
  rfl

theorem exec_release {s : State} {w : Work} {d d' : Dev} (hrun : s.dev.isStopped (11 * 4096) = false) (htake : s.dev.takePlace 6 = some (w, d))
    (hfence : d.trn.fenced = false) (hform : placeBad w = false) (hgo : releaseGo w d = some d') : exec .release s = .next (s.went d') := by
  have hexec : exec .release s = s.run (Dev.gate [11] (placeRow 6 releaseGo)) := rfl
  rw [hexec, State.run_gate_of_running hrun, placeRow_of_keyless (by decide) htake hfence hform, hgo]
  rfl

/-- Settles O34: the rule by its four cases, the messages by what `Dev.applyClaim` and the release do with the record. -/
theorem claimsAreDecided : Obligations.ClaimsAreDecided := by
  refine ⟨fun x ex y ey => ⟨?_, ?_, ?_, ?_, ?_, claimRule_epoch_le, ?_⟩, fun s w d r hrun hfence hform => ?_⟩
  · exact fun hx hy he => by rw [claimRule_of_both hx hy, if_neg (Nat.lt_asymm he), if_pos he]
  · exact fun hx hy he => by rw [claimRule_of_both hx hy, if_pos he]
  · exact fun hx hy he => by rw [claimRule_of_both hx hy, if_neg (by omega), if_neg (by omega)]
  · exact fun hx hy => claimRule_of_own hx hy
  · exact fun hx hy => claimRule_of_other hx hy
  · rintro x' rfl
    exact claimRule_one_claims x x' ex ey
  · intro b id hr
    refine ⟨?_, ?_, ?_, ?_⟩
    · intro d1 c d2 htake hnone hr1
      refine ⟨fun hc hne => ?_, fun hc hwas hno => ?_, fun hc hcopy hne => ?_, fun hc hcopy hne hpage => ?_, fun hc hne => ?_⟩
      · exact exec_claim hrun htake hfence hform hr hnone (Dev.applyClaim_of_kept hr1 hc hne)
      · exact exec_claim hrun htake hfence hform hr hnone (Dev.applyClaim_of_relinquished hr1 hc hwas hno)
      · exact exec_claim hrun htake hfence hform hr hnone (Dev.applyClaim_of_copy hr1 hc hcopy hne)
      · exact exec_claim hrun htake hfence hform hr hnone (Dev.applyClaim_of_gone hr1 hc hcopy hne hpage)
      · exact exec_claim hrun htake hfence hform hr hnone (Dev.applyClaim_of_other hr1 hc hne)
    · intro htake hcopy hwas
      obtain ⟨c, hcopy⟩ := Option.isSome_iff_exists.mp hcopy
      refine exec_release hrun htake hfence hform ?_
      simp only [releaseGo, hr, hcopy, Dev.endCopy, Option.bind_some, hwas, b, id]
    · intro e p htake hcopy hwas
      obtain ⟨c, hcopy⟩ := Option.isSome_iff_exists.mp hcopy
      refine exec_release hrun htake hfence hform ?_
      simp only [releaseGo, hr, hcopy, Dev.endCopy, Option.bind_some, hwas, b, id]
    · intro htake hcopy hpage
      refine exec_release hrun htake hfence hform ?_
      simp only [releaseGo, hr, hcopy, hpage, b, id]

end Sys2Proof.Machine
end

section
/-! Queries by register (Tables 7.19, 8.10, R237), and a leaf block that lets walks go on (R20). -/

open Sys2Proof

namespace Sys2Proof.Machine

/-! ### Queries -/

theorem plcQcmdStep_answers (d : Dev) (id : RunId) (hten : id.ten = d.reg (rk 0x00800200 0) % 2 ^ 12)
    (hseq : id.ten + id.seq * 2 ^ 12 = d.reg (rk 0x00800200 0) + d.reg (rk 0x00800200 12) * 2 ^ 12) (hlayer : id.layer = d.reg (rk 0x00800208 0))
    (hhgrp : id.hgrp = d.reg (rk 0x00800208 10)) (hpage : id.page = d.reg (rk 0x00800208 16)) :
    (plcQcmdStep d).reg (rk 0x00800218 0) = d.runBits id % 2 ^ 64 ∧ (plcQcmdStep d).reg (rk 0x00800220 0) = d.runBits id / 2 ^ 64 := by
  obtain ⟨ten, seq, layer, hgrp, page⟩ := id
  dsimp only at hten hseq hlayer hhgrp hpage
  subst hlayer hhgrp hpage
  have hid : (⟨(d.reg (rk 0x00800200 0) + d.reg (rk 0x00800200 12) * 2 ^ 12) % 2 ^ 12, (d.reg (rk 0x00800200 0) + d.reg (rk 0x00800200 12) * 2 ^ 12) / 2 ^ 12,
      d.reg (rk 0x00800208 0), d.reg (rk 0x00800208 10), d.reg (rk 0x00800208 16)⟩ : RunId) =
      ⟨ten, seq, d.reg (rk 0x00800208 0), d.reg (rk 0x00800208 10), d.reg (rk 0x00800208 16)⟩ := by
    congr 1 <;> omega
  simp only [plcQcmdStep, hid]
  exact ⟨Dev.reg_setRegs_mem _ _ _ _ ⟨_, List.mem_cons_self, rfl⟩ (by simp [rk]),
    Dev.reg_setRegs_mem _ _ _ _ ⟨_, List.mem_cons_of_mem _ List.mem_cons_self, rfl⟩ (by simp [rk])⟩

/-- The unit's place, count and stamp, where the region's current version has the unit. -/
theorem shpQcmdStep_answers {d : Dev} {g : Region} {i : Nat} {u : PUnit} (hg : mget d.shp.regions (d.reg (rk 0x00900200 0)) = some g)
    (hi : mget (g.ver g.current).units (d.reg (rk 0x00900200 10)) = some i) (hu : mget d.shp.units i = some u) :
    shpQcmdStep d = d.setRegs [(rk 0x00900210 0, if u.failed then 3 else if u.loc.isT0 then 2 else 1), (rk 0x00900210 8, u.count),
      (rk 0x00900210 31, 1), (rk 0x00900210 32, u.stamp)] := by
  simp only [shpQcmdStep, hg, Option.bind_some, hi, hu]

/-- Whatever it finds, the query sets the answer registers alone and DONE with them. -/
theorem shpQcmdStep_done (d : Dev) : d.onlyIn [.regs] (shpQcmdStep d) ∧ (shpQcmdStep d).reg (rk 0x00900210 31) = 1 := by
  rw [shpQcmdStep]
  exact ⟨Dev.setRegs_onlyIn _ _, Dev.reg_setRegs_mem _ _ _ _ ⟨_, List.mem_cons_of_mem _ (List.mem_cons_of_mem _ List.mem_cons_self), rfl⟩ (by simp [rk])⟩

/-- The answer registers of DIR_QCMD after a search that found `m`, with the result `res`. -/
def Dev.dirAnswer (d : Dev) (m : Option (Nat × DirEnt)) (multi : Bool) (res : Nat) : Dev :=
  d.setRegs [(rk 0x00A00120 0, fld res 0 64), (rk 0x00A00128 0, fld res 64 32), (rk 0x00A00128 32, dirCursor m),
    (rk 0x00A00128 61, b2n m.isSome), (rk 0x00A00128 62, b2n multi), (rk 0x00A00128 63, 1)]

/-- The step as a function: its definition is opened unapplied, for the kernel would else evaluate the key's product with 2^64 by counting. -/
theorem dirQcmdStep_of_eq {g : Dev → Dev} (hg : g = dirQcmdStep) {d d1 : Dev} {m : Option (Nat × DirEnt)} {multi : Bool}
    (h : d.search (BitVec.ofNat 112 (d.reg (rk 0x00A00100 0) + d.reg (rk 0x00A00108 0) * 2 ^ 64)) (d.reg (rk 0x00A00110 0)) = ((m, multi), d1)) :
    g d = d1.dirAnswer m multi ((m.map (fun e => e.2.result.toNat)).getD 0) := by
  delta dirQcmdStep at hg
  refine (congrFun hg d).trans ?_
  extract_lets key
  have hfound : d.search key (d.reg (rk 0x00A00110 0)) = ((m, multi), d1) := h
  rw [hfound]
  refine congrArg (d1.dirAnswer m multi) ?_
  cases m <;> rfl

/-- Settles O38: each query sets the answer registers alone. The lookups are those of the query's step; DIR_QCMD clears DONE first. -/
theorem queriesAnswer : Obligations.QueriesAnswer := by
  intro s hawake
  refine ⟨fun hrun => ⟨plcQcmdStep s.dev, ?_, Dev.setRegs_onlyIn _ _, ?_, plcQcmdStep_answers s.dev⟩,
    fun hrun => ⟨shpQcmdStep s.dev, ?_, (shpQcmdStep_done _).1, (shpQcmdStep_done _).2, fun g i u hg hi hu => ?_⟩, fun hrun => ?_⟩
  · have hexec : exec .plcQcmdGo s = s.run (Dev.gate [11] (fun d => if d.awake then plcQcmdStep d else d)) := rfl
    rw [hexec, State.run_gate_of_running hrun, if_pos hawake]
  · exact Dev.reg_setRegs_mem _ _ _ _ ⟨_, List.mem_cons_of_mem _ (List.mem_cons_of_mem _ List.mem_cons_self), rfl⟩ (by simp [rk])
  · have hexec : exec .shpQcmdGo s = s.run (Dev.gate [12] (fun d => if d.awake then shpQcmdStep d else d)) := rfl
    rw [hexec, State.run_gate_of_running hrun, if_pos hawake]
  · rw [shpQcmdStep_answers hg hi hu]
    exact ⟨Dev.reg_setRegs_mem _ _ _ _ ⟨_, List.mem_cons_of_mem _ List.mem_cons_self, rfl⟩ (by simp [rk]),
      Dev.reg_setRegs_mem _ _ _ _ ⟨_, List.mem_cons_of_mem _ (List.mem_cons_of_mem _ (List.mem_cons_of_mem _ List.mem_cons_self)), rfl⟩ (by simp [rk]),
      Dev.reg_setRegs_mem _ _ _ _ ⟨_, List.mem_cons_self, rfl⟩ (by simp [rk])⟩
  · intro d0 hrun0 hawake0 m multi d1 hsearch
    refine State.run_to (f := fun d => Dev.gate [8] (fun d => if d.awake then dirQcmdStep d else d) (d.setReg (rk 0x00A00128 63) 0)) ?_
    rw [Dev.gate_of_running hrun0, if_pos hawake0]
    have hkept (k : Nat) (hk : k ≠ rk 0x00A00128 63) : d0.reg k = s.dev.reg k := Dev.reg_setReg_ne _ _ _ _ hk
    refine dirQcmdStep_of_eq rfl (d := d0) ?_
    rw [hkept _ (by decide), hkept _ (by decide), hkept _ (by decide)]
    exact hsearch

/-! ### A leaf block read -/

theorem foldl_congr_of_mem {α β : Type} {f g : α → β → α} {l : List β} (a : α) (h : ∀ x, ∀ y ∈ l, f x y = g x y) : l.foldl f a = l.foldl g a := by
  induction l generalizing a with
  | nil => rfl
  | cons y l ih => rw [List.foldl_cons, List.foldl_cons, h a y List.mem_cons_self, ih _ fun x z hz => h x z (List.mem_cons_of_mem y hz)]

/-- Settles O26: a read without a fault puts the block into the cache, and each walk that waited goes on by itself. -/
theorem blocksResumeWalks : Obligations.BlocksResumeWalks := by
  intro s a hrun waits hwaits hgood rest go
  have hexec : exec (.leafBlockReadDone a none) s = s.run (Dev.gate [9] (leafDoneStep s.qb a none)) := rfl
  rw [hexec, State.run_gate_of_running hrun]
  have hsome : waits.isEmpty = false := List.isEmpty_eq_false_iff.mpr hwaits
  have hstep : leafDoneStep s.qb a none s.dev = waits.foldl go (s.dev.leafPut a) := by
    refine (if_neg (c := waits.isEmpty = true) (Bool.eq_false_iff.mp hsome)).trans ?_
    simp only [hgood, Option.map_none]
    refine foldl_congr_of_mem (l := waits) _ fun d e he => ?_
    have hphase := (List.mem_filter.mp he).2
    simp only [go, rest]
    cases hp : e.2.phase with
    | leafWait l => simp only [List.isEmpty_iff] <;> rfl
    | _ => rw [hp] at hphase; cases hphase
  rw [hstep]

end Sys2Proof.Machine
end

section
/-! Management envelopes (R391 to R393), and commands of the policers, quanta and the directory (Tables 9.6, 11.2). -/

open Sys2Proof

namespace Sys2Proof.Machine

/-! ### Envelopes -/

/-- Settles O40: the admin entry passes the checks before the envelope's own, whose outcomes are the cases. -/
theorem envelopesAreTaken : Obligations.EnvelopesAreTaken := by
  intro s e env hready hroom hchip hrun hopen haop hpad hbase h d
  have hgo : (!s.dev.adminReady 0 || decide (64 ≤ s.dev.pwr.inflight.length) || s.dev.chipReset || s.dev.isStopped (14 * 4096) || !s.dev.bar0Open ||
      decide (aAop e ≠ 8)) = false := by simp [hready, hroom, hchip, hrun, hopen, haop]
  have hentry : ¬ (wf e 192 320 ≠ 0 ∨ aBase e % 4096 ≠ 0 ∨ 0 ≠ 0) := by simp [hpad, hbase]
  have hstep : mgmtStep 0 e env s.dev = _ := (if_neg (Bool.eq_false_iff.mp hgo)).trans (if_neg hentry)
  refine ⟨fun hform => ?_, fun hform => State.run_to (hstep.trans (if_pos (by rw [hform]; rfl)))⟩
  intro d1 args m head
  have hformed : mgmtStep 0 e env s.dev = _ := hstep.trans (if_neg (by rw [hform]; decide))
  dsimp only at hformed
  cases hfails : d.envFails h env with
  | none =>
    rw [hfails] at hformed
    refine ⟨fun hargs => State.run_to (hformed.trans (if_neg (by rw [hargs]; decide))), fun hargs => State.run_to (hformed.trans (if_pos (by rw [hargs]; rfl)))⟩
  | some st =>
    rw [hfails] at hformed
    exact State.run_to hformed

/-! ### Management commands -/

/-- A management command that the oldest envelope of its opcode asks for, whose step is `f`. -/
theorem State.does_of_asks {s : State} {c : Instr} {f : Dev → Dev} {d : Dev} (hexec : exec c s = s.run (Dev.asks c f)) (h : f s.dev = d) : s.does c d := by
  intro hasked
  rw [hexec]
  exact State.run_to ((Dev.asks_pos hasked f).trans h)

/-- A command of a node that takes commands, with its rule met. -/
theorem Dev.cmd_of_ok {d : Dev} (opc : Nat) {ok : Bool} (st : St) (f : Dev → Dev) (hready : d.ready = true) (hok : ok = true) :
    d.cmd opc ok st f = (f d).mgmtDone opc 0 [] := by
  simp only [Dev.cmd, hready, hok, Bool.not_true, Bool.false_eq_true, if_false, if_true]

theorem policerOk_of_rule {m : NMap Policer} {i : Nat} {p : Policer} (hi : i < 512) (hc : p.cls = 0 ∨ (2 ≤ p.cls ∧ p.cls ≤ 15)) (hci : 1 ≤ p.cinc)
    (hpi : p.cinc ≤ p.pinc) (hpw : p.pinc < 2 ^ 16) (hcb : 4184 ≤ p.cbs) (hpb : p.cbs ≤ p.pbs) (hps : p.pbs ≤ 16777215)
    (hsole : ∀ e ∈ m, e.1 ≠ i → ¬ (e.2.ten = p.ten ∧ e.2.cls = p.cls)) : policerOk m i p = true := by
  have hnone : m.any (fun e => decide (e.1 ≠ i ∧ e.2.ten = p.ten ∧ e.2.cls = p.cls)) = false :=
    List.any_eq_false.mpr (fun e he h => by
      obtain ⟨hne, hsame⟩ := of_decide_eq_true h
      exact hsole e he hne hsame)
  simp only [policerOk, hi, hc, hci, hpi, hpw, hcb, hpb, hps, and_self, decide_true, hnone, Bool.not_false, Bool.and_self]

theorem mmap_mmap {α β γ : Type} (m : NMap α) (f : Nat → α → β) (g : Nat → β → γ) : mmap (mmap m f) g = mmap m (fun k x => g k (f k x)) := by
  simp only [mmap, List.map_map]
  rfl

/-- A new binding has full buckets on every link; a rebound one keeps them (log entry 113, DESIGN CHOICE). -/
theorem bindPolicer_eq (i : Nat) (p : Policer) (d : Dev) :
    bindPolicer i p d = { d with tsh := mset d.tsh i p, links := mmap d.links (fun _ l =>
      if mget d.tsh i = none then { d.keepColors (mset d.tsh i p) none l with buckets := mset l.buckets i (64 * p.cbs, 64 * p.pbs) }
      else d.keepColors (mset d.tsh i p) (some i) l) } := by
  cases hi : mget d.tsh i with
  | none =>
    simp only [bindPolicer, hi, Option.isNone_none, if_true, mmap_mmap]
    rfl
  | some x => simp only [bindPolicer, hi, Option.isNone_some, Bool.false_eq_true, if_false, mmap_mmap, reduceCtorEq]

/-- Settles O42: each command's rule is met, and its step is the branch of the effect. -/
theorem egressAndDirectoryCommands : Obligations.EgressAndDirectoryCommands := by
  refine ⟨fun s hready => ⟨?_, ?_, ?_⟩, fun s hready hrun => ⟨?_, ?_, ?_, ?_⟩⟩
  · intro i t c ci pi cb pb hact hi hc hci hpi hpw hcb hpb hps hsole
    refine State.does_of_asks (f := fun d => if d.ready then setPolicerStep i ⟨t, c, ci, pi, cb, pb⟩ d else d) rfl ?_
    have hok : policerOk s.dev.tsh i ⟨t, c, ci, pi, cb, pb⟩ = true := policerOk_of_rule hi hc hci hpi hpw hcb hpb hps hsole
    simp only [hready, if_true, setPolicerStep, hact, hok, Bool.not_true, Bool.false_eq_true, if_false, bindPolicer_eq]
  · intro i hi
    refine State.does_of_asks (f := fun d => if d.ready then clearPolicerStep i d else d) rfl ?_
    simp only [hready, if_true, clearPolicerStep, Nat.not_le.mpr hi, if_false]
  · intro t q hact hlo hhi
    refine State.does_of_asks (f := fun d => if d.ready then quantumStep t q d else d) rfl ?_
    have hin : ¬ (q < 1 ∨ 255 < q) := by omega
    simp only [hready, if_true, quantumStep, hact, hin, Bool.not_true, Bool.false_eq_true, if_false]
  · intro w i key hact hok hroom hshare hfree
    refine State.does_of_asks (f := Dev.gate [8] (dirPutStep w)) rfl ?_
    have hspace : ¬ (keyClass key = 0 ∧ s.dev.reg (rk 0x00A00000 32) ≤ s.dev.rtHome) := by
      rintro ⟨hclass, hfull⟩
      rcases hshare with h | h
      · exact h hclass
      · omega
    rw [Dev.gate_of_running hrun, dirPutStep, hready]
    simp only [Bool.not_true, Bool.false_eq_true, if_false]
    rw [if_neg (by rw [hact]; decide), if_neg (by rw [hok, hroom]; decide), if_neg hspace, hfree]
  · intro i e he hvalid hrt
    refine State.does_of_asks (f := Dev.gate [8] (dirRemoveStep i)) rfl ?_
    rw [Dev.gate_of_running hrun, dirRemoveStep, Dev.cmd_of_ok _ _ _ hready]
    simp only [he, hvalid, hrt, Bool.and_self]
  · intro key cur i e multi d1 hroom hsearch
    refine State.does_of_asks (f := Dev.gate [8] (dirFindStep key cur)) rfl ?_
    rw [Dev.gate_of_running hrun]
    simp only [dirFindStep, hready, hroom, hsearch, Bool.not_true, Bool.false_eq_true, if_false]
  · intro i hi hroom
    refine State.does_of_asks (f := Dev.gate [8] (dirReadStep i)) rfl ?_
    rw [Dev.gate_of_running hrun]
    simp only [dirReadStep, hready, hroom, Nat.not_le.mpr hi, Bool.not_true, Bool.false_eq_true, if_false, or_self]

end Sys2Proof.Machine
end

section
/-! Transport, fence, pool and placement commands (Tables 7.12, 8.5, 10.9; R262). -/

open Sys2Proof

namespace Sys2Proof.Machine

theorem mmod_of_some {α : Type} {m : NMap α} {k : Nat} {v : α} (f : α → α) (h : mget m k = some v) : mmod m k f = mset m k (f v) := by
  rw [mmod, h]

/-! ### Transport -/

section
variable {d : Dev}

theorem qpCreateStep_of_room {a : QpArgs} (hready : d.ready = true) (hadm : a.type = 1 ∨ d.admitted a.ten a.part = true) (hok : d.qpOk a = true)
    (hroom : d.cachedQps < 16384) :
    qpCreateStep a d = (let d1 : Dev := { d with trn := { d.trn with clock := d.trn.clock + 1 } }
      let d2 := d1.setQp a.qpn (newQp a d1.trn.clock)
      let d3 : Dev := if a.enc then { d2 with sec := { d2.sec with ckeys := mmod d2.sec.ckeys a.ckey (fun k => { k with qpn := some a.qpn }) } } else d2
      (d3.mgmtDone 0x0301 0 []).escapement) := by
  have hallowed : ¬ (a.type ≠ 1 ∧ (!d.admitted a.ten a.part) = true) := by
    rintro ⟨htype, hout⟩
    rcases hadm with h | h
    · exact htype h
    · rw [h] at hout
      cases hout
  have hfree : d.qpRoom = some d := if_pos hroom
  simp only [qpCreateStep, hready, hallowed, hok, hfree, Bool.not_true, Bool.false_eq_true, if_false]

theorem qpModifyStep_of_rule {n : Nat} {q : Qp} {paths : List Nat} {pm cw sw tc pc : Nat} (hready : d.ready = true) (hq : mget d.trn.qps n = some q)
    (htune : d.qpTune paths pm cw sw tc pc = true) :
    qpModifyStep n paths pm cw sw tc pc d = ({ d with trn := { d.trn with qps := mmod d.trn.qps n (fun _ =>
      { q with paths := paths, pmask := pm, cwin := cw, swin := sw, txclass := tc, pmaxc := pc, changed := !q.cached }) } }).mgmtDone 0x0302 0 [] := by
  rw [qpModifyStep, Dev.cmd_of_ok _ _ _ hready (by rw [hq, htune]; rfl), mmod_of_some _ hq, mmod_of_some _ hq]

theorem qpClearStep_of_error {n : Nat} {q : Qp} (hready : d.ready = true) (hq : mget d.trn.qps n = some q) (herr : q.state = 2) :
    qpClearStep n d = ({ d with trn := { d.trn with qps := mmod d.trn.qps n (fun _ => clearQp q) } }).escapement.mgmtDone 0x0304 0 [] := by
  rw [qpClearStep, Dev.cmd_of_ok _ _ _ hready (by simp only [hq, herr, decide_true]), mmod_of_some _ hq, mmod_of_some _ hq]

theorem keyCreateStep_of_rule {i : Nat} {e : BitVec 256} (hready : d.ready = true) (hok : d.keyOkCreate i e = true)
    (hten : (keyOf e).kind = 3 ∨ d.active (keyOf e).ten = true) :
    keyCreateStep i e d = ({ d with trn := { d.trn with keys := mset d.trn.keys i (keyOf e) } }).mgmtDone 0x0305 0 [] := by
  have hallowed : (d.ready && decide ((keyOf e).kind ≠ 3) && !d.active (keyOf e).ten) = false := by
    rcases hten with h | h
    · simp [h]
    · simp [h]
  rw [keyCreateStep, if_neg (Bool.eq_false_iff.mp hallowed), Dev.cmd_of_ok _ _ _ hready hok]

theorem setRidgeStep_of_rule {i a b : Nat} {cs : List Nat} (hready : d.ready = true) (hi : i < 1024) (ha : d.qpType a = some 2) (hb : d.qpType b = some 0)
    (hlo : 1 ≤ cs.length) (hhi : cs.length ≤ 64) (hnodes : ∀ c ∈ cs, c < 2 ^ 12) (hdiff : cs.Nodup) :
    setRidgeStep i a b cs d = ({ d with trn := { d.trn with
      ridges := mset d.trn.ridges i ⟨a, b, cs⟩, qps := mmod d.trn.qps a (fun q => { q with ridge := i, changed := !q.cached }) } }).mgmtDone 0x0307 0 [] := by
  have hall : cs.all (fun c => decide (c < 2 ^ 12)) = true := List.all_eq_true.mpr (fun c hc => decide_eq_true (hnodes c hc))
  rw [setRidgeStep, Dev.cmd_of_ok _ _ _ hready]
  simp only [hi, ha, hb, hlo, hhi, hall, hdiff, and_self, decide_true, Bool.and_self]

/-! ### The fence -/

theorem setFenceStep_of_rule {e : Nat} {self : Bool} {map : List Nat} (hready : d.ready = true) (he : d.trn.epoch ≤ e) (hew : e < 2 ^ 32)
    (hnodes : ∀ n ∈ map, n < 2 ^ 12) :
    setFenceStep e self map d = (let d1 := { d with trn := { d.trn with epoch := e, map := (map.mergeSort (· ≤ ·)).eraseDups, fenced := d.trn.fenced || self } }
      let d1 := d1.journal (fenceEntry e (if self then 1 else 2)) []
      let d1 := if self then Dev.fenceSelf d d1 else d1
      if d.rcv.jq.length < d1.rcv.jq.length then d1.hold [.mgmt 0x0309 0 []] else d1.mgmtDone 0x0309 0 []) := by
  have hin : ¬ (e < d.trn.epoch ∨ 2 ^ 32 ≤ e ∨ map.any (fun n => decide (2 ^ 12 ≤ n)) = true) := by
    rintro (h | h | h)
    · exact Nat.not_lt.mpr he h
    · exact Nat.not_le.mpr hew h
    · obtain ⟨n, hn, hbig⟩ := List.any_eq_true.mp h
      exact Nat.not_le.mpr (hnodes n hn) (of_decide_eq_true hbig)
  simp only [setFenceStep, hready, hin, Bool.not_true, Bool.false_eq_true, if_false]

theorem unfenceStep_of_rule {e : Nat} (hready : d.ready = true) (he : d.trn.epoch < e) (hew : e < 2 ^ 32) (hlast : d.trn.epoch ≠ 0xFFFFFFFF) :
    unfenceStep e d = d.trn.merges.foldl Dev.ridgeTry (({ d with trn := { d.trn with epoch := e, fenced := false } }).journal (fenceEntry e 3) [.mgmt 0x030A 0 []]) := by
  have hin : ¬ (e ≤ d.trn.epoch ∨ 2 ^ 32 ≤ e) := not_or.mpr ⟨Nat.not_le.mpr he, Nat.not_le.mpr hew⟩
  simp only [unfenceStep, hready, hlast, hin, Bool.not_true, Bool.false_eq_true, if_false]

end

/-- Settles O41: each command's rule is met; an entry that the journal queued holds SET_FENCE's completion. -/
theorem transportAndFenceCommands : Obligations.TransportAndFenceCommands := by
  refine ⟨fun s hready => ⟨?_, ?_, ?_, ?_, ?_, ?_, ?_, ?_⟩, fun s hready => ⟨?_, ?_, ?_⟩⟩
  · exact fun a hadm hok hroom => State.does_of_asks rfl (qpCreateStep_of_room hready hadm hok hroom)
  · exact fun n q paths pm cw sw tc pc hq htune => State.does_of_asks rfl (qpModifyStep_of_rule hready hq htune)
  · intro n q hq
    refine State.does_of_asks (f := qpDestroyStep n) rfl ?_
    simp only [qpDestroyStep, hready, hq, Bool.not_true, Bool.false_eq_true, if_false]
  · exact fun n q hq herr => State.does_of_asks rfl (qpClearStep_of_error hready hq herr)
  · exact fun i e hok hten => State.does_of_asks rfl (keyCreateStep_of_rule hready hok hten)
  · intro i hi hkey
    refine State.does_of_asks (f := keyDestroyStep i) rfl (Dev.cmd_of_ok _ _ _ hready ?_)
    simp only [hi, hkey, decide_true, Bool.and_self]
  · exact fun i a b cs hi ha hb hlo hhi hnodes hdiff => State.run_to (setRidgeStep_of_rule hready hi ha hb hlo hhi hnodes hdiff)
  · intro i t hridge
    exact State.run_to (f := fun d => d.cmd 0x0308 (mget d.trn.ridges i).isSome .shape (fun d => d.ridgeCancel i t)) (Dev.cmd_of_ok _ _ _ hready hridge)
  · intro e map he hew hnodes d1 d2 hqueued
    refine State.does_of_asks (f := setFenceStep e false map) rfl ((setFenceStep_of_rule hready he hew hnodes).trans ?_)
    simp only [Bool.or_false, Bool.false_eq_true, if_false]
    exact if_pos hqueued
  · intro e map he hew hnodes d1 d2 hqueued
    refine State.does_of_asks (f := setFenceStep e true map) rfl ((setFenceStep_of_rule hready he hew hnodes).trans ?_)
    simp only [Bool.or_true, if_true]
    exact if_pos hqueued
  · exact fun e he hew hlast => State.does_of_asks rfl (unfenceStep_of_rule hready he hew hlast)

/-! ### The pool -/

theorem Dev.poolCmd_of_up {d : Dev} (opc : Nat) (f : Dev → Dev) (hready : d.ready = true) (hfence : d.trn.fenced = false) : d.poolCmd opc f = f d := by
  simp only [Dev.poolCmd, hready, hfence, Bool.not_true, Bool.false_eq_true, if_false]

theorem createRegionStep_of_room {d d1 : Dev} {i : Nat} {p : RegionProps} {v : Version} (hready : d.ready = true) (hfence : d.trn.fenced = false)
    (hadm : d.admitted p.ten p.part = true) (hi : i < 1024) (hp : rpOk p = true) (hnew : mget d.shp.regions i = none) (hlimit : d.poolLimit ≠ 0)
    (hv : d.version1 i p = some (v, d1))
    (hroom : (({ d1 with shp := { d1.shp with regions := mset d1.shp.regions i ⟨false, p, 1, [v]⟩ } } : Dev).seals (fun _ u => decide (u.region = i))).poolRoom 0 = true) :
    createRegionStep i p d = ((({ d1 with shp := { d1.shp with regions := mset d1.shp.regions i ⟨false, p, 1, [v]⟩ } } : Dev).seals
      (fun _ u => decide (u.region = i))).poolEvent i p v 0).mgmtDone 0x0211 0 [] := by
  have hmet : cond (!d.admitted p.ten p.part) .keyRevoked ++ cond (!(decide (i < 1024) && rpOk p && (mget d.shp.regions i).isNone)) .shape = [] := by
    simp [hadm, hi, hp, hnew, cond_false]
  rw [createRegionStep, Dev.poolCmd_of_up _ _ hready hfence]
  simp only [(firstCond_eq_none_iff false _).mpr hmet, hlimit, if_false, hv, hroom, Bool.not_true, Bool.false_eq_true]

/-! ### Placement -/

section
variable {d : Dev} {id : RunId}

theorem Dev.openCase_of_record {r : Run} (hr : d.run id = some r) (hopen : r.hstate = .pending ∨ r.hstate = .orphaned) (hdata : d.holdsData id = true) :
    d.openCase id = true := by
  simp only [Dev.openCase, hr, hopen, decide_true, hdata, Bool.and_self]

theorem setMirrorStep_of_new {t m : Nat} {fs : List ColFault} (hready : d.ready = true) (hact : d.active t = true) (hm : m < 2 ^ 12)
    (htray : ∀ i, i < 8 → d.tray i ≠ m) (hwait : MWait.setMirror t ∉ d.pwr.waits) :
    setMirrorStep t (some m) fs d = (let d1 := ((d.modTenant t (fun x => { x with mirror := some m, mirstate := 0 })).unwaitMirror t).modTenant t (fun x => { x with mirstate := 1 })
      ({ d1 with pwr := { d1.pwr with waits := d1.pwr.waits ++ [MWait.setMirror t] } }).startFill t (some fs)) := by
  have hout : ((List.range 8).any (fun i => decide (d.tray i = m)) || decide (2 ^ 12 ≤ m)) = false := by
    rw [Bool.or_eq_false_iff]
    refine ⟨List.any_eq_false.mpr fun i hi h => htray i (List.mem_range.mp hi) (of_decide_eq_true h), decide_eq_false (Nat.not_le.mpr hm)⟩
  have hnone : d.pwr.waits.contains (MWait.setMirror t) = false := by simpa using hwait
  simp only [setMirrorStep, hready, hact, hout, hnone, Bool.not_true, Bool.false_eq_true, if_false]

theorem setMirrorStep_none {t : Nat} {fs : List ColFault} (hready : d.ready = true) (hact : d.active t = true) (hwait : MWait.setMirror t ∉ d.pwr.waits) :
    setMirrorStep t none fs d = (((d.modTenant t (fun x => { x with mirror := none, mirstate := 0 })).unwaitMirror t).noFill t).mgmtDone 0x0202 0 [] := by
  have hnone : d.pwr.waits.contains (MWait.setMirror t) = false := by simpa using hwait
  simp only [setMirrorStep, hready, hact, hnone, Bool.not_true, Bool.false_eq_true, if_false]

theorem reconcileStep_of_rule {n p : Nat} (hready : d.ready = true) (hfence : d.trn.fenced = false) (hact : d.active id.ten = true) (hlo : 0 < n)
    (hhi : n ≤ 65536) (hpeer : (d.peerQp p).isSome = true) :
    reconcileStep id n p d = (let ids := (List.range n).map (fun i => { id with page := (id.page + i) % 2 ^ 32 })
      let d1 := ids.foldl (fun d i => d.sendClaim i p true) d
      { d1 with pwr := { d1.pwr with waits := d1.pwr.waits ++ [MWait.reconcile p ids] } }) := by
  have hin : ¬ (n = 0 ∨ 65536 < n ∨ (d.peerQp p).isNone = true) := by
    rw [← Option.not_isSome, hpeer]
    rintro (h | h | h)
    · omega
    · omega
    · cases h
  simp only [reconcileStep, hready, hfence, hact, hin, Bool.not_true, Bool.false_eq_true, if_false]

theorem adoptHomeStep_of_record {d1 : Dev} {r : Run} {e : Nat} (hready : d.ready = true) (hact : d.active id.ten = true) (hr : d.run id = some r)
    (hopen : r.hstate = .pending ∨ r.hstate = .orphaned) (hdata : d.holdsData id = true) (he : r.epoch < e) (hew : e < 2 ^ 32)
    (hfence : d.trn.fenced = false ∨ r.peer = d.pwr.node)
    (hcopy : (r.copy = none ∧ d1 = d) ∨ (r.copy.isSome = true ∧ d.publishCopy id = some d1)) :
    adoptHomeStep id e d = (let d2 := d1.setHome id .home e r.peer
      (if r.peer = d2.pwr.node then d2 else d2.sendClaim id r.peer true).mgmtDone 0x0204 0 []) := by
  have hgo : ¬ (d.trn.fenced = true ∧ r.peer ≠ d.pwr.node) := by
    rintro ⟨hf, hp⟩
    rcases hfence with h | h
    · rw [h] at hf
      cases hf
    · exact hp h
  have hnow : d.adopt id e = some (let d2 := d1.setHome id .home e r.peer
      (if r.peer = d2.pwr.node then d2 else d2.sendClaim id r.peer true).mgmtDone 0x0204 0 []) := by
    rcases hcopy with ⟨hnone, rfl⟩ | ⟨hsome, hpub⟩
    · simp only [Dev.adopt, hr, hgo, if_false, hnone, Option.map_some]
    · obtain ⟨c, hc⟩ := Option.isSome_iff_exists.mp hsome
      simp only [Dev.adopt, hr, hgo, if_false, hc, hpub, Option.map_some]
  simp only [adoptHomeStep, hready, hact, hr, Dev.openCase_of_record hr hopen hdata, Nat.not_le.mpr he, Nat.not_le.mpr hew, hnow, decide_false,
    Bool.not_true, Bool.or_self, Bool.false_eq_true, if_false]

/-- DISCARD_PENDING of an open case that goes at once. -/
theorem discardPendingStep_of_open {d' : Dev} {r : Run} (hready : d.ready = true) (hact : d.active id.ten = true) (hr : d.run id = some r)
    (hopen : r.hstate = .pending ∨ r.hstate = .orphaned) (hdata : d.holdsData id = true) (hgo : d.discardRun id = some d') :
    discardPendingStep id d = d' := by
  simp only [discardPendingStep, hready, hact, Dev.openCase_of_record hr hopen hdata, hgo, Bool.not_true, Bool.false_eq_true, if_false]

theorem promoteStep_of_full {d1 : Dev} {t f : Nat} {m : Bytes} (hready : d.ready = true) (hact : d.active t = true) (hne : d.shadowed t f ≠ [])
    (hfull : d.plc.full.contains (t, f) = true) (hworn : d.worn t f = none) (hroom : d.mgmtRoom 0x0206 (16 * (d.shadowed t f).length) = true)
    (hfree : (d.shadowed t f).length ≤ d.ownFree) (hall : Dev.promoteAll t (d.shadowed t f) d = some (m, d1)) :
    promoteStep t f d = ((d1.notFull t f).modTenant t (fun x => { x with mirror := none, mirstate := 0 })).mgmtDone 0x0206 0 m := by
  have hgo : ¬ ((d.shadowed t f).isEmpty = true ∨ (!d.plc.full.contains (t, f)) = true ∨ (!d.mgmtRoom 0x0206 (16 * (d.shadowed t f).length)) = true) := by
    rw [hfull, hroom]
    simpa using hne
  simp only [promoteStep, hready, hact, hgo, hworn, Nat.not_lt.mpr hfree, hall, Bool.not_true, Bool.false_eq_true, if_false]

end

/-- Settles O43: each command's rule is met; an open case is settled at once, by its copy or by its ledger entry. -/
theorem poolAndPlacementCommands : Obligations.PoolAndPlacementCommands := by
  refine ⟨fun s hready hfence => ⟨?_, ?_, ?_, ?_⟩, fun s hready => ⟨?_, ?_, ?_, ?_, ?_, ?_, ?_, ?_, ?_⟩⟩
  · exact fun i p v d1 hadm hi hp hnew hlimit hv hroom =>
      State.does_of_asks rfl (createRegionStep_of_room hready hfence hadm hi hp hnew hlimit hv hroom)
  · intro i g hg hlive
    refine State.does_of_asks (f := fun d => deleteRegionStep i d) rfl ?_
    rw [deleteRegionStep, Dev.poolCmd_of_up _ _ hready hfence]
    simp only [hg, hlive, Bool.false_eq_true, if_false]
  · intro i hg
    refine State.does_of_asks (f := fun d => closeReadersStep i d) rfl ?_
    rw [closeReadersStep, Dev.poolCmd_of_up _ _ hready hfence, Dev.cmd_of_ok _ _ _ hready hg]
  · intro n hn
    refine State.does_of_asks (f := fun d => abortOwnerStep n d) rfl ?_
    rw [abortOwnerStep, Dev.poolCmd_of_up _ _ hready hfence, Dev.cmd_of_ok _ _ _ hready (decide_eq_true hn)]
  · intro t q ti p hact hq hti hp hpos
    refine State.does_of_asks (f := setPlacementStep t q ti p) rfl ?_
    rw [setPlacementStep, if_neg (by simp [hact]), Dev.cmd_of_ok _ _ _ hready (decide_eq_true ⟨hq, hti, hp, hpos⟩)]
  · exact fun t m fs hact hm htray hwait => State.run_to (f := setMirrorStep t (some m) fs) (setMirrorStep_of_new hready hact hm htray hwait)
  · exact fun t fs hact hwait => State.run_to (f := setMirrorStep t none fs) (setMirrorStep_none hready hact hwait)
  · exact fun id n p hfence hact hlo hhi hpeer => State.does_of_asks rfl (reconcileStep_of_rule hready hfence hact hlo hhi hpeer)
  · exact fun id r e d1 hact hr hopen hdata he hew hfence hcopy =>
      State.does_of_asks rfl (adoptHomeStep_of_record hready hact hr hopen hdata he hew hfence hcopy)
  · intro id r hact hr hopen hdata
    refine ⟨fun hcopy hwas => ?_, fun e p hcopy hwas => ?_, fun slot q lane e d1 hcopy hpage => ⟨fun hlodge haway => ?_, fun hown haway => ?_⟩⟩
    · obtain ⟨c, hc⟩ := Option.isSome_iff_exists.mp hcopy
      refine State.does_of_asks rfl (discardPendingStep_of_open hready hact hr hopen hdata ?_)
      simp only [Dev.discardRun, hr, hc, Option.bind_some, hwas, Option.isSome_none, Bool.false_eq_true, if_false, Dev.endCopy]
    · obtain ⟨c, hc⟩ := Option.isSome_iff_exists.mp hcopy
      refine State.does_of_asks rfl (discardPendingStep_of_open hready hact hr hopen hdata ?_)
      simp only [Dev.discardRun, hr, hc, Option.bind_some, hwas, Option.isSome_some, if_true, Dev.endCopy]
    · refine State.does_of_asks rfl (discardPendingStep_of_open hready hact hr hopen hdata ?_)
      simp only [Dev.discardRun, hr, hcopy, hpage, hlodge, if_true, haway, Option.map_some]
    · refine State.does_of_asks rfl (discardPendingStep_of_open hready hact hr hopen hdata ?_)
      simp only [Dev.discardRun, hr, hcopy, hpage, hown, Bool.false_eq_true, if_false, haway, Option.map_some]
  · exact fun t f m d1 hact hne hfull hworn hroom hfree hall =>
      State.does_of_asks rfl (promoteStep_of_full hready hact hne hfull hworn hroom hfree hall)
  · intro t m f hact hm hf
    refine State.does_of_asks (f := fillSpareStep t m f) rfl ?_
    have hin : ¬ (2 ^ 12 ≤ m ∨ 2 ^ 12 ≤ f) := not_or.mpr ⟨Nat.not_le.mpr hm, Nat.not_le.mpr hf⟩
    simp only [fillSpareStep, hready, hact, hin, Bool.not_true, Bool.false_eq_true, if_false]
  · intro t hact hfill
    refine State.does_of_asks (f := cancelFillStep t) rfl ?_
    rw [cancelFillStep, if_neg (by simp [hact]), Dev.cmd_of_ok _ _ _ hready hfill]

end Sys2Proof.Machine
end

section
/-! SUPPORT. What a zero fill takes off the queue of storage that waits (R352). -/

namespace Sys2Proof.Machine

theorem sumN_cons (n : Nat) (l : List Nat) : sumN (n :: l) = n + sumN l := by
  have hshift (a : Nat) : l.foldl (· + ·) a = a + l.foldl (· + ·) 0 := by
    induction l generalizing a with
    | nil => rfl
    | cons b r ih =>
      rw [List.foldl_cons, List.foldl_cons, ih (a + b), ih (0 + b)]
      omega
  rw [sumN, List.foldl_cons, hshift, Nat.zero_add]
  rfl

/-- What stays and what was filled make up what waited. -/
theorem sumN_zeroed (k : Nat) (l : List Zero) : sumN ((zeroed k l).2.map Zero.kib) + min k (sumN (l.map Zero.kib)) = sumN (l.map Zero.kib) := by
  induction l generalizing k with
  | nil => simp [zeroed, sumN]
  | cons z r ih =>
    rw [zeroed]
    split
    next hall =>
      have ih := ih (k - z.kib)
      simp only [List.map_cons, sumN_cons]
      omega
    next hpart =>
      simp only [List.map_cons, sumN_cons]
      omega

theorem Dev.claimBank_sec (d : Dev) (k n : Nat) (w : Bool) : (d.claimBank k n w).sec = d.sec := rfl

/-- A fold of steps that leave the security block alone does so too. -/
theorem foldl_keeps_sec {α : Type} (l : List α) (f : Dev → α → Dev) (hf : ∀ d a, (f d a).sec = d.sec) (d : Dev) : (l.foldl f d).sec = d.sec := by
  induction l generalizing d with
  | nil => rfl
  | cons a r ih => rw [List.foldl_cons, ih, hf]

theorem Dev.claimFrame_sec (d : Dev) (st die o c : Nat) (w : Bool) : (d.claimFrame st die o c w).sec = d.sec := by
  rw [Dev.claimFrame]
  refine foldl_keeps_sec _ _ (fun d g => ?_) d
  exact foldl_keeps_sec _ _ (fun d p => Dev.claimBank_sec d _ _ _) d

theorem Dev.claimBlk_sec (d : Dev) (a : Nat) (w : Bool) : (d.claimBlk a w).sec = d.sec := by
  rw [Dev.claimBlk]
  split
  · rfl
  · exact foldl_keeps_sec _ _ (fun d i => Dev.claimBank_sec d _ _ _) d

/-- Storage that goes back to its allocator leaves the queue of what waits alone. -/
theorem Dev.zeroDone_sec (d : Dev) (z : Zero) : (d.zeroDone z).sec = d.sec := by
  rw [Dev.zeroDone]
  dsimp only
  cases z.blk with
  | none =>
    dsimp only
    split
    · exact Dev.claimFrame_sec _ _ _ _ _ _
    · rfl
  | some a =>
    refine (Dev.claimBlk_sec _ _ _).trans ?_
    split
    · exact Dev.claimFrame_sec _ _ _ _ _ _
    · rfl

theorem foldl_zeroDone_sec (l : List Zero) (d : Dev) : (l.foldl Dev.zeroDone d).sec = d.sec :=
  foldl_keeps_sec l Dev.zeroDone Dev.zeroDone_sec d

end Sys2Proof.Machine
end

section
/-! Tenants and keys (R344, R345), and teardown (R349 to R352). -/

open Sys2Proof

namespace Sys2Proof.Machine

section
variable {d : Dev} {t : Nat}

/-- ADMIT_TENANT of a free slot reaches the unwrapping of its key. -/
theorem admitStep_of_free {p g : Nat} {ct w : Bytes} (hready : d.ready = true) (ht : t < 2 ^ 12) (hp : p < 16) (hg : g < 2 ^ 16)
    (hct : ct.length = 1568) (hw : w.length = 40) (hgen : (d.tenant t).gen ≤ g) (hlast : g ≠ 0xFFFF) (hfree : (d.tenant t).state = 0) :
    admitStep t p g ct w d = match unwrapKey (d.kek "ADMIT" ct t p g) w with
      | none => d.unwrapFails 0x0101 t p
      | some k => (({ d with sec := { d.sec with tenants := mset d.sec.tenants t ⟨1, p, g, k, 0, 0, 0, none, 0, 16⟩ } }).tenantLog t p g 2).mgmtDone 0x0101 0 [] := by
  have hform : ¬ (2 ^ 12 ≤ t ∨ 16 ≤ p ∨ 2 ^ 16 ≤ g ∨ ct.length ≠ 1568 ∨ w.length ≠ 40) := by
    rintro (h | h | h | h | h)
    · exact Nat.not_le.mpr ht h
    · exact Nat.not_le.mpr hp h
    · exact Nat.not_le.mpr hg h
    · exact h hct
    · exact h hw
  have hnew : ¬ (g < (d.tenant t).gen ∨ g = 0xFFFF) := not_or.mpr ⟨Nat.not_lt.mpr hgen, hlast⟩
  simp only [admitStep, hready, hform, hnew, hfree, Bool.not_true, Bool.false_eq_true, if_false, ne_eq, not_true_eq_false] <;>
    cases unwrapKey (d.kek "ADMIT" ct t p g) w <;> rfl

theorem fabricKeyStep_of_form {ct w : Bytes} (hready : d.ready = true) (hct : ct.length = 1568) (hw : w.length = 40) :
    fabricKeyStep ct w d = match unwrapKey (d.kek "FABRIC" ct 0 0 Config.fabricGen) w with
      | some k => ({ d with sec := { d.sec with fwk := some k } }).mgmtDone 0x0103 0 []
      | none => d.unwrapFails 0x0103 0 0 := by
  have hform : ¬ (ct.length ≠ 1568 ∨ w.length ≠ 40) := by simp [hct, hw]
  simp only [fabricKeyStep, hready, hform, Bool.not_true, Bool.false_eq_true, if_false]
  cases unwrapKey (d.kek "FABRIC" ct 0 0 Config.fabricGen) w <;> rfl

theorem connKeyStep_of_tenant {i : Nat} {salt : W32} {w c : Bytes} (hready : d.ready = true) (hact : d.active t = true) (hi : i < 4096)
    (hw : w.length = 40) (hc : unwrapKey (d.tkey t "WRAP") w = some c) :
    connKeyStep i t false salt w d = ({ d with sec := { d.sec with
      ckeys := mset d.sec.ckeys i ⟨some t, salt, derive c "LO" [], derive c "HI" [], (mget d.sec.ckeys i).bind CKey.qpn⟩ } }).mgmtDone 0x0104 0 [] := by
  have hform : ¬ (4096 ≤ i ∨ w.length ≠ 40) := not_or.mpr ⟨Nat.not_le.mpr hi, not_not_intro hw⟩
  simp only [connKeyStep, hready, hact, hform, hc, Option.bind_some, Bool.not_true, Bool.and_false, Bool.false_eq_true, if_false]

theorem Dev.tdNext_of_queued {r : List Nat} (htd : d.sec.td = none) (hq : d.sec.tdWait = t :: r) :
    d.tdNext = Dev.tdNext.start { d with sec := { d.sec with tdWait := r } } t := by
  rw [Dev.tdNext, htd, hq]

/-- REMOVE_TENANT with no other teardown under way starts its own at once. -/
theorem removeStep_of_idle (hready : d.ready = true) (hact : d.active t = true) (htd : d.sec.td = none) (hwait : d.sec.tdWait = []) :
    removeStep t d = (let d0 := d.tdBump t
      let d1 : Dev := { d0 with sec := { d0.sec with td := some ⟨t, 5, d0.gen t⟩ } }
      ((d1.tdStop t).tdDma t).tdUnbind t) := by
  have hgo : ¬ ((!d.active t) = true ∨ d.sec.tdWait.contains t = true) := by simp [hact, hwait]
  have hback : ({ d with sec := { d.sec with tdWait := [] } } : Dev) = d := by
    rw [← hwait]
  have hq : d.sec.tdWait ++ [t] = t :: [] := by rw [hwait, List.nil_append]
  have hnext : ({ d with sec := { d.sec with tdWait := d.sec.tdWait ++ [t] } } : Dev).tdNext = Dev.tdNext.start { d with sec := { d.sec with tdWait := [] } } t :=
    Dev.tdNext_of_queued htd hq
  rw [removeStep, hready, if_neg (by decide), if_neg hgo, hnext, hback, Dev.tdNext.start]

/-- A teardown takes the next generation. -/
theorem Dev.gen_tdBump (hact : d.active t = true) : (d.tdBump t).gen t = d.gen t + 1 := by
  have hsome : ∃ x, mget d.sec.tenants t = some x := by
    cases hx : mget d.sec.tenants t with
    | none => simp [Dev.active, Dev.tenant, mgetD, hx] at hact
    | some x => exact ⟨x, rfl⟩
  obtain ⟨x, hx⟩ := hsome
  simp only [Dev.gen, Dev.tenant, Dev.tdBump, Dev.modTenant, mmod_of_some _ hx, mgetD, mget_mset_self, hx, Option.getD_some]

end

theorem residueStep_of_clear {qb : QBuf} {d : Dev} {t : Teardown} (ht : d.sec.td = some t) (hstep : t.step = 5) (hgone : d.residue = 0) :
    residueStep qb d = (qb.clear (fun x => decide (x = t.ten)), (d.tdFinish t).tdNext) := by
  simp only [residueStep, ht, hstep, hgone, ne_eq, not_true_eq_false, or_self, if_false]

/-- Settles O44: the keys by their unwrapping, the teardown by its first steps and its finish, the zero fill by what its queue loses. -/
theorem tenantsComeAndGo : Obligations.TenantsComeAndGo := by
  refine ⟨fun s hready hrun => ⟨?_, ?_, ?_⟩, fun s t hrun hready hact htd hwait => ⟨?_, Dev.gen_tdBump hact⟩, ?_, fun s k hrun hawake => ⟨?_, ?_⟩⟩
  · intro t p g ct w ht hp hg hct hw hgen hlast hfree
    have hstep := admitStep_of_free hready ht hp hg hct hw hgen hlast hfree
    refine ⟨fun k hk => State.does_of_asks rfl ?_, fun hk => State.does_of_asks rfl ?_⟩
    · rw [Dev.gate_of_running hrun, hstep, hk]
    · rw [Dev.gate_of_running hrun, hstep, hk]
  · intro ct w hct hw
    refine State.does_of_asks rfl ?_
    rw [Dev.gate_of_running hrun, fabricKeyStep_of_form hready hct hw] <;>
      cases unwrapKey (s.dev.kek "FABRIC" ct 0 0 Config.fabricGen) w <;> rfl
  · intro i t salt w c hact hi hw hc
    exact State.run_to ((Dev.gate_of_running hrun _).trans (connKeyStep_of_tenant hready hact hi hw hc))
  · refine State.does_of_asks rfl ?_
    rw [Dev.gate_of_running hrun, removeStep_of_idle hready hact htd hwait]
  · exact fun s t ht hstep hgone => State.runQ_to (residueStep_of_clear ht hstep hgone)
  · refine State.run_to ((Dev.gate_of_running hrun _).trans ?_)
    simp only [zeroFillStep, hawake, Bool.not_true, Bool.false_eq_true, if_false]
  · have hstay : ∀ (l : List Zero) (d : Dev) (n : Nat), ((l.foldl Dev.zeroDone d).bump (rk 0x01100040 0) 64 n).zeroPend = d.zeroPend := fun l d n => by
      rw [Dev.zeroPend, Dev.bump_sec, foldl_zeroDone_sec]
      rfl
    dsimp only
    rw [hstay]
    have hsum := sumN_zeroed (min k s.dev.zeroPend) s.dev.sec.zero
    simp only [Dev.zeroPend] at hsum ⊢
    omega

end Sys2Proof.Machine
end

section
/-! # Links and the egress store -/
open Sys2Proof
namespace Sys2Proof.Machine

/-- A step on a unit that runs is the step itself. -/
theorem State.run_gateUnit {s : State} {u : Nat} {f : Dev → Dev} {d : Dev} (hrun : s.dev.isStopped u = false) (h : f s.dev = d) :
    s.run (Dev.gateUnit u f) = .next (s.went d) :=
  State.run_to (by simp only [Dev.gateUnit, hrun, Bool.false_eq_true, if_false, h])

/-! ### Training -/

/-- What IDENT tells of the peer. -/
def Link.identified (l : Link) (i : Ident) : Link :=
  { l with pkind := i.pkind, pend := i.pend, plink := i.plink, lanes := 15, snr := i.snr, reversed := i.reversed, inverted := i.inverted }

/-- A link that starts its sequences over. -/
def Link.started (l : Link) : Link :=
  { l with txseq := 0, rxlast := 0, rxany := false, rxack := 0, rxacked := false, replay := [], nak := false,
           rxbuf := [], rxlost := false, txbuf := [], starts := [], sent := [], zeroTurn := 4 }

theorem trainedStep_of_ident {d : Dev} {n : Nat} {l : Link} (hl : mget d.links n = some l) (htrain : l.state = 1) (i : Ident) :
    trainedStep n (some i) d = if identOk (l.identified i) (d.reg (rk 0x00E00000 32)) i
      then (d.setLink n (fillBuckets d.tsh (l.identified i).started)).linkState n 2 else (d.setLink n (l.identified i)).linkState n 5 := by
  simp only [trainedStep, hl, htrain, ne_eq, not_true_eq_false, if_false, Link.identified, Link.started]

theorem trainedStep_of_silence {d : Dev} {n : Nat} {l : Link} (hl : mget d.links n = some l) (htrain : l.state = 1) :
    trainedStep n none d = if l.retried then d.linkState n 4 else (d.setLink n { l with retried := true }).bump (rk (0x00C00030 + 0x4000 * n) 16) 16 1 := by
  simp only [trainedStep, hl, htrain, ne_eq, not_true_eq_false, if_false]

theorem retrainStep_of_idle {d : Dev} {n : Nat} {l : Link} (hl : mget d.links n = some l) (hmap : l.mkind ≠ 0)
    (hidle : l.state = 0 ∨ l.state = 4 ∨ l.state = 5) :
    retrainStep n d = ((d.setLink n { l with retried := false }).bump (rk (0x00C00030 + 0x4000 * n) 16) 16 1).linkState n 1 := by
  simp [retrainStep, hl, hmap, hidle]

theorem lossStep_of_up {d : Dev} {n : Nat} {l : Link} (hl : mget d.links n = some l) (hup : l.state = 2) :
    let k := rk (0x00C00030 + 0x4000 * n)
    let pk := l.subqs.flatMap (·.pkts)
    let d' := (((d.bump (k 0) 16 1).bump (k 16) 16 1).bump (k 32) 16 l.replay.length).bump (rk (0x00F01018 + 0x20 * n) 0) 64 pk.length
    let x : Link := { Link.reset l.mkind l.mend l.mlink with
      state := 2, pkind := l.pkind, pend := l.pend, plink := l.plink, retried := true, buckets := l.buckets, rxpkts := l.rxpkts }
    lossStep n d = ((pk.foldl (fun d p => (d.txGone p).departed p.tag) (d'.setLink n x)).lossQps
      ((l.sent.map Prod.fst ++ pk.map (fun p => wf p.hdr 84 20)).eraseDups)).linkState n 1 := by
  simp only [lossStep, hl, hup, ne_eq, not_true_eq_false, if_false]

/-- Settles O19: each event of a link, by the state it meets. -/
theorem linksTrainAndRetrain : Obligations.LinksTrainAndRetrain := by
  unfold Obligations.LinksTrainAndRetrain
  refine ⟨fun s n l hl => ⟨fun hrun htrain => ⟨fun i => ⟨fun hok => ?_, fun hbad => ?_⟩, fun hfirst => ?_, fun hagain => ?_⟩, fun hmap hidle => ?_⟩,
    fun s n l hl hup => State.run_to (f := fun d => lossStep n d) (lossStep_of_up hl hup)⟩
  · exact ⟨fillBuckets s.dev.tsh (l.identified i).started,
      State.run_gateUnit hrun ((trainedStep_of_ident hl htrain i).trans (if_pos hok)), rfl, rfl, rfl, rfl, rfl, rfl, rfl, rfl, rfl, rfl, rfl⟩
  · exact State.run_gateUnit hrun ((trainedStep_of_ident hl htrain i).trans (if_neg (Bool.eq_false_iff.mp hbad)))
  · exact State.run_gateUnit hrun ((trainedStep_of_silence hl htrain).trans (if_neg (by simp [hfirst])))
  · exact State.run_gateUnit hrun ((trainedStep_of_silence hl htrain).trans (if_pos hagain))
  · exact State.run_to (retrainStep_of_idle hl hmap hidle)

/-! ### The egress store -/

/-- A packet whose QP is ready, whose path is the link and that its credits and the store allow enters its subqueue. -/
theorem Dev.tryEnqueue_of_room {d : Dev} {n path : Nat} {l : Link} {p : OutPkt} {q : Qp} (hq : mget d.trn.qps (wf p.hdr 84 20) = some q)
    (hready : q.state = 1) (hpath : pathOf d q = some (path, n)) (hcredit : hasCredit q p = true) (hfits : l.fits (subKey p) (pktWire p) = true)
    (hseq : wf p.hdr 12 1 = 0 ∨ q.txseq + 1 < 2 ^ 64) :
    d.tryEnqueue n l p = some ((d.setQp (wf p.hdr 84 20) (useCredit (finishPkt d q path p).2 p)).setLink n (d.joinAll (l.put (finishPkt d q path p).1))) := by
  have hlow : ¬ (wf p.hdr 12 1 = 1 ∧ 2 ^ 64 ≤ q.txseq + 1) := by omega
  simp only [Dev.tryEnqueue, hq, hready, hpath, hcredit, hfits, hlow, ne_eq, not_true_eq_false, false_and, and_true, if_false, if_true]

theorem enqueueStep_of_first {d d' : Dev} {n : Nat} {l : Link} {p : OutPkt} {r : List OutPkt} (hl : mget d.links n = some l) (hwait : d.waitq = p :: r)
    (hin : ({ d with waitq := r }).tryEnqueue n l p = some d') : enqueueStep n d = d' := by
  simp [enqueueStep, hl, hwait, Dev.enqueueGo, hin]

/-- A pick of a packet that is not discarded pays its buckets, pops it and hands it over. -/
theorem schedStep_of_pick {d d' : Dev} {n c t : Nat} {l m l' : Link} {x : SubQ} {p : OutPkt} {r : List OutPkt} (hl : mget d.links n = some l)
    (hup : l.state = 2) (hroom : l.replay.length < 512) (hred : d.deferReds n l = (d', m))
    (hpick : d'.pick m = some (c, t, l')) (hsub : l'.sub (c, t) = some x) (hpk : x.pkts = p :: r)
    (hgood : (mget d'.trn.qps (wf p.hdr 84 20)).all (fun q => decide (q.state = 1)) = true) :
    schedStep n d = handOver n c p ((d'.bump (rk (0x00F01010 + 0x20 * n) 0) 32 (b2n (decide (d'.headColor l' x = 1)))).deferReds n
      ((debit l' d'.tsh c t (pktSize p) (d'.headColor l' x)).pop (c, t))).1 := by
  have hgo : ¬ (l.state ≠ 2 ∨ 512 ≤ l.replay.length) := by omega
  simp only [schedStep, hl, if_neg hgo, hred, hpick, hsub, hpk]
  cases hq : mget d'.trn.qps (wf p.hdr 84 20) with
  | none => simp only [Bool.false_eq_true, if_false]
  | some q =>
    have hready : q.state = 1 := by simpa [hq] using hgood
    simp only [hready, ne_eq, not_true_eq_false, decide_false, Bool.false_and, Bool.false_eq_true, if_false]

theorem refillStep_of_up {d : Dev} {n : Nat} {l : Link} (hl : mget d.links n = some l) (hup : l.state = 2) :
    refillStep n d = d.setLink n (d.joinAll (refill d.tsh l)) := by
  simp only [refillStep, hl, hup, if_true]

/-- A refill event adds to a bucket up to its size. -/
theorem refill_bucket {m : NMap Policer} {i : Nat} {p : Policer} (h : (i, p) ∈ m) (l : Link) :
    (i, (min (64 * p.cbs) ((mgetD l.buckets i (64 * p.cbs, 64 * p.pbs)).1 + p.cinc),
      min (64 * p.pbs) ((mgetD l.buckets i (64 * p.cbs, 64 * p.pbs)).2 + p.pinc))) ∈ (refill m l).buckets :=
  List.mem_map.mpr ⟨(i, p), h, rfl⟩

/-- Settles O24: the front of the waiting packets, the pick of a store whose red packets are counted, and a refill event. -/
theorem schedulerAndPolicer : Obligations.SchedulerAndPolicer := by
  unfold Obligations.SchedulerAndPolicer
  refine ⟨fun s n l p r q path hrun hl hwait hq hready hpath hcredit hfits hseq => ?_, fun s n l hrun hl hup hroom => ?_, fun s n l hl hup => ⟨?_, ?_⟩⟩
  · exact State.run_gateUnit (f := fun d => enqueueStep n d) hrun
      (enqueueStep_of_first hl hwait (Dev.tryEnqueue_of_room (d := { s.dev with waitq := r }) hq hready hpath hcredit hfits hseq))
  · intro m d c t l' x p r hpick hsub hpk hgood y
    exact State.run_gateUnit (f := fun d => schedStep n d) hrun (schedStep_of_pick hl hup hroom rfl hpick hsub hpk hgood)
  · exact State.run_to (refillStep_of_up hl hup)
  · exact fun i p h => ⟨_, _, refill_bucket h l, Nat.min_le_left .., Nat.min_le_left .., rfl⟩

end Sys2Proof.Machine
end

section
/-! # Flits: what is taken, sent again and acknowledged -/
open Sys2Proof
namespace Sys2Proof.Machine

/-- The link once the acknowledgement of a flit is applied (R254). -/
def Link.heardAck (l : Link) (f : Bytes) : Link := if fld (leAt f 0 6) 24 1 = 1 then ackLink (fld (leAt f 0 6) 12 12) l else l

/-- A flit that asks for the ones after its ACKSEQ again, on a link that holds some. -/
def Link.asksAgain (l : Link) (f : Bytes) : Prop := fld (leAt f 0 6) 25 1 = 1 ∧ (!l.replay.isEmpty) = true

/-- The link's stored flits, marked as sent once more with the newest ACKSEQ. -/
def Link.again (l : Link) : Link := { l with replay := l.replay.map (fun e => (e.1, reAck l e.2.1, e.2.2 + 1)) }

/-- The counts of a flit's codewords (R282). -/
def Dev.countWords (d : Dev) (n corr unc : Nat) : Dev :=
  (d.bump (rk (0x00C00028 + 0x4000 * n) 0) 32 corr).bump (rk (0x00C00028 + 0x4000 * n) 32) 32 unc

/-- Every stored flit sent again. -/
def Dev.sendAgain (d : Dev) (n : Nat) (l : Link) : Dev :=
  l.replay.foldl (fun d e => d.flitOut n e.2.1) ((d.setLink n l).bump (rk (0x00C00020 + 0x4000 * n) 32) 32 1)

/-- The flit with NAK that answers a flit that is not taken. -/
def Dev.flitNak (d : Dev) (n : Nat) (l : Link) : Dev :=
  if l.nak then d else
  ((d.setLink n { l.ackNow with nak := true }).bump (rk (0x00C00020 + 0x4000 * n) 0) 32 1).flitOut n (mkFlit l.ackNow 1 0 0xFF true [])

/-- What a good flit brings, once what it acknowledges and asks for is done. -/
def Dev.flitBody (d : Dev) (n : Nat) (f : Bytes) : Dev :=
  match mget d.links n with
  | none => d
  | some l =>
    if fld (leAt f 0 6) 26 2 = 1 then d.bump (rk (0x00C00018 + 0x4000 * n) 0) 64 1 else
    let want := if l.rxany then (l.rxlast + 1) % 4096 else 0
    if fld (leAt f 0 6) 0 12 ≠ want then d.flitNak n l else
    let l := { l with rxlast := want, rxany := true, nak := false }
    let l := if fld (leAt f 0 6) 26 2 = 0 then takeFlit (fld (leAt f 0 6) 28 8) (sliceB f 6 242) l else l
    let d' := d.bump (rk (0x00C00018 + 0x4000 * n) 0) 64 1
    if d.chipReset && l.rxFull then d'.setLink n l else (d'.setLink n l.ackNow).flitOut n (mkFlit l.ackNow 1 0 0xFF false [])

/-! ### The step, in its parts -/

section
variable {d : Dev} {n : Nat} {l : Link} {f : Bytes} (hl : mget d.links n = some l) (hup : l.state = 2) (hlen : f.length = 256) (corr unc : Nat)
include hl hup hlen

theorem flitStep_of_badFec : flitStep n f false corr unc d = (d.countWords n corr unc).flitNak n l := by
  simp [flitStep, hl, hup, hlen, Dev.countWords, Dev.flitNak]

variable (hcrc : leAt f 248 8 = crc64 0 (f.take 248)) (hbits : fld (leAt f 0 6) 36 12 = 0) (htype : fld (leAt f 0 6) 26 2 ≠ 3)
include hcrc hbits htype

theorem flitStep_of_new (hnew : ¬ (l.heardAck f).asksAgain f) :
    flitStep n f true corr unc d = (((d.countWords n corr unc).setLink n (l.heardAck f)).pump n 512).flitBody n f := by
  have hgo : ¬ (l.state ≠ 2 ∨ f.length ≠ 256) := by omega
  unfold Link.asksAgain at hnew
  unfold Link.heardAck at hnew ⊢
  simp only [flitStep, hl, if_neg hgo, hcrc, hbits, htype, ne_eq, not_false_eq_true, decide_true, Bool.and_true, Bool.not_true, Bool.false_eq_true,
    if_false, hnew, false_and]
  rfl

theorem flitStep_of_again (hagain : (l.heardAck f).asksAgain f) :
    flitStep n f true corr unc d = if (l.heardAck f).again.replay.any (fun e => decide (8 ≤ e.2.2)) = true
      then lossStep n ((d.countWords n corr unc).sendAgain n (l.heardAck f).again)
      else (((d.countWords n corr unc).sendAgain n (l.heardAck f).again).pump n 512).flitBody n f := by
  have hgo : ¬ (l.state ≠ 2 ∨ f.length ≠ 256) := by omega
  unfold Link.asksAgain at hagain
  unfold Link.heardAck at hagain ⊢
  simp only [flitStep, hl, if_neg hgo, hcrc, hbits, htype, ne_eq, not_false_eq_true, decide_true, Bool.and_true, Bool.not_true, Bool.false_eq_true,
    if_false, hagain, true_and, and_self, if_true]
  rfl

end

/-! ### What sending leaves alone -/

theorem Dev.chipReset_congr {d d' : Dev} (h : d'.rcv = d.rcv) : d'.chipReset = d.chipReset := by simp only [Dev.chipReset, h]

theorem Dev.rcv_pump (n k : Nat) : ∀ d : Dev, (d.pump n k).rcv = d.rcv := by
  induction k with
  | zero => exact fun d => rfl
  | succ k ih =>
    intro d
    unfold Dev.pump
    split
    · rfl
    · dsimp only
      split
      · rfl
      · exact ih _

theorem Dev.rcv_sendAgain (d : Dev) (n : Nat) (l : Link) : (d.sendAgain n l).rcv = d.rcv := by
  suffices h : ∀ (r : List (Nat × Bytes × Nat)) (d : Dev), (r.foldl (fun d e => d.flitOut n e.2.1) d).rcv = d.rcv from h _ _
  intro r
  induction r with
  | nil => exact fun d => rfl
  | cons e r ih => exact fun d => ih _

/-! ### The flit's own content -/

section
variable {d : Dev} {n : Nat} {l : Link} {f : Bytes} (hl : mget d.links n = some l)
include hl

theorem Dev.flitBody_idle (hidle : fld (leAt f 0 6) 26 2 = 1) : d.flitBody n f = d.bump (rk (0x00C00018 + 0x4000 * n) 0) 64 1 := by
  simp only [Dev.flitBody, hl, hidle, if_true]

theorem Dev.flitBody_wanted (hdata : fld (leAt f 0 6) 26 2 = 0 ∨ fld (leAt f 0 6) 26 2 = 2)
    (hseq : fld (leAt f 0 6) 0 12 = if l.rxany then (l.rxlast + 1) % 4096 else 0) :
    let y := { l with rxlast := fld (leAt f 0 6) 0 12, rxany := true, nak := false }
    let x := if fld (leAt f 0 6) 26 2 = 0 then takeFlit (fld (leAt f 0 6) 28 8) (sliceB f 6 242) y else y
    let d' := d.bump (rk (0x00C00018 + 0x4000 * n) 0) 64 1
    d.flitBody n f = if (d.chipReset && x.rxFull) = true then d'.setLink n x
      else (d'.setLink n x.ackNow).flitOut n (mkFlit x.ackNow 1 0 0xFF false []) := by
  have hno : ¬ fld (leAt f 0 6) 26 2 = 1 := by omega
  simp only [Dev.flitBody, hl, if_neg hno, ← hseq, ne_eq, not_true_eq_false, if_false]

end

/-- Settles O18: a good flit's acknowledgement and NAK come first, then its own content; one that fails its FEC is answered by a NAK. -/
theorem flitsAreTakenOrRefused : Obligations.FlitsAreTakenOrRefused := by
  unfold Obligations.FlitsAreTakenOrRefused
  intro s n l f corr unc hrun hl hup hlen h d0 got l1 again l2 d2
  refine ⟨fun hcrc hbits htype => ⟨fun d hd m hm => ?_, fun hagain hmany => ?_⟩, fun hnak => ?_⟩
  · have hreset : d.chipReset = s.dev.chipReset := by
      refine Dev.chipReset_congr ?_
      obtain ⟨-, rfl⟩ | ⟨-, -, rfl⟩ := hd
      · exact Dev.rcv_pump ..
      · exact (Dev.rcv_pump ..).trans (Dev.rcv_sendAgain d0 n l2)
    have hstep : flitStep n f true corr unc s.dev = d.flitBody n f := by
      obtain ⟨hnew, rfl⟩ | ⟨hagain, hfew, rfl⟩ := hd
      · exact flitStep_of_new hl hup hlen corr unc hcrc hbits htype hnew
      · refine (flitStep_of_again hl hup hlen corr unc hcrc hbits htype hagain).trans (if_neg ?_)
        intro hmany
        obtain ⟨e, he, h8⟩ := List.any_eq_true.mp hmany
        exact absurd (of_decide_eq_true h8) (Nat.not_le.mpr (hfew e he))
    refine ⟨fun hidle => State.run_gateUnit hrun (hstep.trans (Dev.flitBody_idle hm hidle)), fun hdata hseq => ⟨fun hroom => ?_, fun hfull => ?_⟩⟩
    · exact State.run_gateUnit hrun (hstep.trans ((Dev.flitBody_wanted hm hdata hseq).trans (if_neg (by rw [hreset]; exact Bool.eq_false_iff.mp hroom))))
    · exact State.run_gateUnit hrun (hstep.trans ((Dev.flitBody_wanted hm hdata hseq).trans (if_pos (by rw [hreset]; exact hfull))))
  · refine State.run_gateUnit hrun ((flitStep_of_again hl hup hlen corr unc hcrc hbits htype hagain).trans (if_pos ?_))
    obtain ⟨e, he, h8⟩ := hmany
    exact List.any_eq_true.mpr ⟨e, he, decide_eq_true h8⟩
  · exact State.run_gateUnit hrun ((flitStep_of_badFec hl hup hlen corr unc).trans (if_neg (Bool.eq_false_iff.mp hnak)))

end Sys2Proof.Machine
end

section
/-! # Packets at ingress -/
open Sys2Proof
namespace Sys2Proof.Machine

/-! ### The oldest packet of a link -/

theorem ingressStep_of_front {d : Dev} {n : Nat} {l : Link} {h : W512} {pay : Bytes} {r : List (W512 × Bytes)} (hl : mget d.links n = some l)
    (hrx : l.rxpkts = (h, pay) :: r) (hfree : d.ingressHeld ⟨n, h, pay⟩ = false) :
    ingressStep n (h, pay) d = arrive ⟨n, h, pay⟩ { d with links := mset d.links n { l with rxpkts := r } } := by
  simp [ingressStep, hl, hrx, hfree]

theorem ingressStep_of_held {d : Dev} {n : Nat} {l : Link} {h : W512} {pay : Bytes} {r : List (W512 × Bytes)} (hl : mget d.links n = some l)
    (hrx : l.rxpkts = (h, pay) :: r) (hheld : d.ingressHeld ⟨n, h, pay⟩ = true) : ingressStep n (h, pay) d = d := by
  simp [ingressStep, hl, hrx, hheld]

theorem ingressStep_of_other {d : Dev} {n : Nat} {l : Link} {p p' : W512 × Bytes} {r : List (W512 × Bytes)} (hl : mget d.links n = some l)
    (hrx : l.rxpkts = p :: r) (hne : p ≠ p') : ingressStep n p' d = d := by
  simp [ingressStep, hl, hrx, hne]

theorem Dev.ingressHeld_of_chk1 {d : Dev} {p : InPkt} {q : Qp} (hgood : chk1 d p = true) (hq : mget d.trn.qps (hDqp p.hdr) = some q) :
    d.ingressHeld p = (d.partHeld q.part || (!q.cached && !d.parkRoom q p.hdr)) := by
  simp only [Dev.ingressHeld, hgood, hq, Bool.true_and]

theorem Dev.ingressHeld_of_badHeader {d : Dev} {p : InPkt} (hbad : chk1 d p = false) : d.ingressHeld p = false := by
  simp only [Dev.ingressHeld, hbad, Bool.false_and]

/-! ### What becomes of it -/

section
variable {d : Dev} {p : InPkt} {q : Qp}

theorem arrive_of_badCrc (hbad : chk1 d p = false) (hcrc : crc32c (leBytes 60 (p.hdr.toNat % 2 ^ 480)) ≠ wf p.hdr 480 32) :
    arrive p d = d.dropPkt 1 p.hdr := by
  have hno : ¬ (crc32c (leBytes 60 (p.hdr.toNat % 2 ^ 480)) = wf p.hdr 480 32 ∧ hDst p.hdr = d.pwr.node) := fun h => hcrc h.1
  simp only [arrive, hbad, Bool.not_false, if_true, if_neg hno]

variable (hgood : chk1 d p = true) (hq : mget d.trn.qps (hDqp p.hdr) = some q)
include hgood hq

theorem arrive_of_cached (hcached : q.cached = true) : arrive p d = d.runChecks p := by
  simp only [arrive, hgood, hq, hcached, Bool.not_true, Bool.false_eq_true, if_false, if_true]

theorem arrive_of_uncached (hcached : q.cached = false) :
    let q1 := if hCtl p.hdr then q else { q with reserved := q.reserved - 1 }
    let d1 := d.setQp (hDqp p.hdr) q1
    arrive p d = ({ d1 with trn := { d1.trn with parked := d1.trn.parked ++ [(hDqp p.hdr, p)] } }).fetchQp (hDqp p.hdr) q1 := by
  simp only [arrive, hgood, hq, hcached, Bool.not_true, Bool.false_eq_true, if_false]

end

/-! ### The checks passed -/

/-- The device that notes the use of a QP's context. -/
def Dev.usedQp (d : Dev) (n : Nat) (q : Qp) : Dev := ({ d with trn := { d.trn with clock := d.trn.clock + 1 } }).setQp n { q with used := d.trn.clock + 1 }

section
variable {d : Dev} {p : InPkt} {q q' : Qp} {pt : Bytes} (hq : mget d.trn.qps (hDqp p.hdr) = some q) (h2 : chk2 q p.hdr = true)
  (h3 : chk3 d q p = some (pt, q')) (h4 : chk4 p = true) (h7 : chk7 d p.hdr = true)
include hq h2 h3 h4 h7

theorem Dev.runChecks_of_ctl (hctl : hCtl p.hdr = true) :
    d.runChecks p = ((d.usedQp (hDqp p.hdr) q').bump (rk 0x00E00008 48) 16 (b2n (decide (d.trn.epoch < hFence p.hdr)))).takePkt p pt false := by
  have h7' : chk7 (d.usedQp (hDqp p.hdr) q') p.hdr = true := h7
  unfold Dev.usedQp at h7' ⊢
  simp only [Dev.runChecks, hq, h2, h3, h4, h7', hctl, Bool.not_true, Bool.false_eq_true, if_false, if_true]
  rfl

theorem Dev.runChecks_of_data {k : AKey} (hctl : hCtl p.hdr = false) (hread : readFits { q' with used := d.trn.clock + 1 } p.hdr pt = true)
    (h5 : chk5 (d.usedQp (hDqp p.hdr) q') { q' with used := d.trn.clock + 1 } p.hdr = true)
    (hkey : mget d.trn.keys (hAkidx p.hdr) = some k) (hcached : k.cached = true) (h8 : chk8 d { q' with used := d.trn.clock + 1 } p.hdr = true)
    {sub : Bool} (hsub : sub = ((d.usedQp (hDqp p.hdr) q').opens { q' with used := d.trn.clock + 1 } p.hdr && takesSub { q' with used := d.trn.clock + 1 } p.hdr))
    {q2 : Qp} (hq2 : q2 = { q' with used := d.trn.clock + 1, pktTaken := q'.pktTaken + 1, subTaken := q'.subTaken + b2n sub })
    (h6 : chk6 q2 p.hdr pt (some k) = true) :
    d.runChecks p = (((d.usedQp (hDqp p.hdr) q').setQp (hDqp p.hdr) q2).bump (rk 0x00E00008 48) 16
      (b2n (decide (d.trn.epoch < hFence p.hdr)))).takePkt p pt sub := by
  have hlate : ((d.usedQp (hDqp p.hdr) q').setQp (hDqp p.hdr) q2).lateChecks q2 p pt sub (some k) =
      (((d.usedQp (hDqp p.hdr) q').setQp (hDqp p.hdr) q2).bump (rk 0x00E00008 48) 16 (b2n (decide (d.trn.epoch < hFence p.hdr)))).takePkt p pt sub := by
    have h7' : chk7 ((d.usedQp (hDqp p.hdr) q').setQp (hDqp p.hdr) q2) p.hdr = true := h7
    have h8' : chk8 (((d.usedQp (hDqp p.hdr) q').setQp (hDqp p.hdr) q2).bump (rk 0x00E00008 48) 16
        (b2n (decide (((d.usedQp (hDqp p.hdr) q').setQp (hDqp p.hdr) q2).trn.epoch < hFence p.hdr)))) q2 p.hdr = true := by rw [hq2]; exact h8
    simp only [Dev.lateChecks, h6, h7', h8', Bool.not_true, Bool.false_eq_true, if_false]
    rfl
  have hkey' : mget ((d.usedQp (hDqp p.hdr) q').setQp (hDqp p.hdr) q2).trn.keys (hAkidx p.hdr) = some k := hkey
  rw [← hlate]
  subst hq2 hsub
  unfold Dev.usedQp at h5 hkey' ⊢
  simp only [Dev.runChecks, hq, h2, h3, h4, hctl, hread, h5, hkey', hcached, Bool.not_true, Bool.false_eq_true, if_false, if_true]

end

/-- Settles O20: the oldest packet of the link, by what holds of its header, its QP's context and its checks. -/
theorem packetsPassTheirChecks : Obligations.PacketsPassTheirChecks := by
  unfold Obligations.PacketsPassTheirChecks
  intro s n l h pay r q hrun hl hrx hq p d free
  have hgo : ∀ {d' : Dev} (p' : W512 × Bytes), ingressStep n p' s.dev = d' → exec (.packetIngress n p'.1 p'.2) s = .next (s.went d') := fun p' hstep =>
    hstep ▸ State.run_gate_of_running hrun (ingressStep n p')
  refine ⟨fun hfree hgood hcached h2 pt q' h3 h4 h7 => ?_, fun hfree hgood hcached hroom => ?_, fun hgood hheld => ?_, fun hbad hcrc => ?_,
    fun h' pay' hne => hgo (h', pay') (ingressStep_of_other hl hrx hne)⟩
  · have hin : ingressStep n (h, pay) s.dev = d.runChecks p := by
      refine (ingressStep_of_front hl hrx ?_).trans (arrive_of_cached (d := d) (p := p) hgood hq hcached)
      rw [Dev.ingressHeld_of_chk1 (d := s.dev) (p := p) hgood hq, hcached, show s.dev.partHeld q.part = false from hfree]
      rfl
    exact ⟨fun hctl => hgo (h, pay) (hin.trans (Dev.runChecks_of_ctl (d := d) (p := p) hq h2 h3 h4 h7 hctl)),
      fun k hctl hread h5 hkey hkc h8 h6 => hgo (h, pay)
        (hin.trans (Dev.runChecks_of_data (d := d) (p := p) hq h2 h3 h4 h7 hctl hread h5 hkey hkc h8 rfl rfl h6))⟩
  · refine hgo (h, pay) ((ingressStep_of_front hl hrx ?_).trans (arrive_of_uncached (d := d) (p := p) hgood hq hcached))
    rw [Dev.ingressHeld_of_chk1 (d := s.dev) (p := p) hgood hq, hroom, show s.dev.partHeld q.part = false from hfree, Bool.not_true, Bool.and_false]
    rfl
  · refine hgo (h, pay) (ingressStep_of_held hl hrx ?_)
    rw [Dev.ingressHeld_of_chk1 (d := s.dev) (p := p) hgood hq]
    obtain hpart | ⟨hun, hfull⟩ := hheld
    · rw [hpart, Bool.true_or]
    · rw [hun, hfull, Bool.not_false, Bool.and_true, Bool.or_true]
  · exact hgo (h, pay) ((ingressStep_of_front hl hrx (Dev.ingressHeld_of_badHeader (d := s.dev) (p := p) hbad)).trans
      (arrive_of_badCrc (d := d) (p := p) hbad hcrc))

end Sys2Proof.Machine
end

section
/-! # Merges and reports -/
open Sys2Proof
namespace Sys2Proof.Machine

/-! ### The merge in a stack -/

section
variable {d : Dev} {n i : Nat} {e : Tenon} (he : mget d.atn.table i = some e) (hphase : e.phase = .working) (hidle : d.stackBusy n i e = false)
  (hparts : e.parts.any (fun p => decide (p.1.1 / 512 = n)) = true)
include he hphase hidle hparts

theorem stackMergeStep_of_merged {l : List (Nat × Partial)} (hmerge : mergeRows (rowParts e.parts (512 * n) (512 * n + 512)) (List.range e.tn.rows) = .ok l) :
    stackMergeStep n i d = (d.setStack n { d.stack n with
        ctxs := (d.stack n).ctxs.filter (· ≠ i), copies := (d.stack n).copies.filter (fun c => decide (c.tidx ≠ i)) }).modTenon i (fun e =>
        { e with parts := e.parts.filter (fun p => decide (p.1.1 / 512 ≠ n)), stackDone := e.stackDone ++ l.map (fun x => (n, x.1, x.2)) }) := by
  simp only [stackMergeStep, he, hphase, hidle, hparts, hmerge, ne_eq, not_true_eq_false, Bool.false_eq_true, Bool.not_true, or_self, if_false]

theorem stackMergeStep_of_fault {insn cause : Nat}
    (hmerge : mergeRows (rowParts e.parts (512 * n) (512 * n + 512)) (List.range e.tn.rows) = .error (insn, cause)) :
    stackMergeStep n i d = d.report ⟨i, .programFault, 0, 4096 + n, cause, insn, 0, false, default⟩ := by
  simp only [stackMergeStep, he, hphase, hidle, hparts, hmerge, ne_eq, not_true_eq_false, Bool.false_eq_true, Bool.not_true, or_self, if_false]

end

/-! ### The merge of a tenon -/

theorem tenonMergeStep_of_ended {d : Dev} {i : Nat} {e : Tenon} {st : St} {info : Nat} (he : mget d.atn.table i = some e) (hphase : e.phase = .ended)
    (hres : e.result = some (st, info)) (fs : List ColFault) : tenonMergeStep i fs d = d.sendRecords i (statusRecs e.tn st info) st info := by
  simp only [tenonMergeStep, he, hphase, hres]

/-- A tenon whose every result is in and which nothing has ended. -/
structure Dev.allIn (d : Dev) (i : Nat) (e : Tenon) : Prop where
  entry : mget d.atn.table i = some e
  working : e.phase = .working
  noOrders : e.left = []
  noClusters : e.clLeft = 0
  unstaged : d.staging i = false
  merged : e.parts.any (fun p => decide (p.1.1 < 4096)) = false
  unreported : d.atn.reports.any (fun r => decide (r.tidx = i)) = false
  keyed : d.keyOk e.tn.ten e.keygen = true

theorem tenonMergeStep_of_leafFault {d : Dev} {i off c tile : Nat} {e : Tenon} {fs : List ColFault} (h : d.allIn i e)
    (hleaf : d.walkLeaf fs e = some (off, c, tile)) : tenonMergeStep i fs d = d.leafFails i e off c tile := by
  obtain ⟨he, hphase, hleft, hcl, hst, hparts, hrep, hkey⟩ := h
  simp only [tenonMergeStep, he, hphase, hleft, hcl, hst, hparts, hrep, hkey, hleaf, List.isEmpty_nil, Bool.not_true, ne_eq, not_true_eq_false,
    Bool.false_eq_true, or_self, if_false]

theorem tenonMergeStep_of_rows {d d' : Dev} {i : Nat} {e : Tenon} {fs : List ColFault} {l : List (Nat × Partial)} (h : d.allIn i e)
    (hleaf : d.walkLeaf fs e = none) (hproj : d.readProj fs e = (none, d'))
    (hmerge : mergeRows (fun r => rowStacks e.stackDone r ++ rowParts e.parts 8192 8216 r) (List.range e.tn.rows) = .ok l)
    {ps : List (Nat × Partial)} (hps : ps = (List.range e.tn.rows).map (fun r => (r, match l.find? (fun x => decide (x.1 = r)) with
          | none => emptyPart (oLenOf e.tn.shape)
          | some x => d'.rowOut e r x.2)))
    (hfinite : ps.all (fun x => outFinite e.tn.ofmt x.2) = true) :
    tenonMergeStep i fs d = (d'.dataRecs e ps).2.sendRecords i (d'.dataRecs e ps).1 .ok 0 := by
  obtain ⟨he, hphase, hleft, hcl, hst, hparts, hrep, hkey⟩ := h
  have hno : ¬ (!ps.all (fun x => outFinite e.tn.ofmt x.2)) = true := by simp [hfinite]
  subst hps
  simp only [tenonMergeStep, he, hphase, hleft, hcl, hst, hparts, hrep, hkey, hleaf, hproj, hmerge, List.isEmpty_nil, Bool.not_true, ne_eq,
    not_true_eq_false, Bool.false_eq_true, or_self, if_false]
  exact if_neg hno

/-! ### Reports -/

theorem faultReportStep_of_next {d : Dev} {r : Report} {e : Tenon} (hnext : d.nextReport = some r) (he : mget d.atn.table r.tidx = some e)
    (hended : e.phase ≠ .ended) (hdep : e.phase ≠ .departing) :
    let d' : Dev := { d with atn := { d.atn with reports := d.atn.reports.filter (· ≠ r) } }
    faultReportStep d = if r.st = .programFault then d'.programFault r.tidx r.unit r.cause r.insn else d'.dataReport r e := by
  simp only [faultReportStep, hnext, he, hended, hdep, or_self, if_false]

/-- Settles O28: the merge of a stack, the merge of a tenon by its phase and what its reads give, and the next report. -/
theorem mergesAndReports : Obligations.MergesAndReports := by
  unfold Obligations.MergesAndReports
  intro s i e he
  refine ⟨fun n l hrun hphase hidle hparts hmerge => State.run_gateUnit hrun (stackMergeStep_of_merged he hphase hidle hparts hmerge),
    fun n insn cause hrun hphase hidle hparts hmerge => State.run_gateUnit hrun (stackMergeStep_of_fault he hphase hidle hparts hmerge), fun hrun => ?_⟩
  have hgo : ∀ {f : Dev → Dev} {d' : Dev}, f s.dev = d' → s.run (Dev.gate [9] f) = .next (s.went d') := fun {f d'} hstep =>
    hstep ▸ State.run_gate_of_running hrun f
  refine ⟨fun fs st info hphase hres => hgo (tenonMergeStep_of_ended he hphase hres fs),
    fun fs d l hphase hleft hcl hst hparts hrep hkey hleaf hproj hmerge => ?_,
    fun fs off c tile hphase hleft hcl hst hparts hrep hkey hleaf => hgo (tenonMergeStep_of_leafFault ⟨he, hphase, hleft, hcl, hst, hparts, hrep, hkey⟩ hleaf),
    fun r hnext hi hended hdep => ?_⟩
  · intro ps hfinite
    exact hgo (tenonMergeStep_of_rows ⟨he, hphase, hleft, hcl, hst, hparts, hrep, hkey⟩ hleaf hproj hmerge rfl hfinite)
  · subst hi
    exact hgo (faultReportStep_of_next hnext he hended hdep)

end Sys2Proof.Machine
end

section
/-! # The bank arbiter -/
open Sys2Proof
namespace Sys2Proof.Machine

/-- Whether a refresh goes: one is due, and nothing else claims the bank or two slots have passed since the last one (R105). -/
def Bank.refreshes (b : Bank) (eng : Option Stroke) : Prop := 0 < b.due ∧ ((eng = none ∧ b.ords = []) ∨ 2 ≤ b.since)

/-- The grant of a slot, on a device whose last slot has ended. -/
def Dev.slotGrant (d : Dev) (stack die key : Nat) (b : Bank) (eng : Option Stroke) : Dev :=
  if 0 < b.due ∧ (!(eng.isSome || !b.ords.isEmpty) ∨ 2 ≤ b.since) then d.setBank key b.refresh
  else match eng with
    | some s => if !!b.ords.isEmpty ∨ b.turn then d.grantStroke stack die key b s else d.grantOrdinary stack key b true
    | none => if !b.ords.isEmpty then d.grantOrdinary stack key b false else d

theorem slotStep_eq (stack die bg bank : Nat) (arr : List Claim) (fs : List ColFault) (ph : Phys) (d : Dev) :
    let key := bankKey stack die bg bank
    let d0 := (d.eccAll fs).setBank key { d.bank key with ords := (d.bank key).ords ++ arr.map (⟨·, false, none⟩) }
    let d1 := d0.slotEnds key (engUnit stack die bg) (d0.bank key)
    slotStep stack die bg bank arr fs ph d = d1.slotGrant stack die key (d1.bank key) (d1.nextStroke ph stack die bg (d1.bank key)) := by
  intro key d0 d1
  rfl

theorem Bank.refreshes_iff (b : Bank) (eng : Option Stroke) :
    b.refreshes eng ↔ 0 < b.due ∧ ((!(eng.isSome || !b.ords.isEmpty)) = true ∨ 2 ≤ b.since) := by
  have hfree : (!(eng.isSome || !b.ords.isEmpty)) = true ↔ eng = none ∧ b.ords = [] := by
    cases eng <;> simp
  rw [hfree]
  rfl

section
variable {d : Dev} {stack die key : Nat} {b : Bank} {eng : Option Stroke}

theorem Dev.slotGrant_of_refresh (h : b.refreshes eng) :
    d.slotGrant stack die key b eng = d.setBank key { b with held := some .refresh, due := b.due - 1, since := 0, acts := 0 } :=
  if_pos ((b.refreshes_iff eng).mp h)

theorem Dev.slotGrant_of_stroke {x : Stroke} (h : ¬ b.refreshes eng) (hx : eng = some x) (hturn : b.ords = [] ∨ b.turn = true) :
    d.slotGrant stack die key b eng = d.grantStroke stack die key b x := by
  subst hx
  refine (if_neg (mt (b.refreshes_iff _).mpr h)).trans (if_pos ?_)
  simpa using hturn

theorem Dev.slotGrant_of_ordinary {c : OrdClaim} {r : List OrdClaim} (h : ¬ b.refreshes eng) (hords : b.ords = c :: r) (hturn : eng = none ∨ b.turn = false) :
    d.slotGrant stack die key b eng = d.grantOrdinary stack key b eng.isSome := by
  refine (if_neg (mt (b.refreshes_iff _).mpr h)).trans ?_
  cases eng with
  | none => exact if_pos (by simp [hords])
  | some x => exact if_neg (by simpa [hords] using hturn)

theorem Dev.slotGrant_of_nothing (h : ¬ b.refreshes none) (hords : b.ords = []) : d.slotGrant stack die key b none = d :=
  (if_neg (mt (b.refreshes_iff _).mpr h)).trans (if_neg (by simp [hords]))

end

/-! ### What the bank holds after a grant -/

@[simp] theorem Dev.bank_setBank_self (d : Dev) (k : Nat) (b : Bank) : (d.setBank k b).bank k = b := by
  simp [Dev.bank, Dev.setBank, mgetD]

/-- The cap on a die marks its banks' strokes and nothing else of them. -/
theorem Dev.bank_capMark (d : Dev) (stack die k : Nat) : ((d.capMark stack die).bank k).held = (d.bank k).held ∧
    ((d.capMark stack die).bank k).turn = (d.bank k).turn ∧ ((d.capMark stack die).bank k).since = (d.bank k).since ∧
    ((d.capMark stack die).bank k).strokes.length = (d.bank k).strokes.length := by
  have hsame : ∀ d' : Dev, d'.bnk.banks = d.bnk.banks → (d'.bank k).held = (d.bank k).held ∧ (d'.bank k).turn = (d.bank k).turn ∧
      (d'.bank k).since = (d.bank k).since ∧ (d'.bank k).strokes.length = (d.bank k).strokes.length := fun d' h => by simp only [Dev.bank, h, and_self]
  unfold Dev.capMark
  split
  · exact hsame d rfl
  · dsimp only
    split
    · exact hsame d rfl
    · simp only [Dev.bank, mgetD, Dev.bump, Dev.setReg, mget_mmap]
      cases mget d.bnk.banks k with
      | none => simp
      | some b =>
        simp only [Option.map_some, Option.getD_some]
        split <;> simp

theorem dropFirst_head {α : Type} [DecidableEq α] (x : α) (r : List α) : dropFirst (fun y => decide (y = x)) (x :: r) = r := by
  simp [dropFirst]

theorem Dev.head_of_nextStroke {d : Dev} {ph : Phys} {stack die bg : Nat} {b : Bank} {x : Stroke} (h : d.nextStroke ph stack die bg b = some x) :
    ∃ r, b.strokes = x :: r := by
  unfold Dev.nextStroke at h
  split at h
  · exact absurd h (by simp)
  · next s r hs =>
    split at h
    · cases h
      exact ⟨r, hs⟩
    · exact absurd h (by simp)

theorem Dev.bank_grantStroke (d : Dev) (stack die key : Nat) {b : Bank} {x : Stroke} {r : List Stroke} (hb : b.strokes = x :: r) :
    ((d.grantStroke stack die key b x).bank key).held = some (.stroke x) ∧ ((d.grantStroke stack die key b x).bank key).turn = false ∧
    ((d.grantStroke stack die key b x).bank key).strokes.length + 1 = b.strokes.length ∧
    ((d.grantStroke stack die key b x).bank key).since = b.since + 1 := by
  unfold Dev.grantStroke
  dsimp only
  split <;>
  · obtain ⟨hheld, hturn, hsince, hlen⟩ := Dev.bank_capMark _ stack die key
    rw [hheld, hturn, hsince, hlen]
    simp [Dev.bank, Dev.setBank, Dev.setStack, Dev.bump, Dev.setReg, mgetD, Bank.activate, hb, dropFirst_head]

theorem Dev.bank_grantOrdinary (d : Dev) (stack key : Nat) {b : Bank} {c : OrdClaim} {r : List OrdClaim} (eng : Bool) (hb : b.ords = c :: r) :
    ((d.grantOrdinary stack key b eng).bank key).held = some (.ordinary c) ∧ ((d.grantOrdinary stack key b eng).bank key).turn = (b.turn || eng) ∧
    ((d.grantOrdinary stack key b eng).bank key).ords = r ∧ ((d.grantOrdinary stack key b eng).bank key).since = b.since + 1 := by
  unfold Dev.grantOrdinary
  simp only [hb]
  split <;> simp [Dev.bank, Dev.setBank, Dev.bump, Dev.setReg, mgetD, Bank.activate]

/-- Settles O29: the grant by the claims the bank has once its last slot has ended, a due refresh, and the window's end. -/
theorem bankArbitration : Obligations.BankArbitration := by
  unfold Obligations.BankArbitration
  refine ⟨fun s n die bg bank arr fs => ?_, fun s n die bg bank hawake =>
    State.run_to (f := fun d => if d.asleep then d else refreshStep n die bg bank d) (if_neg (Bool.eq_false_iff.mp hawake)), fun s n => State.run_to rfl⟩
  intro key b0 d0 d b eng ref
  have hgo : ∀ {d' : Dev}, d.slotGrant n die key b eng = d' →
      exec (.slotBoundary n die bg bank arr fs) s = .next (s.went (d'.fillSend fs)) := fun hgrant =>
    State.run_to (f := fun d => (slotStep n die bg bank arr fs s.phys d).fillSend fs)
      (congrArg (fun d => d.fillSend fs) ((slotStep_eq n die bg bank arr fs s.phys s.dev).trans hgrant))
  refine ⟨fun href => hgo (Dev.slotGrant_of_refresh href), fun href x hx hturn => ?_, fun href c r hords hturn => ?_,
    fun href heng hords => hgo ?_⟩
  · obtain ⟨r, hr⟩ := Dev.head_of_nextStroke hx
    exact ⟨by rw [hr]; rfl, hgo (Dev.slotGrant_of_stroke href hx hturn), Dev.bank_grantStroke d n die key hr⟩
  · exact ⟨hgo (Dev.slotGrant_of_ordinary href hords hturn), Dev.bank_grantOrdinary d n key eng.isSome hords⟩
  · rw [heng]
    exact Dev.slotGrant_of_nothing (heng ▸ href) hords

end Sys2Proof.Machine
end

section
/-! # OPEN and the publication of a waiting edit -/
open Sys2Proof
namespace Sys2Proof.Machine

/-- An OPEN that no condition of R14 meets, for a geometry that Table 5.9 allows, opens its slot. -/
theorem openGo_of_room {w : Work} {d : Dev} {g : Geom} {slot : Nat} (haway : d.rqpAway w.src w.rqp = false)
    (hrqp : d.rqpOk w.src false w.rqp w.ten (wf w.desc 12 4) = true) (hfence : d.trn.fenced = false) (hkey : d.keyOk w.ten w.keygen = true)
    (hadm : d.admitted w.ten (wf w.desc 12 4) = true) (hok : scOk w.desc = true) (hop : scOp w.desc = 0) (hextra : w.extra = [])
    (hgeom : openGeom w.desc = some g) (hquota : d.usage w.ten + scRpages w.desc * g.lanes * (fKib g.fcls + 1) ≤ (d.tenant w.ten).quota)
    (hquota0 : (d.tenant w.ten).quota ≠ 0) (hslot : d.ownSlot = some slot) (hblk : d.blkRoom (ldBlocks 4 (cdiv g.lanes 16)) = true)
    (ht1 : scRpages w.desc * g.lanes * (fKib g.fcls + 1) ≤ d.t1Open) :
    openGo w d = some ((d.openSlot slot w.ten (wf w.desc 12 4) (mgetD d.pgm.sgens slot 0) (mkHandle slot d.pwr.node (mgetD d.pgm.sgens slot 0)) g
      (scRpages w.desc * g.lanes)).answer w.src w.rqp w.roff w.tag w.ten 2 0 0
      [(0, scRecord w.desc .ok (mkHandle slot d.pwr.node (mgetD d.pgm.sgens slot 0)))]) := by
  have hq : decide ((d.tenant w.ten).quota < d.usage w.ten + scRpages w.desc * g.lanes * (fKib g.fcls + 1)) = false :=
    decide_eq_false (Nat.not_lt.mpr hquota)
  have ht : ¬ d.t1Open < scRpages w.desc * g.lanes * (fKib g.fcls + 1) := Nat.not_lt.mpr ht1
  simp only [openGo, haway, hrqp, hfence, hkey, hadm, hok, hop, hextra, hgeom, hq, hquota0, hslot, hblk, if_neg ht, Bool.false_eq_true, Bool.not_true,
    Bool.or_self, List.isEmpty_nil, Option.isNone_some, ne_eq, not_true_eq_false, decide_false, cond_false, List.append_nil, firstCond, if_false]

theorem openStep_of_front {d d0 d' : Dev} {w : Work} {r : List Work} (hq : d.pgm.queue = w :: r) (hop : w.op = 5)
    (hd0 : d0 = d.pgm.queue.foldl (fun d w => if w.op = 5 && d.rqpAway w.src w.rqp then d.rqpFetch w.rqp else d) d)
    (hgo : openGo w { d0 with pgm := { d0.pgm with queue := r } } = some d') : openStep d = d' := by
  unfold openStep
  rw [← hd0, hq]
  simp [openTry, hop, hgo]

theorem editPublishStep_of_room {d : Dev} {slot : Nat} {e : Edit} {p : Prep} (hrun : d.running slot = some e) (hphase : e.phase = .slot)
    (hprep : e.prep = some p) (hfence : e.fenced d = false)
    (hsrc : ∀ k x, p.src = some k → mget d.pgm.seqs k = some x → slotsFree x p.srcLanes = true)
    (hown : ∀ q, mget d.pgm.seqs slot = some q → slotsFree q p.lanes = true) : editPublishStep slot d = d.publish slot e p := by
  simp only [editPublishStep, hrun, hphase, hprep, hfence]
  refine if_pos ?_
  have hown' : ∀ o, o = mget d.pgm.seqs slot → (match o with | none => true | some q => slotsFree q p.lanes) = true := by
    intro o ho
    cases o with
    | none => rfl
    | some q => exact hown q ho.symm
  have hsrc' : ∀ o, o = p.src.bind (mget d.pgm.seqs) → (match o with | none => true | some q => slotsFree q p.srcLanes) = true := by
    intro o ho
    cases o with
    | none => rfl
    | some x =>
      obtain ⟨k, hk, hx⟩ := Option.bind_eq_some_iff.mp ho.symm
      exact hsrc k x hk hx
  simp only [Bool.not_false, Bool.and_true, Bool.and_eq_true]
  exact ⟨hown' _ rfl, hsrc' _ rfl⟩

/-- Settles O32: the front OPEN meets no condition, and the edit that waits finds its slots free. -/
theorem opensAndPublishes : Obligations.OpensAndPublishes := by
  unfold Obligations.OpensAndPublishes
  refine ⟨fun s w r g slot hrun hq hop => ?_, fun s slot e p hrun hedit hphase hprep hfence hsrc hown => ?_⟩
  · intro d0 haway x part d kib hrqp hfence hkey hadm hok hscop hextra hgeom hquota hquota0 hslot hblk ht1 h
    have hstep := openStep_of_front hq hop rfl
      (openGo_of_room (d := d) haway hrqp hfence hkey hadm hok hscop hextra hgeom hquota hquota0 hslot hblk ht1)
    exact hstep ▸ State.run_gate_of_running hrun openStep
  · exact editPublishStep_of_room hedit hphase hprep hfence hsrc hown ▸ State.run_gate_of_running hrun (editPublishStep slot)

end Sys2Proof.Machine
end

section
/-! # Remote memory access -/
open Sys2Proof
namespace Sys2Proof.Machine

/-! ### The gate of a QP -/

section
variable {d : Dev} {n : Nat} {q : Qp} (hrun : d.isStopped (7 * 4096) = false) (hq : mget d.trn.qps n = some q) (hfree : d.partHeld q.part = false)
include hrun hq hfree

theorem Dev.gateQp_of_free (f : Dev → Dev) : Dev.gateQp n f d = f d := by
  have hno : d.qpHeld n = false := by simp only [Dev.qpHeld, hq, hfree]
  simp only [Dev.gateQp, hrun, hno, Bool.or_self, Bool.false_eq_true, if_false]

theorem gateQpQ_of_free (f : QBuf → Dev → QBuf × Dev) (qb : QBuf) : gateQpQ n f qb d = f qb d := by
  have hno : d.qpHeld n = false := by simp only [Dev.qpHeld, hq, hfree]
  simp only [gateQpQ, hrun, hno, Bool.or_self, Bool.false_eq_true, if_false]

end

/-! ### The message a command names -/

section
variable {d : Dev} {n msn : Nat} {q : Qp} {m : Msg} (hq : mget d.trn.qps n = some q) (hm : q.msg msn = some m) (hopen : m.done = false)
include hq hm hopen

theorem Dev.theMsg_of_open {op : Nat} (hop : hOp m.hdr = op) : d.theMsg n msn op = some (q, m) := by
  simp [Dev.theMsg, hq, hm, hop, hopen]

theorem Dev.servable_of_ready {op : Nat} (hop : hOp m.hdr = op) (hwhole : m.complete = true) (hprior : q.prior msn = true) (hfence : d.trn.fenced = false) :
    d.servable n msn op = some (q, m) := by
  simp [Dev.servable, Dev.theMsg_of_open hq hm hopen hop, hwhole, hprior, hfence]

theorem writeQ_of_packets {op : Nat} (hop : hOp m.hdr = op) (hpk : m.pkts ≠ []) (qb : QBuf) :
    let whole := decide (m.got = hMlen m.hdr)
    let d' := ((d.modMsg n msn (fun m => { m with pkts := [], done := whole && decide (op = 0) })).rxMsg (whole && !m.complete)).settleCredit n
      (m.pkts.length - (if whole && decide (op = 1) then 1 else 0)) 0
    writeQ op n msn qb d = (placePkts qb m.pkts, (m.pkts.map (fun p => (hAddr p.hdr, hPlen p.hdr))).foldl (fun d x => d.overwrite x.1 x.2 (some (n, msn))) d') := by
  have hsome : m.pkts.isEmpty = false := by simpa using hpk
  simp only [writeQ, writeStep, Dev.msgSpans, Dev.theMsg_of_open hq hm hopen hop, hsome, Bool.false_eq_true, if_false]

end

theorem readStep_of_servable {d : Dev} {n msn : Nat} {q : Qp} {m : Msg} (h : d.servable n msn 2 = some (q, m)) (qb : QBuf) :
    readStep n msn qb d = ((d.sendMsg n ⟨3, 0, q.txclass, q.ten, d.gen q.ten, q.rbase + leAt m.payload 0 8, 0, qb.read m.addr (leAt m.payload 8 4), .none⟩).modMsg
      n msn (fun m => { m with done := true })).settleCredit n m.data.length 0 := by
  simp only [readStep, h]

theorem atomicQ_of_servable {d : Dev} {n msn : Nat} {q : Qp} {m : Msg} (h : d.servable n msn 4 = some (q, m)) (qb : QBuf) :
    let old := leNat (qb.read m.addr 8)
    let d' := ((d.sendMsg n ⟨5, 0, q.txclass, q.ten, d.gen q.ten, q.rbase + leAt m.payload 16 8, 0, leBytes 8 old, .none⟩).modMsg
      n msn (fun m => { m with done := true })).settleCredit n m.data.length 0
    atomicQ n msn qb d = (qb.place m.addr (hTen m.hdr) (hKeygen m.hdr) (leBytes 8 (atomicNew (hSubk m.hdr) old (leAt m.payload 0 8) (leAt m.payload 8 8))),
      d'.overwrite m.addr 8 (some (n, msn))) := by
  simp only [atomicQ, atomicStep, h]

/-! ### The completion of a WRITE_IMM -/

section
variable {d : Dev} {cq : Nat} {w : ImmWait} (hw : d.trn.immWait.find? (fun w => decide (w.cq = cq)) = some w)
include hw

theorem immStep_of_room {f l : Nat} {c : Cq} (hhome : d.cqHome cq = some (f, l)) (hc : mget (d.fn f).cqs l = some c) (hroom : c.free ≠ 0) :
    let d' : Dev := { d with trn := { d.trn with immWait := dropFirst (fun x => decide (x.cq = cq)) d.trn.immWait } }
    immStep cq d = (d'.cqWrite f l (cqEntry w.imm 0 1 0 0 (pack [(0, 20, w.qpn), (32, 32, w.mlen)]) (w.src % 2 ^ 16)) false).settleCredit w.qpn 1 0 := by
  simp only [immStep, hw, hhome, hc, Option.map_some, hroom, if_false]

theorem immStep_of_noCq (hhome : d.cqHome cq = none) :
    let d' : Dev := { d with trn := { d.trn with immWait := dropFirst (fun x => decide (x.cq = cq)) d.trn.immWait } }
    immStep cq d = (d'.bump (rk 0x01000010 32) 16 1).settleCredit w.qpn 1 0 := by
  simp only [immStep, hw, hhome]

end

/-- Settles O22: the message that the command names, and the oldest completion that waits for the CQ. -/
theorem memoryMessages : Obligations.MemoryMessages := by
  unfold Obligations.MemoryMessages
  refine ⟨fun s n msn q m hrun hq hm hopen hfree => ⟨fun op hop2 hop hpk => ?_, fun hwhole hprior hfence => ?_⟩, fun s cq w hrun hw => ?_⟩
  · intro whole d
    have hstep := (gateQpQ_of_free hrun hq hfree (writeQ op n msn) s.qb).trans (writeQ_of_packets hq hm hopen hop hpk s.qb)
    obtain rfl | rfl := hop2
    · exact State.runQ_to hstep
    · exact State.runQ_to hstep
  · intro done at_
    refine ⟨fun hop => ?_, fun hop => ?_⟩
    · exact State.run_to ((Dev.gateQp_of_free hrun hq hfree (readStep n msn s.qb)).trans
        (readStep_of_servable (Dev.servable_of_ready hq hm hopen hop hwhole hprior hfence) s.qb))
    · have hstep := (gateQpQ_of_free hrun hq hfree (atomicQ n msn) s.qb).trans
        (atomicQ_of_servable (Dev.servable_of_ready hq hm hopen hop hwhole hprior hfence) s.qb)
      intro old new_ qb d
      simp only [atomicNew] at hstep
      refine (State.runQ_to (s := s) (f := gateQpQ n (atomicQ n msn)) hstep).trans ?_
      dsimp only [d, qb, new_, old, done, at_]
  · intro d
    have hgo : ∀ {d' : Dev}, immStep cq s.dev = d' → exec (.writeImmCompletion cq) s = .next (s.went d') := fun hstep =>
      State.run_to ((Dev.gate_of_running (k := 7) hrun (fun d => immStep cq d)).trans hstep)
    exact ⟨fun f l c hhome hc hroom => hgo (immStep_of_room hw hhome hc hroom), fun hhome => hgo (immStep_of_noCq hw hhome)⟩

end Sys2Proof.Machine
end

section
/-! # Control packets and partials -/
open Sys2Proof
namespace Sys2Proof.Machine

/-! ### CREDIT and RESYNC -/

theorem takeCtl_same {q q' : Qp} {op : Nat} {p : InPkt} (h : takeCtl q op = some (p, q')) : ∃ c, q' = { q with ctl := c } := by
  obtain ⟨p', -, hp⟩ := Option.map_eq_some_iff.mp h
  obtain ⟨-, rfl⟩ := Prod.mk.inj hp
  exact ⟨_, rfl⟩

theorem creditStep_of_next {d : Dev} {n : Nat} {q q' : Qp} {p : InPkt} (hq : mget d.trn.qps n = some q) (htake : takeCtl q 8 = some (p, q')) :
    creditStep n d = d.setQp n { q' with
      txcl := raiseLimit q'.txcl (leAt p.payload 0 4), txsl := raiseLimit q'.txsl (leAt p.payload 4 4),
      rexp := if (leAt p.payload 8 3 + 2 ^ 24 - q'.rexp) % 2 ^ 24 < 2 ^ 23 then leAt p.payload 8 3 else q'.rexp } := by
  simp only [creditStep, hq, htake]

theorem resyncStep_of_next {d : Dev} {n : Nat} {q q' : Qp} {p : InPkt} (hq : mget d.trn.qps n = some q) (htake : takeCtl q 9 = some (p, q')) :
    let to_ := leAt p.payload 0 3
    let fwd := (to_ + 2 ^ 24 - q'.exp) % 2 ^ 24
    let low (m : Nat) : Bool := decide (fwd < 2 ^ 23 ∧ q'.dist m < fwd)
    let gone := q'.msgs.filter (fun x => low x.msn)
    let lost := gone.filter Msg.lost
    let held := d.heldBack n low
    let alone := ((held.map Prod.snd).filter (fun k => !gone.any (fun x => decide (x.msn = k)))).eraseDups
    let keep (h : W512) : Bool := !(decide (hDqp h = n) && low (hMsn h))
    let d0 := d.setQp n { q' with exp := to_, msgs := q'.msgs.filter (fun x => !low x.msn) }
    let d1 : Dev := { d0 with trn := { d0.trn with keyWait := d.trn.keyWait.filter (fun w => keep w.2.2.hdr), openWait := d.trn.openWait.filter (fun w => keep w.2.hdr) } }
    let subs := ((lost.filter (fun x => !x.done && takesSub q' x.hdr)).map Msg.msn ++ (held.filter Prod.fst).map Prod.snd).eraseDups
    resyncStep n d = (d1.bump (rk 0x00E00038 0) 64 (lost.length + alone.length)).settleCredit n (sumN (lost.map Msg.heldPkts) + held.length) subs.length := by
  simp only [resyncStep, hq, htake] <;> rfl

/-! ### PARTIAL -/

theorem Dev.merges_modMsg (d : Dev) (n msn : Nat) (f : Msg → Msg) : (d.modMsg n msn f).trn.merges = d.trn.merges := by
  unfold Dev.modMsg
  split <;> rfl

theorem Dev.shp_modMsg (d : Dev) (n msn : Nat) (f : Msg → Msg) : (d.modMsg n msn f).shp = d.shp := by
  unfold Dev.modMsg
  split <;> rfl

theorem Dev.ridgeJoin_of_first {d : Dev} {intake tag : Nat} (h : d.mergeOf intake tag = none) (ridge node addr : Nat) (opener : Option Nat) (bs : Bytes) :
    let e : Merge := ⟨intake, ridge, tag, addr, opener, [(node, bs)]⟩
    d.ridgeJoin intake ridge node tag addr opener bs = (({ d with trn := { d.trn with merges := d.trn.merges ++ [e] } }).ridgeTry e, true) := by
  simp only [Dev.ridgeJoin, h]

theorem Dev.ridgeJoin_of_open {d : Dev} {intake tag : Nat} {e : Merge} (h : d.mergeOf intake tag = some e) (ridge node addr : Nat) (opener : Option Nat) (bs : Bytes) :
    let x := if e.got.any (fun g => decide (g.1 = node)) then e else { e with got := e.got ++ [(node, bs)] }
    d.ridgeJoin intake ridge node tag addr opener bs =
      (({ d with trn := { d.trn with merges := updFirst (fun y => decide (y.intake = intake ∧ y.tag = tag)) (fun _ => x) d.trn.merges } }).ridgeTry x, false) := by
  simp only [Dev.ridgeJoin, h]

section
variable {d : Dev} {n msn : Nat} {q : Qp} {m : Msg} (hmsg : d.theMsg n msn 7 = some (q, m)) (hwhole : m.complete = true) (hfence : d.trn.fenced = false)
include hmsg hwhole hfence

theorem partialStep_of_contributor (hridge : q.type = 2) (hin : d.contributes q.ridge (hSrc m.hdr) = true) :
    let d' := d.modMsg n msn (fun m => { m with done := true })
    partialStep n msn d = (d'.ridgeJoin n q.ridge (hSrc m.hdr) (hImm m.hdr) m.addr (some n) m.payload).1.settleCredit n m.data.length
      (b2n !(d'.ridgeJoin n q.ridge (hSrc m.hdr) (hImm m.hdr) m.addr (some n) m.payload).2) := by
  simp only [partialStep, hmsg, hwhole, hfence, hridge, hin, Bool.not_true, Bool.or_self, Bool.false_eq_true, if_false, if_true]

theorem partialStep_of_stranger (hridge : q.type = 2) (hout : d.contributes q.ridge (hSrc m.hdr) = false) :
    partialStep n msn d = ((d.modMsg n msn (fun m => { m with done := true })).dropPkt 6 m.hdr).settleCredit n m.data.length 1 := by
  simp only [partialStep, hmsg, hwhole, hfence, hridge, hout, Bool.not_true, Bool.not_false, Bool.or_self, Bool.false_eq_true, if_false, if_true]

theorem partialStep_of_forward (hpeer : q.type ≠ 2) (hprior : q.prior msn = true) {w : Fwd}
    (hw : d.shp.fwds.find? (fun w => decide (w.qpn = n ∧ wf w.desc 160 32 = hImm m.hdr)) = some w) :
    partialStep n msn d = ((d.modMsg n msn (fun m => { m with done := true })).fwdDeliver w m.addr m.payload).settleCredit n m.data.length 0 := by
  simp only [partialStep, hmsg, hwhole, hfence, hpeer, hprior, Dev.shp_modMsg, hw, Bool.not_true, Bool.or_self, Bool.false_eq_true, if_false]

end

/-- Settles O23: the oldest control packet of a QP, and a whole message of partials by the QP that it came on. -/
theorem creditsAndPartials : Obligations.CreditsAndPartials := by
  unfold Obligations.CreditsAndPartials
  refine ⟨fun s n q p hrun hq => ⟨fun q' htake => ?_, fun q' htake => ?_⟩, fun s n msn q m hrun hq hm hopen hfree hop hwhole hfence => ?_⟩
  · obtain ⟨c, rfl⟩ := takeCtl_same htake
    exact ⟨_, State.run_to ((Dev.gate_of_running hrun (creditStep n)).trans (creditStep_of_next hq htake)), rfl, rfl, rfl, rfl, rfl⟩
  · have hstep := resyncStep_of_next hq htake
    intro to_ fwd low gone lost held alone keep d d1 subs
    obtain ⟨c, rfl⟩ := takeCtl_same htake
    exact State.run_to ((Dev.gate_of_running (k := 7) hrun (fun d => resyncStep n d)).trans hstep)
  · intro d
    have hmsg := Dev.theMsg_of_open hq hm hopen hop
    have hgo : ∀ {d' : Dev}, partialStep n msn s.dev = d' → exec (.partialMsg n msn) s = .next (s.went d') := fun hstep =>
      State.run_to ((Dev.gateQp_of_free hrun hq hfree (partialStep n msn)).trans hstep)
    have hmerge : ∀ tag, d.mergeOf n tag = s.dev.mergeOf n tag := fun tag => by simp only [Dev.mergeOf, d, Dev.merges_modMsg]
    refine ⟨fun hridge hin => ⟨fun hnone => hgo ?_, fun e he => hgo ?_⟩, fun hridge hout => hgo (partialStep_of_stranger hmsg hwhole hfence hridge hout),
      fun hpeer hprior w hw => hgo (partialStep_of_forward hmsg hwhole hfence hpeer hprior hw)⟩
    · refine (partialStep_of_contributor hmsg hwhole hfence hridge hin).trans ?_
      rw [Dev.ridgeJoin_of_first ((hmerge _).trans hnone)]
      rfl
    · refine (partialStep_of_contributor hmsg hwhole hfence hridge hin).trans ?_
      rw [Dev.ridgeJoin_of_open ((hmerge _).trans he)]
      rfl

end Sys2Proof.Machine
end

section
/-! # A tenon's admission -/
open Sys2Proof
namespace Sys2Proof.Machine

/-- A tenon that no condition meets takes its entry and walks. -/
theorem tenonStep_admit {d : Dev} {qb : QBuf} {w : Work} {r : List Work} {i : Nat} (hq : d.atn.queue = w :: r) (hi : d.freeTidx = some i)
    (haway : d.rqpAway w.src (parseTn w.desc).rqp = false)
    (hok : (d.tookTenon r).rqpOk w.src false (parseTn w.desc).rqp (parseTn w.desc).ten (parseTn w.desc).part = true)
    {d' : Dev} (hc : (d.tookTenon r).tenonConds qb (parseTn w.desc) w = ([], d')) :
    tenonStep qb d = ({ d' with atn := { d'.atn with table := mset d'.atn.table i ({ newTenon w (parseTn w.desc) true
      ((d'.projOf (parseTn w.desc).ten (parseTn w.desc).layer).map Proj.reader) with unspecified := d.atn.spoilt.contains w }) } }).walk qb i true := by
  rw [Dev.tookTenon] at hok hc
  simp only [tenonStep, hq, hi, haway, hok, hc, Bool.not_true, Bool.false_eq_true, if_false, firstCond]

/-- A walk of an open sequence with its arbor and a pin at hand pins the version and goes on to the pages. -/
theorem Dev.walk_of_pin {d d2 d3 : Dev} {i v : Nat} {e : Tenon} {q : Seq} (he : mget d.atn.table i = some e) (hphase : e.phase = .arborWait)
    (hopen : (d.openSeq e.tn.seq e.tn.ten e.tn.part).isSome = true) (harbor : d.takeArbor e.slot false [e.slot] = some d2)
    (hpin : d2.takePin e.slot = some (v, d3)) (hq : mget d3.pgm.seqs e.slot = some q) (qb : QBuf) (first : Bool) :
    d.walk qb i first = (d3.modTenon i (fun _ => { e with pin := some v })).walkPinned qb i { e with pin := some v } q v := by
  have hsome : (d.openSeq e.tn.seq e.tn.ten e.tn.part).isNone = false := by simpa [← Option.not_isSome] using hopen
  have hwait : ¬ (e.phase ≠ .arborWait ∧ e.phase ≠ .pinWait) := fun h => h.1 hphase
  simp only [Dev.walk, he, if_neg hwait, hsome, harbor, hpin, hq, Bool.false_eq_true, if_false]

/-- Settles O25: the conditions of the tenon at the head of the queue decide whether it walks or is turned away. -/
theorem tenonsAreAdmitted : Obligations.TenonsAreAdmitted := by
  unfold Obligations.TenonsAreAdmitted
  intro s w r i hrun hq hi t d c haway hok
  refine ⟨fun hnone => ?_, fun st info hc => ?_⟩
  · intro e d1
    have hadmit : exec .tenon s = .next (s.went (d1.walk s.qb i true)) := by
      have hstep := tenonStep_admit (qb := s.qb) hq hi haway hok (Prod.ext hnone rfl)
      exact State.run_to ((Dev.gate_of_running hrun (tenonStep s.qb)).trans hstep)
    refine ⟨hadmit, fun d2 v d3 q hopen harbor hpin hseq => ?_⟩
    have hwalk := Dev.walk_of_pin (d := d1) (e := e) (mget_mset_self ..) rfl hopen harbor hpin hseq s.qb true
    rw [hadmit, hwalk]
  · rw [exec_tenon s hrun, tenonStep_turnAway hq hi haway hok hc]
    rfl

end Sys2Proof.Machine
end

section
/-! # Frame and cluster orders -/
open Sys2Proof
namespace Sys2Proof.Machine

/-- The stack without the order that it took. -/
def Dev.dropOrder (d : Dev) (n : Nat) (o : FOrder) : Dev :=
  d.setStack n { d.stack n with orders := dropFirst (fun x => decide (x = o)) (d.stack n).orders }

/-! ### The order that a stack takes -/

section
variable {d : Dev} {n : Nat} {o : FOrder} (fs : List ColFault) (hrun : d.isStopped (3 * 4096 + n) = false)
  (hnext : (d.admitCtxs n).nextOrder n ((d.admitCtxs n).stack n) [] ((d.admitCtxs n).stack n).orders = some o) (hok : orderOk o.bits = true)
include hrun hnext hok

theorem frameOrderStep_of_attention {e : Tenon} {q : Seq} {p : WPage} (hopc : o.opc = 0) (he : mget (d.admitCtxs n).atn.table o.tidx = some e)
    (hq : mget (d.admitCtxs n).pgm.seqs e.slot = some q) (hp : e.pages.find? (fun p => decide (p.page = e.tn.pfirst + o.pidx)) = some p) :
    let id := q.runId e.tn.layer e.tn.pageGrp p.page
    ((d.admitCtxs n).orderBar e id o.pidx = none → frameOrderStep n fs d = ((d.admitCtxs n).dropOrder n o).deliver fs n o.tidx e q o p) ∧
    (∀ c, (d.admitCtxs n).orderBar e id o.pidx = some c → frameOrderStep n fs d = ((d.admitCtxs n).dropOrder n o).orderEnds o.tidx id p.ent c) := by
  intro id
  have hno : ¬ o.opc = 1 := by omega
  have hstep : frameOrderStep n fs d = match (d.admitCtxs n).orderBar e id o.pidx with
      | some c => ((d.admitCtxs n).dropOrder n o).orderEnds o.tidx id p.ent c
      | none => ((d.admitCtxs n).dropOrder n o).deliver fs n o.tidx e q o p := by
    simp only [frameOrderStep, hrun, hnext, hok, if_neg hno, he, hq, hp, Bool.not_true, Bool.false_eq_true, if_false] <;> rfl
  exact ⟨fun hbar => by rw [hstep, hbar], fun c hbar => by rw [hstep, hbar]⟩

theorem frameOrderStep_of_append {q : Seq} (hopc : o.opc = 1) (hq : mget (d.admitCtxs n).pgm.seqs o.slot = some q) :
    frameOrderStep n fs d = ((d.admitCtxs n).dropOrder n o).deliverAppend n q o := by
  simp only [frameOrderStep, hrun, hnext, hok, if_pos hopc, hq, Bool.not_true, Bool.false_eq_true, if_false] <;> rfl

end

/-! ### What the order does -/

/-- An attention order whose tiles, rows and MACs hold opens, and leaves its partials. -/
theorem Dev.deliver_of_sound {d : Dev} {fs : List ColFault} {n i : Nat} {e : Tenon} {q : Seq} {o : FOrder} {p : WPage}
    (hunits : ∀ x ∈ engineRows q.geo.heads (orderRows e.tn o.lo o.hi), ∃ l,
      ((d.touchFor i e (q.runId e.tn.layer e.tn.pageGrp p.page)).eccAll (frameFaults fs q.geo (.t1 n o.die o.foff))).unitPage fs q
        (q.runId e.tn.layer e.tn.pageGrp p.page) { p.ent with loc := .t1 n o.die o.foff } e (engUnit n o.die x.1) x.2 = .ok l)
    (hmac : ∀ h, h < e.tn.tH → ((d.touchFor i e (q.runId e.tn.layer e.tn.pageGrp p.page)).eccAll (frameFaults fs q.geo (.t1 n o.die o.foff))).macOk fs q.geo
      (.t1 n o.die o.foff) e.tn.ten p.ent.ver o.lo o.hi (e.tn.kvf + h) = true) :
    let d2 := (d.touchFor i e (q.runId e.tn.layer e.tn.pageGrp p.page)).eccAll (frameFaults fs q.geo (.t1 n o.die o.foff))
    ∃ ps, d.deliver fs n i e q o p = ((d2.modTenon i (fun e => { e with left := nset e.left n (mgetD e.left n 0 - 1) })).openOrd n
        ⟨d2.bnk.nextOrd, false, i, e.tn.ten, e.keygen, o.die, false, false⟩ (.t1 n o.die o.foff) q.geo o.foff
        (engineRows q.geo.heads (orderRows e.tn o.lo o.hi))).modTenon i (fun e => { e with parts := ps }) := by
  intro d2
  unfold Dev.deliver
  dsimp only
  split
  · next u f r hbad =>
    obtain ⟨x, hx, hf⟩ := List.mem_filterMap.mp (hbad ▸ List.mem_cons_self)
    obtain ⟨y, hy, rfl⟩ := List.mem_map.mp hx
    obtain ⟨l, hl⟩ := hunits y hy
    simp [hl] at hf
  · split
    · next h hfind =>
      have hlt : h < e.tn.tH := List.mem_range.mp (List.mem_of_find?_eq_some hfind)
      exact absurd (List.find?_some hfind) (by simp [hmac h hlt])
    · exact ⟨_, rfl⟩

theorem Dev.deliverAppend_of_room {d : Dev} {n : Nat} {q : Seq} {o : FOrder} {keys : List (Nat × Nat)}
    (hkeys : d.keyEntry (d.stack n) (q.ten, d.gen q.ten) = some keys) :
    d.deliverAppend n q o = (d.setStack n { d.stack n with keys := keys }).openOrd n ⟨d.bnk.nextOrd, true, o.slot, q.ten, d.gen q.ten, o.die, false, false⟩
      (.t1 n o.die o.foff) q.geo o.foff (engineRows q.geo.heads ((List.range (o.hi - o.lo)).flatMap (fun i => (List.range q.geo.heads).map (fun h => (o.lo + i, h))))) := by
  simp only [Dev.deliverAppend, hkeys]

/-! ### Cluster orders -/

section
variable {d : Dev} {fs : List ColFault} {ph : Phys} {o : ClOrder} {r : List ClOrder} {e : Tenon} {q : Seq} {p : WPage} (hcl : d.atn.clQ = o :: r)
  (he : mget d.atn.table o.tidx = some e) (hq : mget d.pgm.seqs e.slot = some q) (hp : e.pages.find? (fun p => decide (p.page = o.page)) = some p)
include hcl he hq hp

theorem clusterStep_of_bar {c : St × Nat} (hbar : d.orderBar e (q.runId e.tn.layer e.tn.pageGrp p.page) (p.page - e.tn.pfirst) = some c) :
    clusterStep fs ph d = ({ d with atn := { d.atn with clQ := r } }).orderEnds o.tidx (q.runId e.tn.layer e.tn.pageGrp p.page) p.ent c := by
  simp only [clusterStep, hcl, he, hq, hp, hbar]

theorem clusterStep_of_work {n : Nat} (hbar : d.orderBar e (q.runId e.tn.layer e.tn.pageGrp p.page) (p.page - e.tn.pfirst) = none)
    (hn : nextCluster d ph o.tidx (fKib q.geo.fcls) e.query = some n) :
    clusterStep fs ph d = ({ d with atn := { d.atn with clQ := r, lastCl := n } }).clusterWork fs n o.tidx e q (q.runId e.tn.layer e.tn.pageGrp p.page) p := by
  simp only [clusterStep, hcl, he, hq, hp, hbar, hn]

end

/-- Cluster work whose rows and MACs hold leaves its partials. -/
theorem Dev.clusterWork_of_sound {d : Dev} {fs : List ColFault} {n i : Nat} {e : Tenon} {q : Seq} {id : RunId} {p : WPage} {d2 : Dev}
    (hd2 : d2 = (((((d.touchFor i e id).eccAll (frameFaults fs q.geo p.ent.loc)).bump (rk (0x01200400 + 8 * n) 0) 64 1).claimPage q.geo p.ent.loc p.lo p.hi false
      (some i)).scratchPut n i e.query).modTenon i (fun e => { e with clLeft := e.clLeft - 1 }))
    {ps : List ((Nat × Nat) × Partial)} (hrows : d2.unitPage fs q id p.ent e (8192 + n) (orderRows e.tn p.lo p.hi) = .ok ps)
    (hmac : ∀ h, h < e.tn.tH → d2.macOk fs q.geo p.ent.loc e.tn.ten p.ent.ver p.lo p.hi (e.tn.kvf + h) = true) :
    d.clusterWork fs n i e q id p = d2.modTenon i (fun e => { e with parts := ps }) := by
  have hnone : (List.range e.tn.tH).find? (fun h => !d2.macOk fs q.geo p.ent.loc e.tn.ten p.ent.ver p.lo p.hi (e.tn.kvf + h)) = none :=
    List.find?_eq_none.mpr fun h hh => by simp [hmac h (List.mem_range.mp hh)]
  subst hd2
  simp only [Dev.clusterWork, hrows, hnone]

/-- Settles O27: the order that a stack takes, by its operation and what bars it, and the oldest cluster order. -/
theorem workOrdersAreWorked : Obligations.WorkOrdersAreWorked := by
  unfold Obligations.WorkOrdersAreWorked
  refine ⟨fun s n fs o e q p hrun => ?_, fun s n fs o q keys hrun => ?_, fun s fs o r e q p hrun hcl he hq hp => ?_⟩
  · intro d hnext hopc hok he hq hp id d1
    obtain ⟨hopen, hends⟩ := frameOrderStep_of_attention fs hrun hnext hok hopc he hq hp
    exact ⟨fun c hbar => State.run_to (hends c hbar), fun hbar => ⟨State.run_to (hopen hbar), fun hunits hmac => Dev.deliver_of_sound hunits hmac⟩⟩
  · intro d hnext hopc hok hq d1 hkeys
    exact State.run_to ((frameOrderStep_of_append fs hrun hnext hok hopc hq).trans (Dev.deliverAppend_of_room (d := d1) hkeys))
  · intro id rows
    have hgo : ∀ {d' : Dev}, clusterStep fs s.phys s.dev = d' → exec (.clusterWorkOrder fs) s = .next (s.went d') := fun hstep =>
      State.run_to ((Dev.gate_of_running hrun (clusterStep fs s.phys)).trans hstep)
    refine ⟨fun c hbar => hgo (clusterStep_of_bar hcl he hq hp hbar), fun n hbar hn => ?_⟩
    intro d d1 d2
    exact ⟨hgo (clusterStep_of_work hcl he hq hp hbar hn), fun ps hrows hmac => Dev.clusterWork_of_sound (d := d) rfl hrows hmac⟩

end Sys2Proof.Machine
end

section
/-! # Pool requests -/
open Sys2Proof
namespace Sys2Proof.Machine

theorem Dev.gate_of_two_running {d : Dev} {j k : Nat} (hj : d.isStopped (j * 4096) = false) (hk : d.isStopped (k * 4096) = false) (f : Dev → Dev) :
    Dev.gate [j, k] f d = f d := by
  simp [Dev.gate, hj, hk]

/-! ### The request at the head of the queue -/

/-- A request that the pool works on: its return QP is usable, it meets no condition of Table 8.3 and its region exists. -/
structure Dev.poolWorks (d0 : Dev) (qb : QBuf) (op : Nat) (w : Work) (d : Dev) (g : Region) : Prop where
  front : d0.takePool op = some (w, d)
  here : d0.rqpAway w.src (plRqp w.desc) = false
  usable : d.rqpOk w.src true (plRqp w.desc) (plTen w.desc) (plPart w.desc) = true
  unmet : d.poolConds qb w = []
  region : mget d.shp.regions (plRegion w.desc) = some g

theorem poolRow_of_works {d0 d : Dev} {qb : QBuf} {op : Nat} {w : Work} {g : Region} (h : d0.poolWorks qb op w d g) (f : Work → Region → Dev → Dev) :
    poolRow op f qb d0 = f w g d := by
  obtain ⟨hfront, hhere, husable, hunmet, hregion⟩ := h
  simp only [poolRow, hfront, hhere, husable, hunmet, hregion, firstCond, Bool.not_true, Bool.false_eq_true, if_false]

/-! ### Readers and drafts -/

theorem openVersionGo_of_slot {d : Dev} {w : Work} {g : Region} {i : Nat} (hi : d.readerSlot = some i) :
    let v := if plVersion w.desc = 0 then g.current else plVersion w.desc
    let gen := mgetD d.shp.readerGen i 0
    openVersionGo w g d = ({ d with shp := { d.shp with readers := mset d.shp.readers i ⟨gen, plRegion w.desc, v, (d.owner w).1, (d.owner w).2⟩ } }).poolAnswer
      w .ok false v (i + gen * 2 ^ 14) := by
  simp only [openVersionGo, hi, wantVer]

theorem closeVersionGo_of_reader {d : Dev} {w : Work} {g : Region} {i : Nat} {r : Reader} (hr : d.readerOf (plHandle w.desc) (plRegion w.desc) = some (i, r)) :
    closeVersionGo w g d = ((d.closeReader i).poolReap).poolAnswer w .ok false r.ver 0 := by
  simp only [closeVersionGo, hr]

theorem openDraftGo_of_slot {d : Dev} {w : Work} {g : Region} {i : Nat} (hi : d.draftSlot = some i) :
    let v := if plVersion w.desc = 0 then g.current else plVersion w.desc
    let gen := mgetD d.shp.draftGen i 0
    openDraftGo w g d = ({ d with shp := { d.shp with drafts := mset d.shp.drafts i ⟨gen, plRegion w.desc, v, (d.owner w).1, (d.owner w).2, [], none⟩ } }).poolAnswer
      w .ok false v (i + gen * 2 ^ 8) := by
  simp only [openDraftGo, hi, wantVer]

section
variable {d : Dev} {w : Work} {g : Region} {i : Nat} {x : Draft} (hx : d.draftOf (plHandle w.desc) (plRegion w.desc) = some (i, x))
include hx

theorem discardGo_of_draft : discardGo w g d = (((d.dropDraft i).bump (rk 0x00900030 0) 32 1).poolReap).poolAnswer w .ok false x.base 0 := by
  simp only [discardGo, hx]

theorem poolWriteGo_of_room {fs : List ColFault} {ids us got : List Nat} {new : List (Nat × Bytes)} {n : Nat} {d1 d2 : Dev}
    (hbase : d.writeBase g (g.ver x.base) x (plLine w.desc) (plNlm1 w.desc + 1) = .ok (ids, new, n))
    (hroom : (Dev.newUnits (plRegion w.desc) new d).isSome = true) (huse : Dev.useUnits fs (plTag w.desc) ids d = ((none, got), d1))
    (hnew : Dev.newUnits (plRegion w.desc) new (d1.bump (rk 0x00700018 0) 64 n) = some (us, d2)) :
    let y := { x with units := x.units ++ us }
    poolWriteGo fs w g d = (({ d2 with shp := { d2.shp with drafts := mset d2.shp.drafts i y } }).putLines y (plLine w.desc) (linesB w.extra)).poolAnswer
      w .ok false x.base 0 := by
  have hsome : (Dev.newUnits (plRegion w.desc) new d).isNone = false := by simpa [← Option.not_isSome] using hroom
  simp only [poolWriteGo, hx, hbase, hsome, huse, hnew, Bool.false_eq_true, if_false]

theorem publishGo_of_stale (hstale : x.base ≠ g.current) (fs : List ColFault) : publishGo fs w g d = d.conflict w i x.base g.current := by
  simp only [publishGo, hx, if_pos hstale]

theorem publishGo_of_room {fs : List ColFault} {us got : List Nat} {d1 d2 : Dev} (hbase : x.base = g.current)
    (hroom : (Dev.newUnits (plRegion w.desc) (d.prepPlan g.p (g.ver x.base) x).news d).isSome = true)
    (huse : Dev.useUnits fs (plTag w.desc) (d.prepPlan g.p (g.ver x.base) x).reads d = ((none, got), d1))
    (hnew : Dev.newUnits (plRegion w.desc) (d.prepPlan g.p (g.ver x.base) x).news d1 = some (us, d2)) :
    let pl := d.prepPlan g.p (g.ver x.base) x
    let nv := d2.mkVersion (plRegion w.desc) g.p (g.ver x.base) x pl us
    let d3 := { d2 with shp := { d2.shp with drafts := mset d2.shp.drafts i { x with pub := some (w, nv, us) } } }
    d3.poolRoom 0 = true →
    publishGo fs w g d = (((d3.tblRef true nv.slots).bump (rk 0x00700010 0) 64 pl.blocks).bump (rk 0x00700020 0) 64 pl.rawIn).bump (rk 0x00700028 0) 64 pl.out := by
  intro pl nv d3 hfits
  have hsome : (Dev.newUnits (plRegion w.desc) (d.prepPlan g.p (g.ver x.base) x).news d).isNone = false := by simpa [← Option.not_isSome] using hroom
  have hcurrent : ¬ x.base ≠ g.current := not_not_intro hbase
  simp only [publishGo, hx, if_neg hcurrent, hsome, huse, hnew, Bool.false_eq_true, if_false]
  exact if_neg (show ¬ (!d3.poolRoom 0) = true by simp [hfits])

end

/-! ### The swap, GATHER and DRAFT_ABORT -/

theorem swapStep_of_current {d : Dev} {i : Nat} {x : Draft} {w : Work} {v : Version} {us : List Nat} {g : Region} (hx : mget d.shp.drafts i = some x)
    (hpub : x.pub = some (w, v, us)) (hfence : d.trn.fenced = false) (hg : mget d.shp.regions x.region = some g) (hbase : x.base = g.current)
    (hroom : g.versions.length < 16) :
    let v' := d.dropHoles g.p v
    let g' := { g with current := v'.num, versions := g.versions ++ [v'] }
    let d1 := ({ d with shp := { d.shp with regions := mset d.shp.regions x.region g' } }).tblRef true v'.slots
    let d2 := (d1.bump (rk 0x00900018 0) 64 1).poolEvent x.region g.p v' 0
    swapStep i d = ((d2.dropDraft i).poolReap).poolAnswer w .ok false v'.num v'.num := by
  have hcurrent : ¬ x.base ≠ g.current := not_not_intro hbase
  have hfew : ¬ 16 < g.versions.length + 1 := by omega
  simp only [swapStep, hx, hpub, hfence, hg, if_neg hcurrent, if_neg hfew, Bool.false_eq_true, if_false]

theorem gatherStep_of_rows {d : Dev} {fs : List ColFault} {qb : QBuf} {w : Work} {g : Region} {h : Nat} {r : Reader}
    (hr : d.readerOf (plHandle w.desc) (plRegion w.desc) = some (h, r)) :
    let got := gatherGo fs w g.p (g.ver r.ver) (d.gatherRows qb w) [] d
    got.2.1 = none →
    let e0 := got.2.2.1.foldl (Dev.touchUnit fs) got.2.2.2
    let n := got.1.length
    let e : Dev := { e0 with shp := { e0.shp with gathers := e0.shp.gathers.filter (fun g => e0.rowsWait g.1 ≠ 0) ++ (if n = 0 then [] else [(w.desc, n)]) } }
    gatherStep fs qb w g d = Dev.answerAfter d (Dev.fieldsAfter d (e.bump (rk 0x00900020 0) 64 n) []) w.src (plRqp w.desc) (plRoff w.desc) (plTag w.desc)
        (plTen w.desc) 3 0 0 (got.1.zipIdx.map (fun (b, j) => (j * rpRow g.p, b)) ++ [((plNrm1 w.desc + 1) * rpRow g.p, gatherRecord w.desc .ok n 0)]) := by
  intro got hnone
  simp only [gatherStep, hr]
  rw [show gatherGo fs w g.p (g.ver r.ver) (d.gatherRows qb w) [] d = (got.1, none, got.2.2.1, got.2.2.2) from Prod.ext rfl (Prod.ext hnone rfl)] <;>
    rfl

theorem draftAbortStep_of_front {d : Dev} {w : Work} {r : List Work} (hq : d.shp.queue = w :: r) (hkind : w.kind = 5) (hfence : d.trn.fenced = false) :
    draftAbortStep d = ({ d with shp := { d.shp with queue := r } }).abortOwner (fun n f => decide (n = wf w.desc 0 12 ∧ f = wf w.desc 12 5)) := by
  simp only [draftAbortStep, hq, hkind, hfence, ne_eq, not_true_eq_false, Bool.false_eq_true, if_false]

/-- Settles O39: the pool works on the request at the head of its queue, and each request does what its row says. -/
theorem poolRequests : Obligations.PoolRequests := by
  unfold Obligations.PoolRequests
  refine ⟨fun s w g d op hpool hbank htake hhere husable hunmet hg => ?_, fun s hpool hbank => ?_⟩
  · have hgo : ∀ {f : Work → Region → Dev → Dev} {d' : Dev}, f w g d = d' → s.run (Dev.gate [12] (fun d => poolRow op f s.qb d)) = .next (s.went d') :=
      fun {f d'} hstep => State.run_to ((Dev.gate_of_running hpool (fun d => poolRow op f s.qb d)).trans
        ((poolRow_of_works ⟨htake, hhere, husable, hunmet, hg⟩ f).trans hstep))
    have hgo2 : ∀ {f : Work → Region → Dev → Dev} {d' : Dev}, f w g d = d' → s.run (Dev.gate [12, 4] (fun d => poolRow op f s.qb d)) = .next (s.went d') :=
      fun {f d'} hstep => State.run_to ((Dev.gate_of_two_running hpool hbank (fun d => poolRow op f s.qb d)).trans
        ((poolRow_of_works ⟨htake, hhere, husable, hunmet, hg⟩ f).trans hstep))
    refine ⟨fun i hop hi => ?_, fun i r hop hr => ?_, fun i hop hi => ?_, fun i x fs hx => ⟨fun hop => ?_, fun hop => ?_, fun hop => ?_,
      fun ids new n us d1 d2 hop hbase hroom huse hnew => ?_, fun hop hstale => ?_, fun us d1 d2 hop hbase => ?_⟩⟩
    · subst hop
      exact hgo (openVersionGo_of_slot hi)
    · subst hop
      exact hgo (closeVersionGo_of_reader hr)
    · subst hop
      exact hgo (openDraftGo_of_slot hi)
    · subst hop
      exact hgo (discardGo_of_draft hx)
    · subst hop
      exact hgo (f := poolWriteGo fs) rfl
    · subst hop
      exact hgo2 (f := publishGo fs) rfl
    · subst hop
      obtain ⟨got, huse⟩ := huse
      exact hgo (poolWriteGo_of_room hx hbase hroom huse hnew)
    · subst hop
      exact hgo2 (publishGo_of_stale hx hstale fs)
    · subst hop
      intro pl hroom huse hnew nv d3 hfits
      obtain ⟨got, huse⟩ := huse
      exact hgo2 (publishGo_of_room hx hbase hroom huse hnew hfits)
  · refine ⟨fun i x w v us g hx hpub hfence hg hbase hroom => ?_, fun w d g h r fs htake hhere husable hunmet hg hr => ?_, fun w r hq hkind hfence => ?_⟩
    · exact State.run_to ((Dev.gate_of_running hpool (fun d => swapStep i d)).trans (swapStep_of_current hx hpub hfence hg hbase hroom))
    · intro got hnone
      exact State.run_to ((Dev.gate_of_two_running hpool hbank (fun d => poolRow 6 (gatherStep fs s.qb) s.qb d)).trans
        ((poolRow_of_works ⟨htake, hhere, husable, hunmet, hg⟩ (gatherStep fs s.qb)).trans (gatherStep_of_rows hr hnone)))
    · exact State.run_to ((Dev.gate_of_running hpool (fun d => draftAbortStep d)).trans (draftAbortStep_of_front hq hkind hfence))

end Sys2Proof.Machine
end

section
/-! # The home transfer -/
open Sys2Proof
namespace Sys2Proof.Machine

/-! ### Changes of one page's entry -/

/-- An edit whose lanes have a free slot, and that no append order of the sequence holds up, publishes at once. -/
theorem Dev.tryPublish_of_room {d : Dev} {slot : Nat} {e : Edit} {p : Prep} (hidle : d.appending slot = false)
    (hfree : ∀ q, mget d.pgm.seqs slot = some q → slotsFree q p.lanes = true)
    (hsrc : ∀ k q, p.src = some k → mget d.pgm.seqs k = some q → slotsFree q p.srcLanes = true) : d.tryPublish slot e p = d.publish slot e p := by
  have hown : ∀ o, o = mget d.pgm.seqs slot → (match o with | none => true | some q => slotsFree q p.lanes) = true := by
    intro o ho
    cases o with
    | none => rfl
    | some q => exact hfree q ho.symm
  have hother : ∀ o, o = p.src → (match o with
      | none => true
      | some s => match mget d.pgm.seqs s with | none => true | some q => slotsFree q p.srcLanes) = true := by
    intro o ho
    cases o with
    | none => rfl
    | some k =>
      cases hq : mget d.pgm.seqs k with
      | none => simp only [hq]
      | some q => simp only [hq, hsrc k q ho.symm hq]
  simp only [Dev.tryPublish, hidle, Bool.false_eq_true, if_false]
  exact if_pos (Bool.and_eq_true_iff.mpr ⟨hown _ rfl, hother _ rfl⟩)

/-- A change of a page's entry that finds its blocks and slots is published at once. -/
theorem Dev.swapEntry_of_swaps {d d' : Dev} {slot lane dest : Nat} {q : Seq} {m : Move} {id : RunId} {new : PageEnt} {pin : Option Nat} {p0 : Prep}
    (h : d.swaps slot q lane m id dest new pin p0 d') : d.swapEntry slot q lane m id dest (some new) pin p0 = d' := by
  obtain ⟨p, d1, hlane, hsrc, hidle, hfree, rfl⟩ := h
  simp only [Dev.swapEntry, hlane]
  exact Dev.tryPublish_of_room hidle hfree (fun k q hk => absurd hk (by simp [hsrc]))

/-! ### OFFER -/

theorem placeRow_of_keyed {kind : Nat} {f : Work → Dev → Option Dev} {d d' : Dev} {w : Work} (htake : d.takePlace kind = some (w, d'))
    (hfence : d'.trn.fenced = false) (hkey : d'.keyOk (pbRun w.body).ten (pbKeygen w.body) = true) (hform : placeBad w = false) :
    placeRow kind f d = (f w d').getD d :=
  placeRowWith_of_good htake hfence (fun _ => hkey) hform

section
variable {d d1 d2 d3 : Dev} {w : Work} {rows : List ((Nat × Nat) × Bytes)} {ks vs : W32} {f : Frame} (hconds : d.offerConds w.body = [])
  (hlodge : d.lodge (pbRun w.body) (pbPart w.body) (pbGeom w.body) = some d1) (himage : d1.takeImage w.body w.extra = .ok (rows, ks, vs, d2))
  (hframe : d2.allocT1 (pbRun w.body).ten (pbGeom w.body).fcls (copyDie (pbRun w.body) (pbGeom w.body)) = some (f, d3))
include hconds hlodge himage hframe

/-- The copy that an OFFER brings. -/
def offeredCopy (b : Nat) (f : Frame) (ks vs : W32) : Copy := ⟨pbGeom b, frameEnt f (pbFirst b) ks vs, pbHeld b⟩

/-- The PENDING record that an OFFER leaves. -/
def pendingRun (d : Dev) (b : Nat) (c : Copy) : Run :=
  { freshRun (pbRun b) .pending (pbFrom b) (pbEpoch b) ((((d.run (pbRun b)).map Run.count)).getD 0) (((d.run (pbRun b)).map Run.stamp).getD d.plc.tnow) (some c) with
    was := (d.run (pbRun b)).map (fun r => (r.epoch, r.peer)) }

theorem offerGo_of_copy {d4 d5 : Dev} (hd4 : d4 = d3.writeRowsAt (pbGeom w.body) (pbRun w.body) f.loc f.ver rows)
    (hd5 : d5 = d4.putRun (pendingRun d4 w.body (offeredCopy w.body f ks vs))) :
    offerGo w d = match (d4.tenant (pbRun w.body).ten).mirror with
      | some m => some { d5.sendImage m 9 (pbRun w.body) (pbEpoch w.body) (pbGeom w.body) (offeredCopy w.body f ks vs).ent (pbHeld w.body) rows with
          plc := { (d5.sendImage m 9 (pbRun w.body) (pbEpoch w.body) (pbGeom w.body) (offeredCopy w.body f ks vs).ent (pbHeld w.body) rows).plc with
            owed := d5.plc.owed ++ [(pbRun w.body, m, true)] } }
      | none => some (d5.reply w 1 (pbEpoch w.body) 0 0) := by
  subst hd5 hd4
  simp only [offerGo, hconds, firstCond, hlodge, Dev.writeCopy, himage, hframe] <;> rfl

end

/-! ### ACCEPT -/

theorem Dev.acceptMove_of_offer {d : Dev} {b slot lane dst : Nat} {q : Seq} {e : PageEnt} {r : Run} {ed : Edit} {l : List Edit} {m : Move}
    (hpage : d.pageOf (pbRun b) = some (slot, q, lane, e)) (hrec : d.run (pbRun b) = some r) (hedits : q.edits = ed :: l) (hphase : ed.phase = .offer)
    (hmove : ed.move = some (m, pbRun b, dst)) (hstate : r.hstate = .offered) (hepoch : r.epoch = pbEpoch b) (hpeer : r.peer = pbFrom b) :
    d.acceptMove b = some (slot, q, lane, e, ed) := by
  simp [Dev.acceptMove, hpage, hrec, hedits, hphase, hmove, hstate, hepoch, hpeer]

theorem Dev.takePlace_queue {d d' : Dev} {kind : Nat} {w : Work} (h : d.takePlace kind = some (w, d')) :
    ∃ r, d' = { d with plc := { d.plc with queue := r } } := by
  obtain ⟨a, -, ha⟩ := Option.map_eq_some_iff.mp h
  obtain ⟨-, rfl⟩ := Prod.mk.inj ha
  exact ⟨_, rfl⟩

theorem acceptStep_of_quiet {d d' : Dev} {w : Work} (htake : d.takePlace 1 = some (w, d')) (hfence : d'.trn.fenced = false) (hform : placeBad w = false)
    (hquiet : ∀ x, d'.acceptMove w.body = some x → d'.strokesOn x.2.2.2.1.loc = false) : acceptStep d = (acceptGo w d').getD d'.protocol := by
  have hrow := placeRow_of_keyless (f := fun w d => some ((acceptGo w d).getD d.protocol)) (by decide) htake hfence hform
  obtain ⟨r, rfl⟩ := Dev.takePlace_queue htake
  have hsame : ({ d with plc := { d.plc with queue := r } } : Dev).acceptMove w.body = d.acceptMove w.body := rfl
  unfold acceptStep
  refine (if_neg (Bool.eq_false_iff.mp ?_)).trans hrow
  simp only [htake]
  cases hmove : d.acceptMove w.body with
  | none => rfl
  | some x =>
    have hx : d.strokesOn x.2.2.2.1.loc = false := hquiet x (hsame.trans hmove)
    simp only [hx, Bool.and_false]

theorem acceptGo_of_swap {d d0 d1 : Dev} {w : Work} {slot lane dst : Nat} {q : Seq} {e : PageEnt} {ed : Edit} {m : Move}
    (haccept : d.acceptMove w.body = some (slot, q, lane, e, ed)) (hmove : ed.move = some (m, pbRun w.body, dst))
    (hd0 : d0 = if m = .lend then { d with plc := { d.plc with
        lastPeer := ((List.range 8).find? (fun i => decide (d.tray i = pbFrom w.body))).getD d.plc.lastPeer
        declined := d.plc.declined.filter (fun x => decide (x.1 ≠ pbRun w.body)) } } else d)
    (hswap : d0.swaps slot q lane m (pbRun w.body) (pbFrom w.body) { e with loc := .away (pbFrom w.body), ver := 0, sblk := 0 } ed.pin
      { emptyPrep with retire := emptyRetired.unref e } d1) : acceptGo w d = some d1 := by
  subst hd0
  simp only [acceptGo, haccept, hmove, Option.map_some, Option.getD_some]
  exact congrArg some (Dev.swapEntry_of_swaps hswap)

/-! ### COMMIT, CLAIMED, DECLINE -/

theorem Dev.publishCopy_of_room {d d1 : Dev} {id : RunId} {slot : Nat} {q : Seq} {r : Run} {c : Copy} {p : Prep} (hrec : d.run id = some r)
    (hcopy : r.copy = some c) (hledger : d.ledgerOf id = some (slot, q)) (hbusy : d.editBusy slot = false)
    (hlane : Dev.newLane q (q.geo.lane id.layer id.hgrp) (max (q.now (q.geo.lane id.layer id.hgrp)).endp (16 * id.page + c.held))
      (mset (q.now (q.geo.lane id.layer id.hgrp)).pages id.page c.ent) [id.page] emptyPrep d = .ok (p, d1)) (hfree : slotsFree q p.lanes = true) :
    d.publishCopy id = some ((((d1.putLanes slot p.lanes p.retire).lastWend slot (q.geo.lane id.layer id.hgrp) id.page (16 * id.page + c.held)).modRun id
      (fun r => { r with copy := none, was := none })).reap slot) := by
  simp only [Dev.publishCopy, hrec, Option.bind_some, hcopy, hledger, hbusy, hlane, hfree, Bool.not_true, Bool.false_eq_true, if_false]

theorem commitGo_of_pending {d d1 : Dev} {w : Work} {r : Run} {c : Copy} (hrec : d.run (pbRun w.body) = some r) (hstate : r.hstate = .pending)
    (hepoch : r.epoch + 1 = pbEpoch w.body) (hcopy : r.copy = some c) (hpub : d.publishCopy (pbRun w.body) = some d1) :
    commitGo w d = some ((d1.setHome (pbRun w.body) .home (pbEpoch w.body) (pbFrom w.body)).reply w 3 (pbEpoch w.body) 0 0) := by
  simp [commitGo, hrec, hstate, hepoch, hcopy, hpub]

theorem silentRow_of_good {kind : Nat} {f : Work → Dev → Option Dev} {d d' d'' : Dev} {w : Work} (htake : d.takePlace kind = some (w, d'))
    (hfence : d'.trn.fenced = false) (hform : placeBad w = false) (hgo : f w d' = some d'') : silentRow kind f d = d'' := by
  simp [silentRow, htake, hfence, hform, hgo]

theorem claimedGo_of_commit {d : Dev} {w : Work} (h : (pbRun w.body, pbEpoch w.body, pbFrom w.body) ∈ d.plc.commits) :
    claimedGo w d = some { d with plc := { d.plc with commits := d.plc.commits.filter (· ≠ (pbRun w.body, pbEpoch w.body, pbFrom w.body)) } } := by
  simp only [claimedGo, List.contains_iff_mem.mpr h, if_true]

theorem declineGo_of_offer {endFill : Nat → St → Dev → Dev} {d : Dev} {w : Work} {r : Run}
    (hclaim : d.plc.claims.find? (fun c => decide (c.id = pbRun w.body ∧ c.peer = pbFrom w.body ∧ c.epoch = pbEpoch w.body)) = none)
    (hrec : d.run (pbRun w.body) = some r) (hstate : r.hstate = .offered) (hepoch : r.epoch = pbEpoch w.body) (hpeer : r.peer = pbFrom w.body) :
    let d1 := (d.endOffer (pbRun w.body)).modRun (pbRun w.body) (fun r => { r with hstate := .home })
    declineGo endFill w d = some (match (List.range 8).find? (fun i => decide (d.tray i = pbFrom w.body)) with
      | none => d1
      | some i => { d1 with plc := { d1.plc with declined := d1.plc.declined ++ [(pbRun w.body, i)] } }) := by
  simp only [declineGo, hclaim, hrec, hstate, hepoch, hpeer, and_self, decide_true, if_true] <;> rfl

/-- Settles O33: each message of the transfer, in the order in which they go. -/
theorem homeTransfer : Obligations.HomeTransfer := by
  unfold Obligations.HomeTransfer
  intro s w d hrun hfence hform b id g
  have hgo : ∀ {f : Dev → Dev} {d' : Dev}, f s.dev = d' → s.run (Dev.gate [11] f) = .next (s.went d') := fun {f d'} hstep =>
    State.run_to ((Dev.gate_of_running hrun f).trans hstep)
  refine ⟨fun fs htake hkey => ?_, fun htake hquiet => hgo (acceptStep_of_quiet htake hfence hform hquiet),
    fun htake hkey => hgo (placeRow_of_keyed htake hfence hkey hform),
    fun fs d1 rows ks vs d2 f d3 htake hkey hconds hlodge himage hframe => ?_,
    fun slot q lane e r ed l m dst d1 htake hpage hrec hedits hstrokes hphase hmove hstate hepoch hpeer => ?_,
    fun r c slot q p d1 htake hkey hrec hstate hepoch hcopy hledger hbusy => ?_,
    fun htake hmem => hgo (silentRow_of_good htake hfence hform (claimedGo_of_commit hmem)),
    fun r htake hclaim hrec hstate hepoch hpeer => ?_⟩
  · exact hgo (f := fun d => placeRow 0 offerGo (d.eccAll fs)) (placeRow_of_keyed htake hfence hkey hform)
  · have hcopy := offerGo_of_copy hconds hlodge himage hframe rfl rfl
    intro d4 c r
    have hoffer : ∀ {d' : Dev}, offerGo w d = some d' → exec (.offer fs) s = .next (s.went d') := fun hoffered =>
      hgo (f := fun d => placeRow 0 offerGo (d.eccAll fs)) ((placeRow_of_keyed htake hfence hkey hform).trans (by rw [hoffered]; rfl))
    refine ⟨fun hmirror => hoffer (hcopy.trans ?_), fun m hmirror => ?_⟩
    · rw [show (Dev.tenant _ (pbRun w.body).ten).mirror = none from hmirror] <;> rfl
    · intro d5
      refine hoffer (hcopy.trans ?_)
      rw [show (Dev.tenant _ (pbRun w.body).ten).mirror = some m from hmirror] <;> rfl
  · intro d0 hswap
    have haccept := Dev.acceptMove_of_offer hpage hrec hedits hphase hmove hstate hepoch hpeer
    have hquiet : ∀ x, d.acceptMove w.body = some x → d.strokesOn x.2.2.2.1.loc = false := fun x hx => by
      obtain rfl : (slot, q, lane, e, ed) = x := Option.some.inj (haccept.symm.trans hx)
      exact hstrokes
    refine hgo ((acceptStep_of_quiet htake hfence hform hquiet).trans ?_)
    rw [acceptGo_of_swap haccept hmove rfl hswap]
    rfl
  · intro lane hlane hfree d2
    refine hgo ((placeRow_of_keyed htake hfence hkey hform).trans ?_)
    rw [commitGo_of_pending hrec hstate hepoch hcopy (Dev.publishCopy_of_room hrec hcopy hledger hbusy hlane hfree)]
    rfl
  · exact hgo (silentRow_of_good htake hfence hform (declineGo_of_offer hclaim hrec hstate hepoch hpeer))

end Sys2Proof.Machine
end

section
/-! # The mirror's messages -/
open Sys2Proof
namespace Sys2Proof.Machine

/-! ### SHADOW -/

theorem Dev.freeCopy_of_none {d : Dev} {id : RunId} (h : d.run id = none) : d.freeCopy id = d := by
  simp only [Dev.freeCopy, h, Option.bind_none]

theorem Dev.whole_of_last {d : Dev} {b : Nat} (h : Config.lastShadow b = true) :
    d.whole b = if d.plc.full.contains ((pbRun b).ten, pbFrom b) then d
      else { d with plc := { d.plc with full := d.plc.full ++ [((pbRun b).ten, pbFrom b)] } } := by
  simp only [Dev.whole, h, Bool.not_true, Bool.false_or]

section
variable {endFill : Nat → St → Dev → Dev} {last : Nat → Dev → Dev} {d d1 d2 d3 d4 : Dev} {w : Work} {rows : List ((Nat × Nat) × Bytes)} {ks vs : W32} {f : Frame}
  (hshape : shapeOk (pbGeom w.body).shape = true) (hfmt : fmtOk (pbGeom w.body).shape (pbGeom w.body).kvfmt = true)
  (hclass : frameClass (pbGeom w.body).shape (pbGeom w.body).kvfmt (pbGeom w.body).heads = some (pbGeom w.body).fcls)
  (hnew : d.run (pbRun w.body) = none)
  (hquota : d.usage (pbRun w.body).ten + (fKib (pbGeom w.body).fcls + 1) ≤ (d.tenant (pbRun w.body).ten).quota)
  (ht1 : fKib (pbGeom w.body).fcls + 1 ≤ d.t1Open) (himage : d.takeImage w.body w.extra = .ok (rows, ks, vs, d1))
  (hframe : d1.allocT1 (pbRun w.body).ten (pbGeom w.body).fcls (copyDie (pbRun w.body) (pbGeom w.body)) = some (f, d2))
  (hd3 : d3 = d2.writeRowsAt (pbGeom w.body) (pbRun w.body) f.loc f.ver rows) (hstill : d3.run (pbRun w.body) = none)
  (hd4 : d4 = ((d3.reseat (pbRun w.body).ten (pbRun w.body).seq (pbFrom w.body)).putRun (freshRun (pbRun w.body) .shadow (pbFrom w.body) (pbEpoch w.body) 0 d3.plc.tnow
    (some ⟨pbGeom w.body, frameEnt f (pbFirst w.body) ks vs, pbHeld w.body⟩))).reply w 8 (pbEpoch w.body) 0 0)
include hshape hfmt hclass hnew hquota ht1 himage hframe hd3 hstill hd4

/-- A SHADOW that no rule refuses is stored and acknowledged; the last of a shard's completes them. -/
theorem shadowGo_of_room : shadowGo endFill last w d = if (!Config.lastShadow w.body) = true then some d4 else
    some (if d.filling (pbRun w.body).ten (pbFrom w.body) then last (pbRun w.body).ten (d4.whole w.body) else d4.whole w.body) := by
  have hq : decide ((d.tenant (pbRun w.body).ten).quota + 0 < d.usage (pbRun w.body).ten + (fKib (pbGeom w.body).fcls + 1)) = false :=
    decide_eq_false (Nat.not_lt.mpr hquota)
  have ht : decide (d.t1Open + 0 < fKib (pbGeom w.body).fcls + 1) = false := decide_eq_false (Nat.not_lt.mpr ht1)
  have hstill' : (d2.writeRowsAt (pbGeom w.body) (pbRun w.body) f.loc f.ver rows).run (pbRun w.body) = none := hd3 ▸ hstill
  subst hd4 hd3
  simp only [shadowGo, hnew, hshape, hfmt, hclass, hq, ht, ne_eq, not_true_eq_false, decide_false, Bool.not_true, Bool.or_self, cond_false,
    List.append_nil, firstCond, Option.bind_none, Dev.writeCopy, himage, hframe, Dev.freeCopy_of_none hstill', Option.map_none, Option.getD_none]

end

/-! ### A forwarded CLOSE -/

theorem mirrorEditGo_of_close {d : Dev} {w : Work} {rows : Bytes} (hrows : d.transitTake (pbRun w.body).ten (leBytes 32 w.body) (w.extra.drop 88) = some rows)
    (hclose : 2 ^ 63 ≤ leAt w.extra 64 8) :
    let gb := leAt w.extra 72 8
    let g : Geom := ⟨fld gb 0 8, fld gb 8 4, fld gb 12 3, fld gb 15 6, fld gb 21 10, fld gb 31 3⟩
    let d' := d.reseat (pbRun w.body).ten (pbRun w.body).seq (pbFrom w.body)
    let q := d'.shadowSeq (pbRun w.body).ten (pbPart w.body) (pbRun w.body).seq g
    mirrorBad w.extra (w512 w.extra) g = false →
    mirrorEditGo w d = some (((d'.shadowsFrom q g (pbFrom w.body) (fun _ => pbEpoch w.body) (Dev.prepClose q d').1).whole w.body).reply w 8 (pbEpoch w.body) 0 0) := by
  intro gb g d' q hgood
  simp only [gb, g] at hgood
  simp only [mirrorEditGo, hgood, hrows, if_pos hclose, Bool.false_eq_true, if_false]
  rfl

/-! ### MIRROR_ACK -/

theorem Dev.shadowAnswer_of_transfer {d : Dev} {id : RunId} {peer : Nat} {o : RunId × Nat × Bool} {r : Run}
    (howed : d.plc.owed.find? (fun o => decide (o.1 = id ∧ o.2.1 = peer)) = some o) (haccept : o.2.2 = true) (hrec : d.run id = some r) :
    d.shadowAnswer id peer 0 =
      some (({ d with plc := { d.plc with owed := d.plc.owed.filter (fun o => !decide (o.1 = id ∧ o.2.1 = peer)) } }).placeTo r.peer 1 id r.epoch 0 0) := by
  obtain ⟨o1, o2, acc⟩ := o
  have hrec' : ({ d with plc := { d.plc with owed := d.plc.owed.filter (fun o => !decide (o.1 = id ∧ o.2.1 = peer)) } } : Dev).run id = some r := hrec
  obtain rfl : acc = true := haccept
  simp only [Dev.shadowAnswer, howed, hrec', if_true]

theorem Dev.shadowAnswer_of_none {d : Dev} {id : RunId} {peer : Nat} (howed : d.plc.owed.find? (fun o => decide (o.1 = id ∧ o.2.1 = peer)) = none) (st : Nat) :
    d.shadowAnswer id peer st = none := by
  simp only [Dev.shadowAnswer, howed]

theorem Dev.editAck_of_forwarded {d : Dev} {id : RunId} {peer slot : Nat} {q : Seq} {e : Edit} {l : List Edit} {p : Prep} (hledger : d.ledgerOf id = some (slot, q))
    (hedits : q.edits = e :: l) (hphase : e.phase = .mirror) (hmirror : (d.tenant q.ten).mirror = some peer) (hprep : e.prep = some p) :
    d.editAck id peer 0 = some (d.tryPublish slot e p) := by
  simp [Dev.editAck, hledger, hedits, hphase, hmirror, hprep]

theorem mirrorAckGo_of_transfer {d d' : Dev} {w : Work} (hst : pbStatus w.body = 0)
    (h : d.shadowAnswer (pbRun w.body) (pbFrom w.body) 0 = some d') : mirrorAckGo w d = some d' := by
  simp only [mirrorAckGo, hst, h]

theorem mirrorAckGo_of_edit {d d' : Dev} {w : Work} (hst : pbStatus w.body = 0) (hnone : d.shadowAnswer (pbRun w.body) (pbFrom w.body) 0 = none)
    (h : d.editAck (pbRun w.body) (pbFrom w.body) 0 = some d') : mirrorAckGo w d = some d' := by
  simp only [mirrorAckGo, hst, hnone, h]

/-- Settles O35: a SHADOW and a forwarded CLOSE change the mirror's copies, and an acknowledgement lets go what waited for it. -/
theorem mirrorMessages : Obligations.MirrorMessages := by
  unfold Obligations.MirrorMessages
  intro s w d hrun hfence hform b id g kib
  have hgo : ∀ {f : Dev → Dev} {d' : Dev}, f s.dev = d' → s.run (Dev.gate [11] f) = .next (s.went d') := fun {f d'} hstep =>
    State.run_to ((Dev.gate_of_running hrun f).trans hstep)
  have hshadow : s.dev.takePlace 9 = some (w, d) → d.keyOk id.ten (pbKeygen b) = true →
      exec .shadow s = .next (s.went ((shadowGo Dev.endFill Dev.finishFill w d).getD s.dev)) := fun htake hkey =>
    hgo (placeRowWith_of_good htake hfence (fun _ => hkey) hform)
  have hedit : s.dev.takePlace 7 = some (w, d) → d.keyOk id.ten (pbKeygen b) = true →
      exec .mirrorEdit s = .next (s.went ((mirrorEditGo w d).getD s.dev)) := fun htake hkey => hgo (placeRow_of_keyed htake hfence hkey hform)
  refine ⟨hshadow, hedit, fun rows ks vs d1 f d2 htake hkey hshape hfmt hclass hnew hquota ht1 himage hframe => ?_, fun rows htake hkey hrows hclose => ?_,
    fun o r htake howed haccept hrec hst => ?_, fun slot q e l p htake howed hledger hseq hedits hphase hmirror hst hprep hidle hfree hsrc => ?_⟩
  · intro d3 hstill r d4
    have hroom := shadowGo_of_room (endFill := Dev.endFill) (last := Dev.finishFill) hshape hfmt hclass hnew hquota ht1 himage hframe (d3 := d3) rfl hstill (d4 := d4) rfl
    refine ⟨fun hmore => (hshadow htake hkey).trans ?_, fun hlast hfill => (hshadow htake hkey).trans ?_⟩
    · rw [hroom, if_pos (by rw [hmore]; rfl)]
      rfl
    · rw [hroom, if_neg (by rw [hlast]; decide), if_neg (Bool.eq_false_iff.mp hfill), Dev.whole_of_last hlast]
      rfl
  · intro gb g d q hgood
    refine (hedit htake hkey).trans ?_
    rw [mirrorEditGo_of_close hrows hclose hgood]
    rfl
  · exact hgo (silentRow_of_good htake hfence hform (mirrorAckGo_of_transfer hst (Dev.shadowAnswer_of_transfer howed haccept hrec)))
  · have hedit := Dev.editAck_of_forwarded hledger hedits hphase hmirror hprep
    rw [Dev.tryPublish_of_room hidle (fun q' hq' => Option.some.inj (hseq.symm.trans hq') ▸ hfree) (fun k x hk => absurd hk (by simp [hsrc]))] at hedit
    exact hgo (silentRow_of_good htake hfence hform (mirrorAckGo_of_edit hst (Dev.shadowAnswer_of_none howed 0) hedit))

end Sys2Proof.Machine
end

section
/-! # Edits -/
open Sys2Proof
namespace Sys2Proof.Machine

/-! ### The request at the front of its slot -/

/-- The conditions of a request, and the device that looking them up leaves. -/
def Dev.reqConds (d : Dev) (qb : QBuf) (w : Work) : List (St × Nat) × Dev := if w.kind = 1 then d.editConds qb w else (d.closeConds w, d)

/-- An edit request that the page manager takes up: its slot is free and its return QP usable. -/
structure Dev.editFront (d0 : Dev) (slot op : Nat) (w : Work) (d : Dev) : Prop where
  unheld : d0.ctxHeld 2 slot = false
  idle : d0.running slot = none
  front : d0.takeEdit slot op = some (w, d)
  here : d0.rqpAway w.src w.rqp = false
  usable : d.rqpOk w.src false w.rqp w.ten (wf w.desc 12 4) = true

section
variable {d0 d : Dev} {slot op : Nat} {w : Work} (h : d0.editFront slot op w d) (fs : List ColFault) (qb : QBuf)
include h

theorem editRow_of_cond {st : St} {info : Nat} (hc : firstCond false (d.reqConds qb w).1 = some (st, info)) :
    editRow op slot fs qb d0 = (d.reqConds qb w).2.editRefuse w st info := by
  obtain ⟨hheld, hidle, hfront, hhere, hok⟩ := h
  unfold Dev.reqConds at hc ⊢
  simp only [editRow, hheld, hidle, hfront, hhere, hok, hc, Bool.not_true, Bool.false_eq_true, if_false]

theorem editRow_of_good (hc : firstCond false (d.reqConds qb w).1 = none) :
    editRow op slot fs qb d0 = (d.reqConds qb w).2.runEdit slot w false fs qb := by
  obtain ⟨hheld, hidle, hfront, hhere, hok⟩ := h
  unfold Dev.reqConds at hc ⊢
  simp only [editRow, hheld, hidle, hfront, hhere, hok, hc, Bool.not_true, Bool.false_eq_true, if_false]

end

/-! ### The run of an edit -/

/-- The source of a FORK. -/
def Dev.srcOf (d : Dev) (w : Work) : Option Seq := if w.kind = 1 then d.forkSrc w.desc else none

/-- The pages that an edit reads. -/
def Dev.needsOf (d : Dev) (q : Seq) (w : Work) : List (Nat × Nat × PageEnt × Bool) := if w.kind = 1 then d.editNeeds q (d.srcOf w) w.desc else []

/-- The share entries that an edit holds. -/
def Dev.sharesOf (d : Dev) (q : Seq) (w : Work) : List Nat :=
  editShares q (d.editWalks q w) ++ editShares ((d.srcOf w).getD q) ((d.needsOf q w).map (fun n => (n.1, n.2.1)))

/-- The device with those share entries held. -/
def Dev.holdShares (d : Dev) (q : Seq) (w : Work) : Dev :=
  { d with pgm := { d.pgm with shares := (d.sharesOf q w).foldl (fun m k => mmod m k (fun x => { x with holds := x.holds + 1 })) d.pgm.shares } }

/-- The conditions of an edit's pages, once it holds its arbors and pins. -/
def Dev.heldConds (d : Dev) (q : Seq) (w : Work) : List (St × Nat) × Dev :=
  if w.kind = 1 then (d.holdShares q w).pageConds ((d.srcOf w).getD q) q (d.srcOf w) w.desc [] else ([], d.holdShares q w)

/-- The ledger blocks that an edit reads. -/
def Dev.blocksOf (d dp : Dev) (q : Seq) (w : Work) : List Nat :=
  editBlocks dp q (dp.editWalks q w) ++ (match d.srcOf w with
    | none => []
    | some x => editBlocks dp x ((d.needsOf q w).map (fun n => (n.1, n.2.1))))

theorem Dev.arborFault_source {d : Dev} {fs : List ColFault} {slot : Nat} {w : Work} (h : d.arborFault fs (slot :: w.srcSlot.toList) = none) :
    d.arborFault fs (slot :: (match w.srcSlot with
      | none => []
      | some s => [s])) = none := by
  cases hs : w.srcSlot with
  | none => rwa [hs] at h
  | some s => rwa [hs] at h

theorem exists_of_isT3 (l : Loc) (h : (match l with
    | .t3 _ => true
    | _ => false) = true) : ∃ u, l = .t3 u := by
  cases l with
  | t3 u => exact ⟨u, rfl⟩
  | _ => cases h

/-- An edit with its arbors and pins that finds no fault and no condition, needs no page of T3 and prepares: it goes to the mirror, or publishes. -/
theorem Dev.runEdit_of_prepared {d d1 d2 d3 : Dev} {slot v endp : Nat} {w : Work} {waited : Bool} {fs : List ColFault} {qb : QBuf} {q : Seq} {sv : Option Nat}
    {p : Prep} (hidle : d.running slot = none) (hpins : d.editPins slot w = some (v, sv, d1)) (hq : mget d1.pgm.seqs slot = some q)
    (harbor : d.arborFault fs (slot :: w.srcSlot.toList) = none) (hshare : (d1.holdShares q w).shareFault fs (d1.sharesOf q w) = none)
    (hconds : firstCond false (d1.heldConds q w).1 = none)
    (hhere : ∀ n ∈ d1.needsOf q w, ∀ u, ((d1.heldConds q w).2.resolve n.2.2.1).loc ≠ .t3 u)
    (hleaf : Dev.leafTouch fs (d1.blocksOf (d1.heldConds q w).2 q w).eraseDups ((d1.heldConds q w).2.eccAll fs) = (none, d2))
    (hprep : Dev.prepare slot q w fs qb d2 = .ok (p, endp, d3)) {e : Edit} (he : e = ⟨w, w.op, none, .slot, some v, some p, endp, sv, d1.sharesOf q w⟩) :
    ((d3.tenant q.ten).mirror = none → d.runEdit slot w waited fs qb = d3.tryPublish slot e p) ∧
    (∀ m, (d3.tenant q.ten).mirror = some m → d3.transitSpent = false →
      d.runEdit slot w waited fs qb = (d3.setEdits slot [{ e with phase := .mirror }]).forward qb m q w endp) := by
  subst he
  have hfault : ∀ x, (d.arborFault fs (slot :: (match w.srcSlot with
      | none => []
      | some s => [s]))).orElse (fun _ => (d1.holdShares q w).shareFault fs (d1.sharesOf q w)) ≠ some x := by
    rw [Dev.arborFault_source harbor, hshare]
    exact fun x h => absurd h (by simp)
  simp only [Dev.runEdit, hidle, hpins, hq]
  split
  · next c a hbad => exact absurd hbad (hfault _)
  split
  · next st info hbad => exact absurd (hbad.symm.trans hconds) (by simp)
  split
  · next n hn =>
    have hT3 := List.find?_some hn
    obtain ⟨u, hu⟩ := exists_of_isT3 ((d1.heldConds q w).2.resolve n.2.2.1).loc hT3
    exact absurd hu (hhere n (List.mem_of_find?_eq_some hn) u)
  split
  · next c a d' hbad => exact absurd (congrArg Prod.fst (hleaf.symm.trans hbad)) (by simp)
  · next d' hgood =>
    obtain rfl : d2 = d' := congrArg Prod.snd (hleaf.symm.trans hgood)
    simp only [hprep]
    exact ⟨fun hmirror => by simp only [hmirror]; rfl, fun m hmirror hspent => by simp only [hmirror, hspent, Bool.false_eq_true, if_false]; rfl⟩

/-! ### The five operations -/

/-- The command of an operation on a slot. -/
def editInstr (op slot : Nat) (fs : List ColFault) : Instr :=
  if op = 0 then .append slot fs else if op = 1 then .trim slot else if op = 2 then .keep slot fs else if op = 3 then .fork slot fs else .closeSeq slot

theorem exec_editInstr {op : Nat} (hop : op < 5) (slot : Nat) (fs : List ColFault) (s : State) :
    exec (editInstr op slot fs) s = s.run (Dev.gate [10] (editRow op slot (if op = 1 ∨ op = 4 then [] else fs) s.qb)) := by
  match op, hop with
  | 0, _ => rfl
  | 1, _ => rfl
  | 2, _ => rfl
  | 3, _ => rfl
  | 4, _ => rfl

/-- Settles O31: the request's conditions come first; then its arbors and pins, its pages and blocks, what it prepares, and the mirror. -/
theorem editsRunOrAreRefused : Obligations.EditsRunOrAreRefused := by
  unfold Obligations.EditsRunOrAreRefused
  intro s slot op fs w d hrun hidle hheld hop htake _ hhere hok c fs' conds
  have hfront : s.dev.editFront slot op w d := ⟨hheld, hidle, htake, hhere, hok⟩
  have hgo : ∀ {d' : Dev}, editRow op slot fs' s.qb s.dev = d' → exec c s = .next (s.went d') := fun {d'} hstep =>
    (exec_editInstr hop slot fs s).trans (State.run_to ((Dev.gate_of_running hrun (editRow op slot fs' s.qb)).trans hstep))
  refine ⟨fun st info hc => hgo (editRow_of_cond hfront fs' s.qb hc), fun hc => hgo (editRow_of_good hfront fs' s.qb hc), ?_⟩
  intro v sv d1 q hc hfree hpins hq src needs who held dh harbor hshare pc blocks d2 p endp d3 hconds hnot hleaf hprep e
  obtain ⟨hpublish, hforward⟩ := Dev.runEdit_of_prepared (waited := false) hfree hpins hq harbor hshare hconds hnot hleaf hprep (e := e) rfl
  have hedit := editRow_of_good hfront fs' s.qb hc
  exact ⟨fun m hmirror hspent => hgo (hedit.trans (hforward m hmirror hspent)),
    fun hmirror hdata hown hsrc => hgo (hedit.trans ((hpublish hmirror).trans (Dev.tryPublish_of_room hdata hown hsrc)))⟩

end Sys2Proof.Machine
end

section
/-! # Moves of the tier manager -/
open Sys2Proof
namespace Sys2Proof.Machine

/-! ### What a move takes and reads -/

section
variable {d d' : Dev} {fs : List ColFault} {slot lane v : Nat} {q : Seq} {id : RunId} {e : PageEnt} {rows : List ((Nat × Nat) × Bytes)}
  (h : d.readsFor fs slot q lane id e v rows d')
include h

theorem Dev.pinned_of_readsFor : ∃ d2, (d.takeArbor slot true [slot]).bind (fun d => d.takePin slot) = some (v, d2) ∧
    (d2.moveGoes id).moveRead fs slot q lane id e = .ok (rows, d') := by
  obtain ⟨d1, d2, harbor, hpin, hread⟩ := h
  exact ⟨d2, by rw [harbor]; exact hpin, hread⟩

end

/-- A page-run whose rows are read and whose frame is found is refitted. -/
theorem Dev.refit_of_refits {d d' : Dev} {m : Move} {fs : List ColFault} {alloc : Dev → Nat → Option (Frame × Dev)} {slot lane : Nat} {q : Seq} {id : RunId}
    {e : PageEnt} (hpage : d.pageOf id = some (slot, q, lane, e)) (hshare : d.shareHeld e = false)
    (h : d.refits m fs (fun d => alloc d slot) slot q lane id e d') : d.refit m id fs alloc = d' := by
  obtain ⟨v, rows, d1, f, d2, hreads, halloc, hend⟩ := h
  obtain ⟨dp, hpin, hread⟩ := Dev.pinned_of_readsFor hreads
  have hpin' : (d.takeArbor slot true [slot]).bind (fun d => (d.takePin slot).map (fun x => (x.1, x.2.moveGoes id))) = some (v, dp.moveGoes id) := by
    obtain ⟨da, ha, hp⟩ := Option.bind_eq_some_iff.mp hpin
    rw [ha, Option.bind_some, hp, Option.map_some]
  have halloc' : alloc d1 slot = some (f, d2) := halloc
  simp only [Dev.refit, hpage, hshare, hpin', hread, halloc', Bool.false_eq_true, if_false]
  cases hloc : e.loc with
  | share i =>
    simp only [hloc] at hend ⊢
    exact hend.symm
  | _ =>
    simp only [hloc] at hend ⊢
    exact Dev.swapEntry_of_swaps hend

/-! ### PROMOTION and DEMOTION -/

/-- A due page-run of T1 that may move to T0, which has room, at once (R177). -/
structure Dev.promotable (d : Dev) (id : RunId) (slot lane : Nat) (q : Seq) (e : PageEnt) : Prop where
  page : d.pageOf id = some (slot, q, lane, e)
  due : d.moveDue id = true
  inT1 : (d.resolve e).loc.isT1 = true
  movable : d.movable slot id (d.resolve e) = true
  own : d.lodging slot = false
  allowed : fld (d.tenant id.ten).tiers 0 1 ≠ 0
  room : d.t0Fits (fKib q.geo.fcls) = true
  unheld : d.shareHeld e = false
  arbor : d.arborFree slot = true

theorem Dev.makeT0Room_of_fits {d : Dev} {kib : Nat} (h : d.t0Fits kib = true) (fs : List ColFault) (n : Nat) : d.makeT0Room kib fs n = d := by
  cases n with
  | zero => rfl
  | succ n => simp only [Dev.makeT0Room, h, if_true]

theorem promotionStep_of_promotable {d : Dev} {id : RunId} {slot lane : Nat} {q : Seq} {e : PageEnt} (h : d.promotable id slot lane q e) (fs : List ColFault) :
    promotionStep id fs d = (d.notDue id).refit .promote id fs (fun d _ => d.allocT0 q.ten q.geo.fcls) := by
  obtain ⟨hpage, hdue, hT1, hmov, hown, hallow, hroom, hshare, harbor⟩ := h
  simp only [promotionStep, hpage, hdue, hT1, hmov, hown, hallow, Dev.makeT0Room_of_fits hroom, hroom, hshare, harbor, Bool.not_true, Bool.or_self,
    decide_false, Bool.false_eq_true, if_false]

theorem demotionStep_of_due {d : Dev} {id : RunId} {slot lane : Nat} {q : Seq} {e : PageEnt} (hpage : d.pageOf id = some (slot, q, lane, e))
    (hT0 : (d.resolve e).loc.isT0 = true) (hmov : d.movable slot id (d.resolve e) = true)
    (hwhy : fld (d.tenant id.ten).tiers 0 1 = 0 ∨ (d.plc.t0press = true ∧ d.oldT0 (fun _ => true) = some id)) (fs : List ColFault) :
    demotionStep id fs d = d.demote id fs := by
  have hcond : (decide (fld (d.tenant id.ten).tiers 0 1 = 0) || (d.plc.t0press && decide (d.oldT0 (fun _ => true) = some id))) = true := by
    simpa using hwhy
  simp only [demotionStep, hpage, hT0, hmov, hcond, Bool.not_true, Bool.or_self, Bool.false_eq_true, if_false, if_true]

theorem Dev.demote_of_room {d : Dev} {id : RunId} {slot lane : Nat} {q : Seq} {e : PageEnt} (hpage : d.pageOf id = some (slot, q, lane, e))
    (hroom : fKib q.geo.fcls + 1 ≤ d.t1Open) (fs : List ColFault) :
    d.demote id fs = d.refit .demote id fs (fun d slot => d.allocT1 q.ten q.geo.fcls (slot + 7 * lane + id.page)) := by
  simp only [Dev.demote, hpage, if_neg (Nat.not_lt.mpr hroom)]

/-! ### LENDING and RETURN -/

theorem lendingStep_of_peer {d : Dev} {id : RunId} {slot lane i : Nat} {l : List Nat} {q : Seq} {e : PageEnt} (hpage : d.pageOf id = some (slot, q, lane, e))
    (hnext : d.nextDown = some id) (hown : d.lodging slot = false) (hfence : d.trn.fenced = false) (hpeer : d.lendTo id = i :: l) (fs : List ColFault) :
    lendingStep id fs d = d.startOffer .lend id (d.tray i) fs := by
  simp [lendingStep, hpage, hnext, hown, hfence, hpeer]

/-- A due page-run of a lodging ledger that its home, whose QP stands, may have back at once (R178). -/
structure Dev.returnable (d : Dev) (id : RunId) (slot lane : Nat) (q : Seq) (e : PageEnt) (r : Run) : Prop where
  page : d.pageOf id = some (slot, q, lane, e)
  record : d.run id = some r
  due : r.due = true
  unfenced : d.trn.fenced = false
  lodges : d.lodging slot = true
  inT1 : e.loc.isT1 = true
  movable : d.movable slot id e = true
  peer : (d.peerQp r.peer).isSome = true
  arbor : d.arborFree slot = true

theorem returnStep_of_returnable {d : Dev} {id : RunId} {slot lane : Nat} {q : Seq} {e : PageEnt} {r : Run} (h : d.returnable id slot lane q e r)
    (fs : List ColFault) : returnStep id fs d = (d.notDue id).startOffer .ret id r.peer fs := by
  obtain ⟨hpage, hrec, hdue, hfence, hlodge, hT1, hmov, hpeer, harbor⟩ := h
  have hsome : (d.peerQp r.peer).isNone = false := by simpa [← Option.not_isSome] using hpeer
  simp only [returnStep, hpage, hrec, hdue, hfence, hlodge, hT1, hmov, hsome, harbor, Bool.not_true, Bool.or_self, Bool.false_eq_true, if_false]

/-- An offer whose page-run's rows are read is sent (R192). -/
theorem Dev.startOffer_of_reads {d d1 : Dev} {m : Move} {id : RunId} {dest slot lane v : Nat} {q : Seq} {e : PageEnt} {r : Run} {fs : List ColFault}
    {rows : List ((Nat × Nat) × Bytes)} (hpage : d.pageOf id = some (slot, q, lane, e)) (hrec : d.run id = some r) (hfence : d.trn.fenced = false)
    (hepoch : r.epoch ≠ 0xFFFFFFFF) (hspent : d.transitSpent = false) (hreads : d.readsFor fs slot q lane id e v rows d1) :
    d.startOffer m id dest fs = ((d1.modRun id (fun r => { r with hstate := .offered, peer := dest })).sendImage dest 0 id r.epoch q.geo e
      (heldIn q lane id.page) rows).setEdits slot [moveEdit q m id dest .offer (some v) emptyPrep] := by
  obtain ⟨d2, hpin, hread⟩ := Dev.pinned_of_readsFor hreads
  simp only [Dev.startOffer, hpage, hrec, hfence, if_neg hepoch, hspent, hpin, hread, Bool.false_eq_true, if_false]

/-! ### SPILL -/

/-- A page-run that is next to go down and that its tenant's spill area may take (R187). -/
structure Dev.spillable (d : Dev) (id : RunId) (ch : Nat) : Prop where
  channel : d.spillChan = some ch
  next : d.nextDown = some id
  allowed : d.canSpill id = true

section
variable {d : Dev} {id : RunId} {ch : Nat} (h : d.spillable id ch) (fs : List ColFault)
include h

theorem spillStep_of_page {d1 : Dev} {slot lane v : Nat} {q : Seq} {e : PageEnt} (hpage : d.pageOf id = some (slot, q, lane, e))
    (hcopy : (d.run id).bind Run.copy = none) (hdown : d.lodging slot = true ∨ d.lendTo id = [])
    (hpin : (d.takeArbor slot true [slot]).bind (fun d => d.takePin slot) = some (v, d1)) :
    spillStep id fs none d = match (d1.moveGoes id).moveRead fs slot q lane id e with
      | .error x => x.unpin slot v
      | .ok (rows, d2) => match d2.spillOut id q.geo (imageRaw q.geo e.first (heldIn q lane id.page) rows) with
        | (none, d3) => (d3.unpin slot v).noRoom id
        | (some (u, ver), d3) => d3.swapEntry slot q lane .spill id 0 (some { e with loc := .t3 u, ver := ver, sblk := 0 }) (some v)
            { emptyPrep with retire := emptyRetired.unref e } := by
  obtain ⟨hch, hnext, hcan⟩ := h
  have hgo : ¬ (d.nextDown ≠ some id ∨ (!d.canSpill id) = true) := by simp [hnext, hcan]
  have hlend : ¬ (!d.lodging slot && !(d.lendTo id).isEmpty) = true := by
    obtain hlodge | hnone := hdown
    · simp [hlodge]
    · simp [hnone]
  simp only [spillStep, hch, if_neg hgo, hcopy, hpage, if_neg hlend, hpin] <;> rfl

theorem spillStep_of_copy {r : Run} {c : Copy} {rows : List ((Nat × Nat) × Bytes)} (hrec : d.run id = some r) (hcopy : r.copy = some c)
    (hrows : ((d.eccAll fs).claimPage c.geo c.ent.loc c.ent.first c.held false).rowsAt fs c.geo id id.ten c.ent c.ent.first c.held = .ok rows) :
    let d1 := (d.eccAll fs).claimPage c.geo c.ent.loc c.ent.first c.held false
    (∀ cause, spillStep id fs (some cause) d = d1.spillFails ch cause id c.geo (imageRaw c.geo c.ent.first c.held rows)) ∧
    (∀ u ver d2, d1.spillOut id c.geo (imageRaw c.geo c.ent.first c.held rows) = (some (u, ver), d2) →
      spillStep id fs none d = ((d2.dropFrame c.ent.loc).modRun id (fun r =>
        { r with copy := some { c with ent := { c.ent with loc := .t3 u, ver := ver, sblk := 0 } } })).moveDone (.spill, id, 0)) := by
  obtain ⟨hch, hnext, hcan⟩ := h
  have hgo : ¬ (d.nextDown ≠ some id ∨ (!d.canSpill id) = true) := by simp [hnext, hcan]
  refine ⟨fun cause => ?_, fun u ver d2 hout => ?_⟩
  · simp only [spillStep, hch, if_neg hgo, hrec, Option.bind_some, hcopy, hrows]
  · simp only [spillStep, hch, if_neg hgo, hrec, Option.bind_some, hcopy, hrows, hout]

end

/-! ### STAGE_BACK -/

theorem Dev.active_chCount (d : Dev) (ch : Option Nat) (n t : Nat) : (d.chCount ch n).active t = d.active t := by
  cases ch <;> rfl

theorem Dev.run_chCount (d : Dev) (ch : Option Nat) (n : Nat) (id : RunId) : (d.chCount ch n).run id = d.run id := by
  cases ch <;> rfl

theorem Dev.pageOf_chCount (d : Dev) (ch : Option Nat) (n : Nat) (id : RunId) : (d.chCount ch n).pageOf id = d.pageOf id := by
  cases ch <;> rfl

/-- The image of a page-run of an active tenant arrives for the stage-back that is under way. -/
structure Dev.stages (d : Dev) (id : RunId) : Prop where
  underway : d.dma.xfers.any (fun x => decide (x.what = .stage id) && x.issued) = true
  active : d.active id.ten = true

section
variable {d : Dev} {id : RunId} (h : d.stages id) (im : Bytes)
include h

theorem stageBackStep_of_page {slot lane u : Nat} {q : Seq} {e : PageEnt} (hpage : d.pageOf id = some (slot, q, lane, e))
    (hcopy : (d.run id).bind Run.copy = none) (hloc : e.loc = .t3 u)
    (hwant : (d.chCount (d.xferChan (.stage id)) im.length).stageWants.contains id = true) :
    stageBackStep id im d = (d.chCount (d.xferChan (.stage id)) im.length).stagePage id slot q lane e im := by
  obtain ⟨hx, hact⟩ := h
  have hT3 : isT3Ent e = true := by simp only [isT3Ent, hloc]
  simp only [stageBackStep, hx, Dev.active_chCount, hact, Dev.run_chCount, hcopy, Dev.pageOf_chCount, hpage, hT3, hwant, Bool.not_true, Bool.false_eq_true,
    if_false, if_true]

theorem stageBackStep_of_copy {r : Run} {c : Copy} (hrec : d.run id = some r) (hcopy : r.copy = some c) :
    stageBackStep id im d = (d.chCount (d.xferChan (.stage id)) im.length).stageShadow id c im := by
  obtain ⟨hx, hact⟩ := h
  simp only [stageBackStep, hx, Dev.active_chCount, hact, Dev.run_chCount, hrec, Option.bind_some, hcopy, Bool.not_true, Bool.false_eq_true, if_false]

end

theorem Dev.stagePage_of_room {d d0 d1 d2 d3 : Dev} {id : RunId} {slot lane : Nat} {q : Seq} {e : PageEnt} {im : Bytes} {rows : List ((Nat × Nat) × Bytes)}
    {f : Frame} {p : Prep} (hedits : ∀ x ∈ q.edits, x.phase = .stage id) (hroom : d.noT1 q.geo.fcls (slot + 7 * lane + id.page) = false)
    (harbor : d.takeArbor slot true [slot] = some d0)
    (hrows : ((Dev.leafTouch [] (editBlocks d0 q [(lane, id.page)]) d0).2).stageRows id q.geo e.first 16 e.ver im = .ok (rows, d1))
    (hframe : d1.allocT1 q.ten q.geo.fcls (slot + 7 * lane + id.page) = some (f, d2))
    (hlane : Dev.newLane q lane (q.now lane).endp (mset (q.now lane).pages id.page (frameEnt f e.first e.kscale e.vscale)) [id.page]
      { emptyPrep with made := [f.loc] } ((d2.dropXfer (.stage id)).writeRowsAt q.geo id f.loc f.ver rows) = .ok (p, d3))
    (hfree : slotsFree q p.lanes = true) :
    d.stagePage id slot q lane e im = (d3.publish slot (moveEdit q .stageBack id 0 .slot none p) p).setEdits slot q.edits := by
  have hnone : q.edits.any (fun x => decide (x.phase ≠ .stage id)) = false := by
    simpa using hedits
  simp only [Dev.stagePage, hnone, hroom, harbor, hrows, hframe, hlane, hfree, Bool.not_true, Bool.false_eq_true, if_false]

theorem Dev.stageShadow_of_room {d d1 d2 : Dev} {id : RunId} {u : Nat} {c : Copy} {im : Bytes} {rows : List ((Nat × Nat) × Bytes)} {f : Frame}
    (hloc : c.ent.loc = .t3 u) (hgood : c.ent.failed = false) (hwant : d.shadowWanted id = true) (hroom : d.noT1 c.geo.fcls (copyDie id c.geo) = false)
    (hrows : d.stageRows id c.geo c.ent.first 16 c.ent.ver im = .ok (rows, d1)) (hframe : d1.allocT1 id.ten c.geo.fcls (copyDie id c.geo) = some (f, d2)) :
    d.stageShadow id c im = (((d2.dropXfer (.stage id)).writeRowsAt c.geo id f.loc f.ver rows).modRun id (fun r =>
      { r with copy := some { c with ent := frameEnt f c.ent.first c.ent.kscale c.ent.vscale } })).moveDone (.stageBack, id, 0) := by
  have hT3 : isT3Ent c.ent = true := by simp only [isT3Ent, hloc]
  simp only [Dev.stageShadow, hT3, hgood, hwant, hroom, hrows, hframe, Bool.not_true, Bool.or_self, Bool.false_eq_true, if_false]

/-! ### TILE_REREAD -/

/-- The frame of a page-run that is read again: that of its copy, or of its page in the ledger. -/
def Dev.rereadAt (d : Dev) (id : RunId) (g : Geom) (e : PageEnt) (hi : Nat) : Prop :=
  (∃ c, (d.run id).bind Run.copy = some c ∧ g = c.geo ∧ e = c.ent ∧ hi = c.held) ∨
    ((d.run id).bind Run.copy = none ∧ ∃ slot q lane e0, d.pageOf id = some (slot, q, lane, e0) ∧ g = q.geo ∧ e = d.resolve e0 ∧ hi = heldIn q lane id.page)

theorem tileRereadStep_of_place {d0 d : Dev} {id : RunId} {fs : List ColFault} {x : RunId × Nat} {g : Geom} {e : PageEnt} {hi : Nat}
    (hx : d0.plc.suspects.find? (fun y => decide (y.1 = id ∧ y.2 < 16)) = some x) (hquiet : d0.quiet id = true)
    (hd : d = ({ d0 with plc := { d0.plc with suspects := d0.plc.suspects.filter (fun y => decide (y.1 ≠ id)) } }).eccAll fs)
    (hat : d.rereadAt id g e hi) (hgood : e.failed = false) (hloc : e.loc.isT0 = true ∨ e.loc.isT1 = true) :
    tileRereadStep id fs d0 = tileRereadStep.go id fs d g e hi := by
  subst hd
  have hframe : ∀ (a b : Dev), (match e.loc with
      | .t0 _ => a
      | .t1 _ _ _ => a
      | _ => b) = a := by
    intro a b
    cases hl : e.loc with
    | t0 _ => rfl
    | t1 _ _ _ => rfl
    | _ => simp [hl, Loc.isT0, Loc.isT1] at hloc
  obtain ⟨x1, x2⟩ := x
  obtain ⟨c, hcopy, rfl, rfl, rfl⟩ | ⟨hcopy, slot, q, lane, e0, hpage, rfl, rfl, rfl⟩ := hat
  · simp only [tileRereadStep, hx, hquiet, hcopy, hgood, Bool.not_true, Bool.false_eq_true, if_false]
    exact hframe _ _
  · simp only [tileRereadStep, hx, hquiet, hcopy, hpage, Option.map_some, hgood, Bool.not_true, Bool.false_eq_true, if_false]
    exact hframe _ _

/-! ### The moves as commands -/

theorem State.run_awake {s : State} {f : Dev → Dev} {d : Dev} (hrun : s.dev.isStopped (11 * 4096) = false) (hawake : s.dev.awake = true) (h : f s.dev = d) :
    s.run (Dev.gate [11] (fun d => if d.awake then f d else d)) = .next (s.went d) :=
  State.run_to ((Dev.gate_of_running hrun (fun d => if d.awake then f d else d)).trans ((if_pos hawake).trans h))

theorem exec_spill_of_awake {s : State} {id : RunId} {r : SpillRun} {d : Dev} (hrun : s.dev.isStopped (11 * 4096) = false)
    (hbank : s.dev.isStopped (4 * 4096) = false) (hawake : s.dev.awake = true) (h : spillStep id r.faults r.bus s.dev = d) :
    exec (.spill id r) s = .next (s.went d) :=
  State.run_to ((Dev.gate_of_two_running hrun hbank (fun d => if d.awake then spillStep id r.faults r.bus d else d)).trans ((if_pos hawake).trans h))

theorem exec_stageBack_of_running {s : State} {id : RunId} {im : Bytes} {d : Dev} (hrun : s.dev.isStopped (11 * 4096) = false)
    (hbank : s.dev.isStopped (4 * 4096) = false) (h : stageBackStep id im s.dev = d) : exec (.stageBack id im) s = .next (s.went d) :=
  State.run_to ((Dev.gate_of_two_running hrun hbank (stageBackStep id im)).trans h)

/-- Settles O37: each move of a page-run in the ledger, the moves of a copy, and the re-read of a suspect page-run. -/
theorem tierMoves : Obligations.TierMoves := by
  unfold Obligations.TierMoves
  refine ⟨fun s id fs hrun hbank hawake => ⟨fun slot q lane e hpage => ?_, fun r c hrec hcopy => ⟨?_, ?_⟩⟩, ?_⟩
  · refine ⟨fun hdue hT1 hmov hown hallow hroom hshare harbor => ?_, fun hT0 hmov hwhy => State.run_awake hrun hawake (demotionStep_of_due hpage hT0 hmov hwhy fs),
      fun i l hnext hown hfence hpeer => State.run_awake hrun hawake (lendingStep_of_peer hpage hnext hown hfence hpeer fs),
      fun r hrec hdue hfence hlodge hT1 hmov hpeer harbor =>
        State.run_awake hrun hawake (returnStep_of_returnable ⟨hpage, hrec, hdue, hfence, hlodge, hT1, hmov, hpeer, harbor⟩ fs),
      fun ch v d1 hch hnext hcan hcopy hdown hpin => exec_spill_of_awake hrun hbank hawake (spillStep_of_page ⟨hch, hnext, hcan⟩ fs hpage hcopy hdown hpin),
      fun u im hx hact hcopy hloc hwant => exec_stageBack_of_running hrun hbank (stageBackStep_of_page ⟨hx, hact⟩ im hpage hcopy hloc hwant),
      fun d1 hdue hT1 hmov hown hallow hroom hshare harbor hrefit => ?_, fun d1 hT0 hmov hwhy hroom hshare hrefit => ?_,
      fun i l r v rows d1 hnext hown hfence hpeer hrec hepoch hspent hreads => ?_,
      fun r v rows d1 hrec hdue hfence hlodge hT1 hmov hpeer harbor hepoch hspent hrec' hreads => ?_,
      fun ch v rows d1 u ver d2 d3 hch hnext hcan hcopy hdown hreads hout hswap => ?_,
      fun u im d0 rows d1 f d2 p d3 hx hact hcopy hedits hloc => ?_⟩
    · exact State.run_awake hrun hawake (promotionStep_of_promotable ⟨hpage, hdue, hT1, hmov, hown, hallow, hroom, hshare, harbor⟩ fs)
    · exact State.run_awake hrun hawake ((promotionStep_of_promotable ⟨hpage, hdue, hT1, hmov, hown, hallow, hroom, hshare, harbor⟩ fs).trans
        (Dev.refit_of_refits (d := s.dev.notDue id) hpage hshare hrefit))
    · exact State.run_awake hrun hawake ((demotionStep_of_due hpage hT0 hmov hwhy fs).trans
        ((Dev.demote_of_room hpage hroom fs).trans (Dev.refit_of_refits hpage hshare hrefit)))
    · exact State.run_awake hrun hawake ((lendingStep_of_peer hpage hnext hown hfence hpeer fs).trans
        (Dev.startOffer_of_reads hpage hrec hfence hepoch hspent hreads))
    · exact State.run_awake hrun hawake ((returnStep_of_returnable ⟨hpage, hrec, hdue, hfence, hlodge, hT1, hmov, hpeer, harbor⟩ fs).trans
        (Dev.startOffer_of_reads (d := s.dev.notDue id) (r := { r with due := false }) hpage hrec' hfence hepoch hspent hreads))
    · obtain ⟨dp, hpin, hread⟩ := Dev.pinned_of_readsFor hreads
      refine exec_spill_of_awake hrun hbank hawake ((spillStep_of_page ⟨hch, hnext, hcan⟩ fs hpage hcopy hdown hpin).trans ?_)
      simp only [hread, hout]
      exact Dev.swapEntry_of_swaps hswap
    · intro dc hwant hroom harbor hrows hframe hlane hfree
      exact exec_stageBack_of_running hrun hbank ((stageBackStep_of_page ⟨hx, hact⟩ im hpage hcopy hloc hwant).trans
        (Dev.stagePage_of_room hedits hroom harbor hrows hframe hlane hfree))
  · intro ch rows u ver d2 hch hnext hcan d1 hrows
    obtain ⟨hfails, hspills⟩ := spillStep_of_copy ⟨hch, hnext, hcan⟩ fs hrec hcopy hrows
    exact ⟨fun cause => exec_spill_of_awake hrun hbank hawake (hfails cause), fun hout => exec_spill_of_awake hrun hbank hawake (hspills u ver d2 hout)⟩
  · intro u im rows d1 f d2 hx hact hloc hgood dc hwant hroom hrows hframe
    exact exec_stageBack_of_running hrun hbank ((stageBackStep_of_copy ⟨hx, hact⟩ im hrec hcopy).trans
      (Dev.stageShadow_of_room hloc hgood hwant hroom hrows hframe))
  · intro s id fs x g e hi hrun hx hquiet d hat hgood hloc d1
    exact State.run_to ((Dev.gate_of_running hrun (tileRereadStep id fs)).trans (tileRereadStep_of_place hx hquiet rfl hat hgood hloc))

end Sys2Proof.Machine
end
